-- ==== Sys2Proof/Word.lean ====
section
/-! DEFINITION. The value types of the LD-640 that both commands and state use (spec/00_scope.md section 5). -/

namespace Sys2Proof

/-- One byte of a message or frame (spec 12, R189, R194). -/
abbrev Byte := BitVec 8

/-- Agent numbers 0 to 5, and with them the agent ports A0 to A5 (spec 00 section 5.3). -/
abbrev Agent := Fin 6

/-- Request labels 0 to 7 (spec 00 section 5.3). -/
abbrev Label := Fin 8

/-- Transaction entries T0 to T23 (spec 00 section 5.3). -/
abbrev EntryNo := Fin 24

/-- Ways 0 to 7 of a set (spec 00 section 5.2). -/
abbrev WayNo := Fin 8

/-- Memory tags M0 to M7 (spec 08). -/
abbrev MemTagNo := Fin 8

/-- Writeback buffers, eight of them (spec 05, R93). -/
abbrev BufferNo := Fin 8

/-- Region slots G0 to G15 (spec 09). -/
abbrev SlotNo := Fin 16

/-- Beats 0 to 3 of a line (spec 00 section 5.2). -/
abbrev Beat := Fin 4

/-- Use numbers and tag use counts, 0 to 255, wrapping (spec 03 R48, spec 08 R140). -/
abbrev UseNo := BitVec 8

/-- A line address, 0 to 67,108,863 (spec 00 section 5.2). -/
abbrev Line := BitVec 26

/-- The four line bytes of an inbound message as they arrive (spec 12, R194, R195). -/
abbrev LineField := BitVec 32

/-- A set number, 0 to 2047 (spec 01, R1). -/
abbrev SetNo := BitVec 11

/-- A record's tag, 0 to 32,767 (spec 01, R1). -/
abbrev RecTag := BitVec 15

/-- The 64 bytes of a line: byte i stands in bits 8i to 8i+7 (spec 00 section 5.2, spec 02 R45). -/
abbrev LineData := BitVec 512

/-- One beat of a line: 16 bytes (spec 02, R45). -/
abbrev BeatData := BitVec 128

/-- The byte mask of an UNCACHED-WRITE: entry i names byte i of the line (spec 02, R40, R45). -/
abbrev ByteMask := BitVec 64

/-- A set of agents, agent n in bit n, as records and descriptors store it (spec 12, R189, R196). -/
abbrev AgentSet := BitVec 6

end Sys2Proof
end

