-- ==== Sys2Proof/Syntax.lean ====
section
/-! DEFINITION. The commands of the LD-640: one constructor for each row of spec/opcode_table.json. -/

namespace Sys2Proof

/-- A command: one event at the part or one indivisible step of one of its blocks (spec 00 section 3.2, spec 95).
Operands are the fields the event brings: message fields as spec 02 R40, R41 and spec 12 R194, R195 name them,
argument bytes of maintenance frames as spec 12 R189 names them. -/
inductive Instr where
  /-- RESET_ASSERT (R17) -/
  | resetAssert
  /-- RESET_RELEASE (R17) -/
  | resetRelease
  /-- CLEAR_WALK_SET (R20) -/
  | clearWalkSet
  /-- LINK_UP (R24) -/
  | linkUp (a : Agent)
  /-- LINK_DOWN (R24) -/
  | linkDown (a : Agent)
  /-- READ_SHARED (R32, R40) -/
  | readShared (a : Agent) (label : Label) (line : LineField) (first : Beat)
  /-- READ_OWN (R32, R40) -/
  | readOwn (a : Agent) (label : Label) (line : LineField) (first : Beat)
  /-- UPGRADE (R32, R40) -/
  | upgrade (a : Agent) (label : Label) (line : LineField)
  /-- UNCACHED_READ (R32, R40) -/
  | uncachedRead (a : Agent) (label : Label) (line : LineField) (first : Beat)
  /-- UNCACHED_WRITE (R32, R40) -/
  | uncachedWrite (a : Agent) (label : Label) (line : LineField) (data : LineData) (mask : ByteMask)
  /-- LOCKED_READ (R32, R40) -/
  | lockedRead (a : Agent) (label : Label) (line : LineField) (first : Beat)
  /-- RECALL_ACK (R38, R41): the entry number as its byte arrives -/
  | recallAck (a : Agent) (entry : Byte) (use : UseNo) (held : Bool)
  /-- RECALL_DATA (R38, R41) -/
  | recallData (a : Agent) (entry : Byte) (use : UseNo) (data : LineData) (kept : Bool)
  /-- WRITEBACK (R34, R41) -/
  | writeback (a : Agent) (line : LineField) (data : LineData)
  /-- DROP (R34, R41) -/
  | drop (a : Agent) (line : LineField)
  /-- UNPIN (R34, R41), with or without data -/
  | unpin (a : Agent) (line : LineField) (data : Option LineData)
  /-- JOIN (R26) -/
  | join (a : Agent)
  /-- LEAVE (R27) -/
  | leave (a : Agent)
  /-- UNKNOWN_MESSAGE (R25, R194): the kind byte is no inbound code -/
  | unknownMessage (a : Agent) (kind : Byte)
  /-- OUTPUT_MESSAGE_SENT (R36) -/
  | outputMessageSent (a : Agent)
  /-- ADMISSION_EXAMINE (R62): the head of this agent's request queue -/
  | admissionExamine (a : Agent)
  /-- INTERNAL_POOL_GRANT (R67) -/
  | internalPoolGrant
  /-- RESPONSE_HANDLER_RECALL_REPLY (R88) -/
  | responseHandlerRecallReply (a : Agent)
  /-- RESPONSE_HANDLER_WRITEBACK (R94) -/
  | responseHandlerWriteback (a : Agent)
  /-- RESPONSE_HANDLER_DROP (R101) -/
  | responseHandlerDrop (a : Agent)
  /-- RESPONSE_HANDLER_UNPIN (R121) -/
  | responseHandlerUnpin (a : Agent)
  /-- RECALL_TIMER_EXPIRY (R39): the timer of this record of the agent's recall list -/
  | recallTimerExpiry (a : Agent) (entry : EntryNo) (use : UseNo)
  /-- MEM_DATA (R146, R195): tag and status bytes as they arrive -/
  | memData (tag : Byte) (use : UseNo) (status : Byte) (data : LineData)
  /-- MEM_DONE (R147, R195) -/
  | memDone (tag : Byte) (use : UseNo) (status : Byte)
  /-- MEMORY_TIMER_EXPIRY (R145) -/
  | memoryTimerExpiry (tag : MemTagNo)
  /-- PIN_TIMER_EXPIRY (R123) -/
  | pinTimerExpiry (entry : EntryNo)
  /-- SCRUB_INTERVAL_EXPIRY (R183) -/
  | scrubIntervalExpiry
  /-- SWEEP_READ (R164) -/
  | sweepRead
  /-- SWEEP_GAP_EXPIRY (R163) -/
  | sweepGapExpiry
  /-- FRAME_ABORTED (R188) -/
  | frameAborted
  /-- UNKNOWN_COMMAND (R188): the command byte is none of R189 -/
  | unknownCommand (byte : Byte)
  /-- COMMAND_WHILE_BUSY (R188) -/
  | commandWhileBusy
  /-- READ_WORD (R192) -/
  | readWord (index : Byte)
  /-- WRITE_WORD (R193) -/
  | writeWord (index : Byte) (value : BitVec 32)
  /-- WRITE_ALERT_PENDING (R186, R193): WRITE-WORD of word 1 -/
  | writeAlertPending (value : BitVec 32)
  /-- WRITE_ALERT_ENABLE (R186, R193): WRITE-WORD of word 2 -/
  | writeAlertEnable (value : BitVec 32)
  /-- SCRUB_ENABLE (R183, R193): WRITE-WORD of word 3 that sets or clears bit 1 -/
  | scrubEnable (on : Bool)
  /-- SOLE_READER_EXCLUSIVE (R77, R193): WRITE-WORD of word 3 that sets or clears bit 0 -/
  | soleReaderExclusive (on : Bool)
  /-- INSPECT (R190) -/
  | inspect (set : BitVec 16) (way : Byte)
  /-- REGION_READ (R155) -/
  | regionRead (slot : Byte)
  /-- REGION_WRITE (R154): the descriptor's 8 bytes, byte 0 in the most significant place -/
  | regionWrite (slot : Byte) (descriptor : BitVec 64)
  /-- PORT_RESET (R30) -/
  | portReset (agent : Byte)
  /-- CLEAR_UNIT (R21) -/
  | clearUnit
  /-- INJECT (R184, R191) -/
  | inject (set : BitVec 16) (way : Byte) (part : Byte) (count : Byte) (bitA : Byte) (bitB : Byte)
  /-- CLEAR_POISON (R191) -/
  | clearPoison (line : BitVec 32)
  /-- WAY_ENABLE (R16) -/
  | wayEnable (set : BitVec 16) (way : Byte)
  /-- CAPTURE_READ (R185) -/
  | captureRead
  /-- UNKNOWN_MEMORY_REPLY (R195): the kind byte is neither MEM-DATA nor MEM-DONE -/
  | unknownMemoryReply (kind : Byte)
  /-- COMMAND_EXECUTION_END (R188) -/
  | commandExecutionEnd
  deriving DecidableEq, Repr

end Sys2Proof
end

