-- ==== Sys2Proof/Decode.lean ====
section
/-! DEFINITION. The commands that words of spec/opcode_table.json spell: no row of that table gives bits. -/

namespace Sys2Proof

/-- The command a word of `nbits` bits spells by the table's bits. No row of spec/opcode_table.json gives any bits
(each row's "fields" is empty and none carries a pattern), so no word spells a command. The layouts messages and
frames have on their links (R189, R194) are read in Machine/Formats.lean. -/
def decodeTableWord (_nbits _w : Nat) : Option Instr := none

end Sys2Proof
end

