-- ==== Sys2Proof/Config.lean ====
section
/-! DEFINITION. What one LD-640 fixes: its capacities and its reset figures (spec/00_scope.md section 7). -/

namespace Sys2Proof.Config

/-- Requests a request queue holds (R32). -/
def requestQueueSize : Nat := 8
/-- Messages a response queue holds (R34). -/
def responseQueueSize : Nat := 8
/-- Messages an output queue holds (R36). -/
def outputQueueSize : Nat := 16
/-- Requests a deferred list holds (R54). -/
def deferredListSize : Nat := 6
/-- Places of the agent allowance (R61). -/
def agentPlaces : Nat := 20
/-- The greatest pin count (R69). -/
def pinLimit : Nat := 4
/-- Sets of the record array (R1). -/
def sets : Nat := 2048
/-- Lines of one region unit, 64 KiB (spec 09 section 9.1). -/
def linesPerUnit : Nat := 1024
/-- Units of the memory window (spec 09 section 9.1). -/
def regionUnits : Nat := 65536
/-- Greatest value of the 16-bit counters: soft check, late drops, stale replies, late memory replies,
memory corrected (R102, R105, R144, R146, R175). -/
def counterMax : Nat := 65535
/-- Greatest value of the hard check counter and of the uncaptured count (R177, R185). -/
def smallCounterMax : Nat := 255

/-- The bound on the internal work items one command sets off (log 11). -/
def workBound : Nat := 1000000

end Sys2Proof.Config
end

