-- ==== Sys2Proof/Machine/State.lean ====
section
/-! DEFINITION. The state of the LD-640 as plain data, and the state after reset. -/

namespace Sys2Proof.Machine

/-! ### The record array (spec 01, 11) -/

/-- Unit states (R17). -/
inductive UnitState where
  | initializing | running | lost
  deriving DecidableEq, Repr

/-- States of a line record (R4). -/
inductive RecState where
  | shared | exclusive | poisoned
  deriving DecidableEq, Repr

/-- The state part of a record: state, holder set, pin (spec 01 section 1.3, R4, R5). -/
structure Rec where
  state : RecState
  holders : AgentSet
  pin : Option Agent
  deriving DecidableEq, Repr

/-- A stored word: the value last written with its code, and which of its stored bits have flipped since (R174, R184).
The word is good, correctable or uncorrectable by how many bits are flipped (log 6). -/
structure Coded (α : Type) (w : Nat) where
  value : α
  flips : BitVec w
  deriving DecidableEq, Repr

/-- One way: two tag copies (not in use, or in use with a tag) and the state part (spec 01 section 1.3); the stored
words have 22 and 18 bits (R191). -/
structure Way where
  tag1 : Coded (Option RecTag) 22
  tag2 : Coded (Option RecTag) 22
  state : Coded Rec 18
  deriving DecidableEq, Repr

/-- One set: eight ways and the set header, whose word has 35 bits and holds the recency order, most recently touched
first (R13, R191). -/
structure ASet where
  ways : Vector Way 8
  order : Coded (List WayNo) 35
  deriving DecidableEq, Repr

/-- The marks of one way, kept apart from the protected words (R16, R177, R179). -/
structure Marks where
  strike : Bool
  disable : Bool
  lost : Bool
  due : Bool
  deriving DecidableEq, Repr

/-! ### Messages (spec 02 section 2.8, spec 08) -/

/-- Request kinds (R40). -/
inductive ReqKind where
  | readShared | readOwn | upgrade | uncachedRead | uncachedWrite | lockedRead
  deriving DecidableEq, Repr

/-- A request kept whole (R54); kinds without first beat, data or mask carry 0 there. -/
structure Request where
  agent : Agent
  kind : ReqKind
  label : Label
  line : Line
  first : Beat
  data : LineData
  mask : ByteMask
  deriving DecidableEq, Repr

/-- A response-class message (R41). -/
inductive Resp where
  | recallAck (entry : Byte) (use : UseNo) (held : Bool)
  | recallData (entry : Byte) (use : UseNo) (data : LineData) (kept : Bool)
  | writeback (line : Line) (data : LineData)
  | drop (line : Line)
  | unpin (line : Line) (data : Option LineData)
  deriving DecidableEq, Repr

/-- A message of a response queue; `held` while the handler holds it for a rebuild (R177), `waits` while it waits for a
writeback buffer (R94). -/
structure QueuedResp where
  msg : Resp
  held : Bool
  waits : Bool
  deriving DecidableEq, Repr

/-- Recall kinds (R44). -/
inductive RecallKind where
  | invalidate | return | share
  deriving DecidableEq, Repr

/-- Refusal reasons (R42). -/
inductive Reason where
  | range | protect | notCacheable | poisoned | noWay | pinLimit | labelInUse | duplicateLine | leaving | held
  | memoryFault | queueFull
  deriving DecidableEq, Repr

/-- Outbound messages (R42, R43); line data is the list of its beats in the order they are sent (R45). -/
inductive OutMsg where
  | grantShared (label : Label) (line : Line) (beats : List BeatData)
  | grantExclusive (label : Label) (line : Line) (beats : List BeatData) (pinned : Bool)
  | grantUpgrade (label : Label) (line : Line)
  | uncachedData (label : Label) (line : Line) (beats : List BeatData)
  | uncachedDone (label : Label) (line : Line)
  | refuse (label : Label) (line : Line) (reason : Reason)
  | recall (line : Line) (kind : RecallKind) (entry : EntryNo) (use : UseNo)
  | wbAck (line : Line)
  | unpinAck (line : Line) (late : Bool)
  | pinBroken (line : Line)
  | joinAck
  | leaveDone
  | portDown
  deriving DecidableEq, Repr

/-- Messages to the memory controller (R140). -/
inductive MemMsg where
  | read (tag : MemTagNo) (use : UseNo) (line : Line)
  | write (tag : MemTagNo) (use : UseNo) (line : Line) (data : LineData)
  deriving DecidableEq, Repr

/-! ### Agent ports (spec 02) -/

/-- Port states (spec 02 section 2.1). -/
inductive PortState where
  | offline | online | draining | failed
  deriving DecidableEq, Repr

/-- A record of a recall list: entry number, use number, running timer (R38). `left` is the time the timer has left. -/
structure RecallRec where
  entry : EntryNo
  use : UseNo
  left : Nat
  deriving DecidableEq, Repr

/-- Who waits for a place in an output queue (R37). -/
inductive Producer where
  /-- an entry with its final reply -/
  | reply (e : EntryNo)
  /-- an entry placing a recall -/
  | recall (e : EntryNo)
  /-- the response handler with a WB-ACK or UNPIN-ACK of its own -/
  | handlerAck
  /-- the response handler with the acknowledgement of a writeback buffer (R96) -/
  | bufferAck (b : BufferNo)
  /-- a pin expiry with PIN-BROKEN (R123) -/
  | pinBroken (e : EntryNo)
  /-- the admission arbiter with a REFUSE -/
  | admission
  /-- the port itself with JOIN-ACK -/
  | joinAck
  deriving DecidableEq, Repr

/-- A waiting producer with its message, which stays as it stood (R37). -/
structure Waiter where
  producer : Producer
  msg : OutMsg
  deriving DecidableEq, Repr

/-- Where the head of a request queue stands with the admission arbiter (R62, R64, R65, R37): not yet examined, held
by the same-line order guard, a claimant for an entry or place, or answered with a refusal that waits. -/
inductive HeadStand where
  | fresh | held | claimant | refusing
  deriving DecidableEq, Repr

/-- One agent port (spec 02 section 2.1). -/
structure Port where
  link : Bool
  state : PortState
  requests : List Request
  head : HeadStand
  responses : List QueuedResp
  output : List OutMsg
  waiters : List Waiter
  labels : List Label
  recalls : List RecallRec
  holding : Nat
  autoOffline : Bool
  drainRequested : Bool
  deriving DecidableEq, Repr

/-! ### Transaction table (spec 03) -/

/-- Entry kinds: the six agent kinds and the three internal kinds (spec 03 section 3.1). -/
inductive Kind where
  | req (k : ReqKind)
  | retire
  | rebuild
  | sweepRecall
  deriving DecidableEq, Repr

/-- Phases (spec 03 section 3.3). -/
inductive Phase where
  | free | starting | awaitingWay | rebuilding | recalling | readingMemory | writingMemory | replying | pinned
  deriving DecidableEq, Repr

/-- A pending recall: its kind and whether it is placed or waiting to be placed (R46, R52). -/
structure PendingRecall where
  kind : RecallKind
  placed : Bool
  deriving DecidableEq, Repr

/-- Data states of a line buffer (R46, R53). -/
inductive DataState where
  | none | fromMemory | fromHolder | fromWriteback | merged
  deriving DecidableEq, Repr

/-- Rebuild notes: settled, noted failed, or neither (R46, R181). -/
inductive Note where
  | neither | settled | failed
  deriving DecidableEq, Repr

/-- How the final reply stands (R46). -/
inductive ReplyStand where
  | none | waiting | placed
  deriving DecidableEq, Repr

/-- One transaction entry (R46). The last nine fields are the progress that the plans of spec 04 to 11 imply. -/
structure Entry where
  kind : Kind
  origin : Option (Agent × Label)
  line : Line
  use : UseNo
  phase : Phase
  pending : Vector (Option PendingRecall) 6
  data : DataState
  buffer : LineData
  mask : ByteMask
  first : Beat
  deferred : List Request
  dependent : Option EntryNo
  reserved : Option WayNo
  victim : Option WayNo
  copy : Option Rec
  notes : Vector Note 6
  recheck : Bool
  orphaned : Bool
  /-- the pin timer: stopped, or the time it has left -/
  pinTimer : Option Nat
  reply : ReplyStand
  /-- the plan is that of a sole reader (R77) -/
  sole : Bool
  /-- a memory write has been claimed in this use of the entry -/
  wrote : Bool
  /-- a write fault's POISON is still to be made (R148) -/
  poisonOwed : Bool
  /-- the agents whose pending recalls step 1 of that write fault placed (R148); read while the POISON is owed -/
  faultRecalls : AgentSet
  /-- a rebuild runs in this entry (R181) -/
  rebuild : Bool
  /-- PIN-BROKEN waits for a place (R123) -/
  breaking : Bool
  /-- the entry is counted in the pin count (R69) -/
  pinCounted : Bool
  /-- a refusal has been decided (R51, R74, R80, R118) -/
  refused : Bool
  /-- data of an absorbed writeback is to go to memory, the line being left unheld (R99) -/
  saves : Bool
  /-- the region check found that the requester has the write right (R156) -/
  mayWrite : Bool
  deriving DecidableEq, Repr

/-- A REBUILD claim at the internal-pool arbiter (R66). -/
structure RebuildClaim where
  line : Line
  set : SetNo
  way : WayNo
  deriving DecidableEq, Repr

/-- Stands of a member of an awaiting list (R129); a waiting RETIRE claim is held by its dependent's stand (R131). -/
inductive Stand where
  | noClaim
  | claimWaiting (victim : Line) (way : WayNo)
  | retireActive (e : EntryNo)
  deriving DecidableEq, Repr

/-- A member of an awaiting list (R129). The lists of all sets are held as one list in the order of joining; the list
of one set is its members whose lines fall in that set. -/
structure Awaiting where
  entry : EntryNo
  stand : Stand
  deriving DecidableEq, Repr

/-! ### Writeback buffers and the memory port (spec 05, 08) -/

/-- Writeback buffer states (spec 05 section 5.2). -/
inductive BufState where
  | free | writing | acking | owing
  deriving DecidableEq, Repr

/-- One writeback buffer (spec 05 section 5.2); `late` when its acknowledgement is UNPIN-ACK LATE (R124); `ackDone`
when the acknowledgement has been placed or dropped (R97). -/
structure WbBuffer where
  state : BufState
  line : Line
  agent : Agent
  late : Bool
  data : LineData
  ackDone : Bool
  deriving DecidableEq, Repr

/-- Who claims memory operations (spec 08 section 8.2). -/
inductive Claimant where
  | entry (e : EntryNo)
  | buffer (b : BufferNo)
  deriving DecidableEq, Repr

/-- A claim of the claim queue (spec 08 section 8.2). -/
structure MemClaim where
  claimant : Claimant
  write : Bool
  line : Line
  deriving DecidableEq, Repr

/-- The operation of a tag that is not FREE: HELD (`issued` no) or ISSUED, with the time its timer has left. -/
structure TagOp where
  claim : MemClaim
  issued : Bool
  left : Nat
  deriving DecidableEq, Repr

/-- One memory tag (spec 08 section 8.2): FREE when it has no operation. -/
structure MemTag where
  use : UseNo
  op : Option TagOp
  deriving DecidableEq, Repr

/-! ### Regions, settings, sweep, scrubber, capture, alerts (spec 09 to 12) -/

/-- One region slot's descriptor (R150). -/
structure Region where
  enabled : Bool
  base : Nat
  size : Nat
  readSet : AgentSet
  writeSet : AgentSet
  cacheable : Bool
  deriving DecidableEq, Repr

/-- What the supervising processor programs (spec 12 section 12.3, spec 09). -/
structure Settings where
  regions : Vector Region 16
  soleReader : Bool
  scrubEnable : Bool
  recallTimeout : BitVec 16
  memoryTimeout : BitVec 16
  pinTimeout : BitVec 16
  scrubInterval : BitVec 16
  sweepGap : BitVec 16
  softThreshold : BitVec 16
  alertEnable : BitVec 12
  deriving DecidableEq, Repr

/-- Sweep states (spec 10 section 10.1). -/
inductive SweepState where
  | idle | processing | claiming | gap
  deriving DecidableEq, Repr

/-- Criterion kinds (spec 10 section 10.1). -/
inductive CritKind where
  | region
  | strip (a : Agent)
  | drain (a : Agent)
  deriving DecidableEq, Repr

/-- A criterion (spec 10 section 10.1); `skip` while the set in progress is not counted for it (R162). -/
structure Criterion where
  kind : CritKind
  joinSet : SetNo
  remaining : Nat
  skip : Bool
  deriving DecidableEq, Repr

/-- The SWEEP-RECALL claim, with the nonconformance found (R66, R164). -/
structure SweepClaim where
  line : Line
  recalls : List (Agent × RecallKind)
  deriving DecidableEq, Repr

/-- The sweep engine (spec 10 section 10.1). -/
structure Sweep where
  state : SweepState
  cursor : SetNo
  way : WayNo
  criteria : List Criterion
  gapLeft : Option Nat
  claim : Option SweepClaim
  deriving DecidableEq, Repr

/-- The scrubber (R183). -/
structure Scrub where
  cursor : SetNo
  passes : BitVec 32
  timer : Option Nat
  deriving DecidableEq, Repr

/-- Fault kinds of the capture record (R185). -/
inductive FaultKind where
  | hardCheck | tagLost | recallTimeout | linkDown | memoryReadFault | memoryWriteFault | memoryTimeout | protocol
  deriving DecidableEq, Repr

/-- Sub-reasons of PROTOCOL faults (R185). -/
inductive SubReason where
  | labelInUse | staleReply | unexpected | held | queueFull
  deriving DecidableEq, Repr

/-- A report to fault capture: the fields of the capture record (R185). The entry is the entry byte, which for a
stale reply is the number the reply carried (R105). -/
structure Report where
  kind : FaultKind
  sub : Option SubReason
  agent : Option Agent
  line : Option Line
  set : Option SetNo
  way : Option WayNo
  entry : Option Byte
  time : BitVec 32
  deriving DecidableEq, Repr

/-- The counters of the register window that only count (R102, R105, R144, R146, R175, R177, R185). -/
structure Counters where
  soft : Nat
  hard : Nat
  uncaptured : Nat
  lateDrop : Nat
  stale : Nat
  lateMem : Nat
  memCorrected : Nat
  deriving DecidableEq, Repr

/-! ### Maintenance link (spec 12) -/

/-- Maintenance commands (R189). -/
inductive MaintCmd where
  | readWord | writeWord | inspect | regionRead | regionWrite | portReset | clearUnit | inject | clearPoison | wayEnable
  | captureRead
  deriving DecidableEq, Repr

/-- Statuses (R188). -/
inductive Status where
  | ok | busy | badArg | overlap | notAllowed | fault | lost
  deriving DecidableEq, Repr

/-- What a frame answers: its status and its data bytes (R187). -/
structure Answer where
  status : Status
  data : List Byte
  deriving DecidableEq, Repr

/-- The command in execution with the answer it will give; `discard` when its frame has ended (R188). -/
structure Execution where
  command : MaintCmd
  answer : Answer
  discard : Bool
  deriving DecidableEq, Repr

/-! ### Work in progress within one step -/

/-- Internal work that an event has made due and that is done before the step ends (log 11). -/
inductive Task where
  /-- take the steps an entry's plan now allows (R50, R74, R56) -/
  | advance (e : EntryNo)
  /-- make an entry's opening work (R51) -/
  | start (e : EntryNo)
  /-- take an agent's recall as answered not-held (R52) -/
  | notHeld (e : EntryNo) (a : Agent)
  /-- end the memory read of an entry's present use as a read fault (R97, R142) -/
  | readFault (e : EntryNo) (use : UseNo)
  /-- wake the awaiting list of a set (R130) -/
  | wake (set : SetNo)
  /-- re-examine waiting heads and grant claimants (R62, R65) -/
  | admission
  /-- serve heads that wait for a writeback buffer (R94) -/
  | serveBuffers
  /-- give free output places to waiting producers (R37) -/
  | outputPlace (a : Agent)
  deriving DecidableEq, Repr

/-! ### The machine -/

/-- The whole part. -/
structure State where
  resetPin : Bool
  physLink : Vector Bool 6
  unitState : UnitState
  walk : SetNo
  sets : List (Nat × ASet)
  marks : List (Nat × Marks)
  ports : Vector Port 6
  entries : Vector Entry 24
  position : Agent
  rebuildClaims : List RebuildClaim
  awaiting : List Awaiting
  buffers : Vector WbBuffer 8
  bufferWaiters : List Agent
  tags : Vector MemTag 8
  claimQueue : List MemClaim
  memSent : List MemMsg
  settings : Settings
  sweep : Sweep
  scrub : Scrub
  capture : Option Report
  counters : Counters
  alertPending : BitVec 12
  unitTime : BitVec 32
  executing : Option Execution
  answer : Option Answer
  work : List Task
  pending : List Instr
  deriving DecidableEq, Repr

/-- Faults of the model: none. What the LD-640 calls faults are reports and states of its own (R185, R17), so they are
next states, and no command stops the machine. -/
inductive Fault where
  deriving DecidableEq, Repr

/-- Refusals of the model. -/
inductive Refusal where
  /-- raised by an arm of exec whose command has no meaning yet; safe: nothing can be proved of what the command does -/
  | notModelled (mnemonic : String)
  deriving DecidableEq, Repr

/-! ### Values at reset -/

/-- A record no one reads: what the clear walk writes into a state part, an empty holder set and no pin (R20, log 8). -/
def Rec.empty : Rec := { state := .shared, holders := 0, pin := none }

/-- A free way with good codes (R20). -/
def Way.cleared : Way := { tag1 := ⟨none, 0⟩, tag2 := ⟨none, 0⟩, state := ⟨Rec.empty, 0⟩ }

/-- A set as the clear walk writes it (R20): what an unlisted set reads as (log 7). -/
def ASet.cleared : ASet := { ways := Vector.replicate 8 Way.cleared, order := ⟨[], 0⟩ }

/-- Marks all clear (R19, R179): what the marks of an unlisted way read as. -/
def Marks.clear : Marks := { strike := false, disable := false, lost := false, due := false }

/-- A port at assertion of RESET (R23). -/
def Port.reset : Port :=
  { link := false, state := .offline, requests := [], head := .fresh, responses := [], output := [], waiters := [],
    labels := [], recalls := [], holding := 0, autoOffline := false, drainRequested := false }

/-- A FREE entry with the given use number (R46, R47); fields without meaning hold READ-SHARED and 0 (log 8). -/
def Entry.free (use : UseNo) : Entry :=
  { kind := .req .readShared, origin := none, line := 0, use := use, phase := .free, pending := Vector.replicate 6 none,
    data := .none, buffer := 0, mask := 0, first := 0, deferred := [], dependent := none, reserved := none,
    victim := none, copy := none, notes := Vector.replicate 6 .neither, recheck := false, orphaned := false,
    pinTimer := none, reply := .none, sole := false, wrote := false, poisonOwed := false, faultRecalls := 0,
    rebuild := false, breaking := false, pinCounted := false, refused := false, saves := false, mayWrite := false }

/-- A FREE writeback buffer (R93); its other fields have no meaning (log 8). -/
def WbBuffer.free : WbBuffer := { state := .free, line := 0, agent := 0, late := false, data := 0, ackDone := false }

/-- A FREE memory tag with use count 0 (R141). -/
def MemTag.reset : MemTag := { use := 0, op := none }

/-- The descriptor of every slot at assertion of RESET (R150). -/
def Region.reset : Region :=
  { enabled := false, base := 0, size := 1, readSet := 0, writeSet := 0, cacheable := false }

/-- Settings at assertion of RESET (R150, R186, R192). -/
def Settings.reset : Settings :=
  { regions := Vector.replicate 16 Region.reset, soleReader := false, scrubEnable := true, recallTimeout := 2000,
    memoryTimeout := 1000, pinTimeout := 5000, scrubInterval := 100, sweepGap := 20, softThreshold := 1000,
    alertEnable := 0 }

/-- The sweep engine at assertion of RESET, at CLEAR-UNIT and in LOST (R161). -/
def Sweep.reset : Sweep := { state := .idle, cursor := 0, way := 0, criteria := [], gapLeft := none, claim := none }

/-- The scrubber at assertion of RESET (R183). -/
def Scrub.reset : Scrub := { cursor := 0, passes := 0, timer := none }

/-- Counters at assertion of RESET (R192). -/
def Counters.reset : Counters :=
  { soft := 0, hard := 0, uncaptured := 0, lateDrop := 0, stale := 0, lateMem := 0, memCorrected := 0 }

/-- The part at assertion of the RESET pin, with the pin still asserted (R17, R19, log 10): every item at its power-on
value. The round-robin position is A5 (R47). -/
def State.reset : State :=
  { resetPin := true, physLink := Vector.replicate 6 false, unitState := .initializing, walk := 0, sets := [],
    marks := [], ports := Vector.replicate 6 Port.reset, entries := Vector.replicate 24 (Entry.free 0), position := 5,
    rebuildClaims := [], awaiting := [], buffers := Vector.replicate 8 WbBuffer.free, bufferWaiters := [],
    tags := Vector.replicate 8 MemTag.reset, claimQueue := [], memSent := [], settings := Settings.reset,
    sweep := Sweep.reset, scrub := Scrub.reset, capture := none, counters := Counters.reset, alertPending := 0,
    unitTime := 0, executing := none, answer := none, work := [], pending := [] }

end Sys2Proof.Machine
end

