-- ==== Sys2Proof/Machine/Operands.lean ====
section
/-! DEFINITION. Operands: line, set and tag arithmetic, line data and beats, agent sets, stored words, and the argument
fields of maintenance frames. -/

namespace Sys2Proof.Machine

/-! ### Lines, sets and tags -/

/-- The line an inbound message names: bits 0 to 25 of its line field (R195). -/
def lineOfField (f : LineField) : Line := f.setWidth 26

/-- The tag of a line: line div 2048 (R1). -/
def tagOf (l : Line) : RecTag := l.extractLsb' 11 15

/-- The set number of a line: (line mod 2048) XOR ((line div 2048) mod 2048) (R1). -/
def setOf (l : Line) : SetNo := l.extractLsb' 0 11 ^^^ (tagOf l).setWidth 11

/-- The line that a set number and a tag name: tag x 2048 + (set XOR (tag mod 2048)) (R1). -/
def lineOf (n : SetNo) (t : RecTag) : Line := t ++ (n ^^^ t.setWidth 11)

/-- The set after a set, wrapping from 2047 to 0 (R163, R183). -/
def nextSet (n : SetNo) : SetNo := n + 1

/-! ### Agents and ways -/

/-- The agents, in ascending order. -/
def agents : List Agent := [0, 1, 2, 3, 4, 5]

/-- The ways of a set, in ascending order. -/
def ways : List WayNo := [0, 1, 2, 3, 4, 5, 6, 7]

/-- The memory tags, in ascending order. -/
def memTags : List MemTagNo := [0, 1, 2, 3, 4, 5, 6, 7]

/-- The writeback buffers, in ascending order. -/
def bufferNos : List BufferNo := [0, 1, 2, 3, 4, 5, 6, 7]

/-- The entries of the agent pool, T0 to T19 (spec 03 section 3.1). -/
def agentPool : List EntryNo := [0, 1, 2, 3, 4, 5, 6, 7, 8, 9, 10, 11, 12, 13, 14, 15, 16, 17, 18, 19]

/-- The entries of the internal pool, T20 to T23 (spec 03 section 3.1). -/
def internalPool : List EntryNo := [20, 21, 22, 23]

/-- All entries, in ascending order. -/
def entryNos : List EntryNo := agentPool ++ internalPool

/-- The agents from the one after `p`, wrapping from A5 to A0, `p` last (R65). -/
def agentsAfter (p : Agent) : List Agent := [p + 1, p + 2, p + 3, p + 4, p + 5, p]

/-- Membership in a stored set of agents. -/
def AgentSet.has (h : AgentSet) (a : Agent) : Bool := h.getLsbD a.val

/-- The set with one agent added; an agent already there adds nothing (R8). -/
def AgentSet.add (h : AgentSet) (a : Agent) : AgentSet := h ||| (1#6 <<< a.val)

/-- The set with one agent taken out. -/
def AgentSet.remove (h : AgentSet) (a : Agent) : AgentSet := h &&& ~~~(1#6 <<< a.val)

/-- The set of one agent. -/
def AgentSet.only (a : Agent) : AgentSet := 1#6 <<< a.val

/-- The agents of a set, ascending. -/
def AgentSet.list (h : AgentSet) : List Agent := agents.filter (fun a => AgentSet.has h a)

/-! ### Line data -/

/-- Byte `i` of a line (spec 00 section 5.2). -/
def byteOf (d : LineData) (i : Nat) : Byte := d.extractLsb' (8 * i) 8

/-- Beat `b` of a line: bytes 16b to 16b + 15 (R45). -/
def beatOf (d : LineData) (b : Beat) : BeatData := d.extractLsb' (128 * b.val) 128

/-- The four beats in sending order: the first beat, then the next ones mod 4 (R45). -/
def beatsFrom (d : LineData) (b : Beat) : List BeatData := [beatOf d b, beatOf d (b + 1), beatOf d (b + 2), beatOf d (b + 3)]

/-- The line's bits that the first `n` entries of a byte mask mark. -/
def maskBits (m : ByteMask) : Nat → LineData
  | 0 => 0
  | n + 1 => maskBits m n ||| (if m.getLsbD n then (0xFF#512 <<< (8 * n)) else 0)

/-- New data over old data, byte by byte: a byte whose mask entry marks it written keeps the old contents, every other
byte takes the new (R53). -/
def mergeData (m : ByteMask) (old new : LineData) : LineData :=
  (old &&& maskBits m 64) ||| (new &&& ~~~(maskBits m 64))

/-- A full mask marks all 64 entries (R113). -/
def fullMask (m : ByteMask) : Bool := m == BitVec.allOnes 64

/-! ### Stored words and check codes (R174) -/

/-- The three conditions a stored word is found in (R174). -/
inductive WordCond where
  | good | correctable | uncorrectable
  deriving DecidableEq, Repr

/-- The condition of a word by its flipped bits: none, one, or two or more (R174). -/
def flipCond {w : Nat} (f : BitVec w) : WordCond :=
  if f = 0 then .good else if f &&& (f - 1) = 0 then .correctable else .uncorrectable

/-- The condition of a stored word. -/
def Coded.cond {α : Type} {w : Nat} (c : Coded α w) : WordCond := flipCond c.flips

/-- A word written with a fresh code. -/
def Coded.fresh {α : Type} {w : Nat} (v : α) : Coded α w := ⟨v, 0⟩

/-! ### Argument fields of maintenance frames (R189, R191) -/

/-- A set argument in range 0 to 2047. -/
def setArg (f : BitVec 16) : Option SetNo := if f.toNat < 2048 then some (f.setWidth 11) else none

/-- A way argument in range 0 to 7. -/
def wayArg (b : Byte) : Option WayNo := if h : b.toNat < 8 then some ⟨b.toNat, h⟩ else none

/-- A slot argument in range 0 to 15. -/
def slotArg (b : Byte) : Option SlotNo := if h : b.toNat < 16 then some ⟨b.toNat, h⟩ else none

/-- An agent argument in range 0 to 5. -/
def agentArg (b : Byte) : Option Agent := if h : b.toNat < 6 then some ⟨b.toNat, h⟩ else none

/-- A line argument in range 0 to 0x3FFFFFF. -/
def lineArg (f : BitVec 32) : Option Line := if f.toNat < 2 ^ 26 then some (f.setWidth 26) else none

/-- Byte `i` of an 8-byte descriptor, byte 0 first on the link. -/
def descByte (d : BitVec 64) (i : Nat) : Byte := d.extractLsb' (8 * (7 - i)) 8

/-- The region descriptor in its 8 bytes (R189): byte 0 enabled and cacheable, bytes 1 to 2 base, 3 to 5 size, 6 read
set, 7 write set. Bits the layout does not give are ignored (log 28). -/
def regionOfBytes (d : BitVec 64) : Region :=
  { enabled := (descByte d 0).getLsbD 0
    cacheable := (descByte d 0).getLsbD 1
    base := (descByte d 1 ++ descByte d 2).toNat
    size := (descByte d 3 ++ descByte d 4 ++ descByte d 5).toNat
    readSet := (descByte d 6).setWidth 6
    writeSet := (descByte d 7).setWidth 6 }

/-- The 8 descriptor bytes of a region (R189, R155). -/
def bytesOfRegion (r : Region) : List Byte :=
  [ (BitVec.ofBool r.enabled).setWidth 8 ||| ((BitVec.ofBool r.cacheable).setWidth 8 <<< 1),
    BitVec.ofNat 8 (r.base / 256), BitVec.ofNat 8 r.base,
    BitVec.ofNat 8 (r.size / 65536), BitVec.ofNat 8 (r.size / 256), BitVec.ofNat 8 r.size,
    r.readSet.setWidth 8, r.writeSet.setWidth 8 ]

/-- Whether every agent of the first set is in the second. -/
def AgentSet.subset (h k : AgentSet) : Bool := (h &&& ~~~k) == 0

/-- The argument checks of REGION-WRITE: size 1 to 65,536, base 0 to 65,535, base plus size at most 65,536, write set
within the read set (R152). -/
def Region.sound (r : Region) : Bool :=
  decide (1 ≤ r.size) && decide (r.size ≤ Config.regionUnits) && decide (r.base < Config.regionUnits) &&
    decide (r.base + r.size ≤ Config.regionUnits) && AgentSet.subset r.writeSet r.readSet

/-- Two regions overlap when the first starts before the second ends and the second before the first ends (R153). -/
def Region.overlaps (r q : Region) : Bool := decide (r.base < q.base + q.size) && decide (q.base < r.base + r.size)

/-- Whether a slot's region covers a line; a disabled slot covers nothing (R150, R151). -/
def Region.covers (r : Region) (l : Line) : Bool :=
  r.enabled && decide (r.base * Config.linesPerUnit ≤ l.toNat) && decide (l.toNat < (r.base + r.size) * Config.linesPerUnit)

/-- The region of a line: the enabled slot that covers it, or none (R151). -/
def regionOf (t : Settings) (l : Line) : Option Region := t.regions.toList.find? (fun r => r.covers l)

/-- In range: the line has a region (R151). -/
def inRange (t : Settings) (l : Line) : Bool := (regionOf t l).isSome

/-- The read right of an agent for a line; no where the line has no region (R151). -/
def readRight (t : Settings) (a : Agent) (l : Line) : Bool :=
  match regionOf t l with
  | some r => AgentSet.has r.readSet a
  | none => false

/-- The write right of an agent for a line (R151). -/
def writeRight (t : Settings) (a : Agent) (l : Line) : Bool :=
  match regionOf t l with
  | some r => AgentSet.has r.writeSet a
  | none => false

/-- Whether the line's region is cacheable (R151). -/
def cacheable (t : Settings) (l : Line) : Bool :=
  match regionOf t l with
  | some r => r.cacheable
  | none => false

/-! ### Kinds -/

/-- Write-type kinds: those that need the write right (R156). -/
def ReqKind.writeType : ReqKind → Bool
  | .readShared => false
  | .readOwn => true
  | .upgrade => true
  | .uncachedRead => false
  | .uncachedWrite => true
  | .lockedRead => true

/-- Cached kinds: those that need a cacheable region (R156). -/
def ReqKind.cached : ReqKind → Bool
  | .readShared => true
  | .readOwn => true
  | .upgrade => true
  | .uncachedRead => false
  | .uncachedWrite => false
  | .lockedRead => true

/-- The region check of STARTING: the refusal of the first check that fails, or none (R156). -/
def regionCheck (t : Settings) (k : ReqKind) (a : Agent) (l : Line) : Option Reason :=
  if !inRange t l then some .range
  else if !readRight t a l then some .protect
  else if k.writeType && !writeRight t a l then some .protect
  else if k.cached && !cacheable t l then some .notCacheable
  else none

/-- Whether an entry's kind is an agent kind (spec 03 section 3.1). -/
def Kind.isAgent : Kind → Bool
  | .req _ => true
  | .retire => false
  | .rebuild => false
  | .sweepRecall => false

/-! ### Sparse stores in canonical form -/

/-- The contents at key `k` of a store: the listed value, or `d` where nothing is listed. -/
def storeGet {β : Type} (d : β) : List (Nat × β) → Nat → β
  | [], _ => d
  | (k', v) :: m, k => if k' = k then v else storeGet d m k

/-- The store with `v` at key `k`: keys stay strictly rising, and writing what an unlisted key reads as removes the
entry. -/
def storePut {β : Type} [DecidableEq β] (d : β) : List (Nat × β) → Nat → β → List (Nat × β)
  | [], k, v => if v = d then [] else [(k, v)]
  | (k', v') :: m, k, v =>
    if k < k' then (if v = d then (k', v') :: m else (k, v) :: (k', v') :: m)
    else if k = k' then (if v = d then m else (k, v) :: m)
    else (k', v') :: storePut d m k v

/-- Every key of a store is at least `b`, keys rise strictly, and no entry equals what an unlisted key reads as. -/
def storeWfFrom {β : Type} [DecidableEq β] (d : β) : Nat → List (Nat × β) → Bool
  | _, [] => true
  | b, (k, v) :: m => decide (b ≤ k) && decide (v ≠ d) && storeWfFrom d (k + 1) m

/-- The canonical form of a store. -/
def storeWf {β : Type} [DecidableEq β] (d : β) (m : List (Nat × β)) : Bool := storeWfFrom d 0 m

end Sys2Proof.Machine
end

