-- ==== Sys2Proof/Machine/Flags.lean ====
section
/-! DEFINITION. Counters, alert causes and fault capture: every flag and count the part raises. -/

namespace Sys2Proof.Machine

/-- One more, staying at the greatest value (spec 00 section 5.1). -/
def satInc (max n : Nat) : Nat := if n < max then n + 1 else max

/-! ### Alert causes (R186, R192 word 1) -/

/-- INIT-DONE. -/
def alertInitDone : Nat := 0
/-- CAPTURE. -/
def alertCapture : Nat := 1
/-- AGENT-FAILED of an agent. -/
def alertAgentFailed (a : Agent) : Nat := 2 + a.val
/-- SWEEP-IDLE. -/
def alertSweepIdle : Nat := 8
/-- WAY-DISABLED. -/
def alertWayDisabled : Nat := 9
/-- SOFT-THRESHOLD. -/
def alertSoftThreshold : Nat := 10
/-- LOST. -/
def alertLost : Nat := 11

/-- A cause goes pending (R186). -/
def State.raise (s : State) (cause : Nat) : State :=
  { s with alertPending := s.alertPending ||| (1#12 <<< cause) }

/-- ALERT is asserted while a cause is both pending and enabled (R186). -/
def State.alertOutput (s : State) : Bool := (s.alertPending &&& s.settings.alertEnable) != 0

/-! ### Fault capture (R185) -/

/-- A report with no fields but its kind and the unit time of the event (R185). -/
def Report.blank (k : FaultKind) (time : BitVec 32) : Report :=
  { kind := k, sub := none, agent := none, line := none, set := none, way := none, entry := none, time := time }

/-- A report: it fills a capture record that is not valid and sets CAPTURE pending, or raises the uncaptured count
(R185). -/
def State.report (s : State) (r : Report) : State :=
  match s.capture with
  | none => { s with capture := some r }.raise alertCapture
  | some _ =>
    { s with counters := { s.counters with uncaptured := satInc Config.smallCounterMax s.counters.uncaptured } }

/-- The entry byte of an entry. -/
def entryByte (e : EntryNo) : Byte := BitVec.ofNat 8 e.val

/-- A PROTOCOL fault with its sub-reason, agent, line and entry (R185). -/
def State.reportProtocol (s : State) (sub : SubReason) (a : Agent) (line : Option Line) (entry : Option Byte) : State :=
  s.report { Report.blank .protocol s.unitTime with sub := some sub, agent := some a, line := line, entry := entry }

/-! ### Counters -/

/-- A soft fault: the soft counter rises, and at or above the threshold SOFT-THRESHOLD goes pending (R175). -/
def State.softFault (s : State) : State :=
  let n := satInc Config.counterMax s.counters.soft
  let s' := { s with counters := { s.counters with soft := n } }
  if s.settings.softThreshold.toNat ≤ n then s'.raise alertSoftThreshold else s'

/-- The hard check counter rises (R177, R178, R180). -/
def State.countHard (s : State) : State :=
  { s with counters := { s.counters with hard := satInc Config.smallCounterMax s.counters.hard } }

/-- The late-drop counter rises (R102). -/
def State.countLateDrop (s : State) : State :=
  { s with counters := { s.counters with lateDrop := satInc Config.counterMax s.counters.lateDrop } }

/-- The stale-reply counter rises (R105). -/
def State.countStale (s : State) : State :=
  { s with counters := { s.counters with stale := satInc Config.counterMax s.counters.stale } }

/-- The late-memory-reply counter rises (R144). -/
def State.countLateMem (s : State) : State :=
  { s with counters := { s.counters with lateMem := satInc Config.counterMax s.counters.lateMem } }

/-- The memory-corrected counter rises (R146). -/
def State.countMemCorrected (s : State) : State :=
  { s with counters := { s.counters with memCorrected := satInc Config.counterMax s.counters.memCorrected } }

end Sys2Proof.Machine
end

