-- ==== Sys2Proof/Machine/Ops.lean ====
section
/-! DEFINITION. The named operations over State: accessors, the sweep's criteria list, the record array with its claims,
verification and edits, placing of outbound messages and recalls, and the claims of the memory port. -/

namespace Sys2Proof.Machine

/-! ### Accessors -/

/-- An agent port. -/
def State.port (s : State) (a : Agent) : Port := s.ports[a]

/-- The state with a port replaced. -/
def State.setPort (s : State) (a : Agent) (p : Port) : State := { s with ports := s.ports.set a p }

/-- The state with a port changed. -/
def State.modPort (s : State) (a : Agent) (f : Port → Port) : State := s.setPort a (f (s.port a))

/-- A transaction entry. -/
def State.entry (s : State) (e : EntryNo) : Entry := s.entries[e]

/-- The state with an entry replaced. -/
def State.setEntry (s : State) (e : EntryNo) (x : Entry) : State := { s with entries := s.entries.set e x }

/-- An active entry changed; a FREE entry has no work and takes no change (R46). -/
def Entry.change (x : Entry) (f : Entry → Entry) : Entry := if x.phase = .free then x else f x

/-- The state with an active entry changed. -/
def State.modEntry (s : State) (e : EntryNo) (f : Entry → Entry) : State := s.setEntry e ((s.entry e).change f)

/-- A writeback buffer. -/
def State.buffer (s : State) (b : BufferNo) : WbBuffer := s.buffers[b]

/-- The state with a writeback buffer replaced. -/
def State.setBuffer (s : State) (b : BufferNo) (x : WbBuffer) : State := { s with buffers := s.buffers.set b x }

/-- A memory tag. -/
def State.tag (s : State) (t : MemTagNo) : MemTag := s.tags[t]

/-- The state with a memory tag replaced. -/
def State.setTag (s : State) (t : MemTagNo) (x : MemTag) : State := { s with tags := s.tags.set t x }

/-- The stored contents of a set. -/
def State.aset (s : State) (n : SetNo) : ASet := storeGet ASet.cleared s.sets n.toNat

/-- The state with a set written. -/
def State.putSet (s : State) (n : SetNo) (x : ASet) : State := { s with sets := storePut ASet.cleared s.sets n.toNat x }

/-- The key of a way's marks. -/
def wayKey (n : SetNo) (w : WayNo) : Nat := n.toNat * 8 + w.val

/-- The marks of a way. -/
def State.mark (s : State) (n : SetNo) (w : WayNo) : Marks := storeGet Marks.clear s.marks (wayKey n w)

/-- The state with the marks of a way written. -/
def State.putMark (s : State) (n : SetNo) (w : WayNo) (m : Marks) : State :=
  { s with marks := storePut Marks.clear s.marks (wayKey n w) m }

/-- The state with a way changed. -/
def State.modWay (s : State) (n : SetNo) (w : WayNo) (f : Way → Way) : State :=
  let x := s.aset n
  s.putSet n { x with ways := x.ways.set w (f x.ways[w]) }

/-- Internal work made due (log 11). -/
def State.push (s : State) (t : Task) : State := { s with work := s.work ++ [t] }

/-- The unit is RUNNING (R17). -/
def State.running (s : State) : Bool := s.unitState == .running

/-- A port is ONLINE or DRAINING (R25, R36). -/
def Port.attached (p : Port) : Bool := p.state == .online || p.state == .draining

/-- The entry active for a line, or none where the line is idle (R49). -/
def State.busy (s : State) (l : Line) : Option EntryNo :=
  entryNos.find? (fun e => (s.entry e).phase != .free && (s.entry e).line == l)

/-- The entry has no pending recall (R50). -/
def Entry.noPending (x : Entry) : Bool := x.pending.toList.all Option.isNone

/-- An active entry holds an allowance place while it carries an agent kind or its deferred list is not empty (R61). -/
def Entry.holdsPlace (x : Entry) : Bool := x.phase != .free && (x.kind.isAgent || !x.deferred.isEmpty)

/-- Places of the agent allowance in use (R61). -/
def State.placesHeld (s : State) : Nat := (entryNos.filter (fun e => (s.entry e).holdsPlace)).length

/-- The pin count: the LOCKED-READ entries that hold a pin or are on their way to one (R69). -/
def State.pinCount (s : State) : Nat := (entryNos.filter (fun e => (s.entry e).pinCounted)).length

/-- The disabled-way count (R16). -/
def State.disabledWays (s : State) : Nat := (s.marks.filter (fun m => m.2.disable)).length

/-! ### The sweep's criteria list (R161, R162) -/

/-- Whether the criteria list holds a criterion of this kind. -/
def State.hasCriterion (s : State) (k : CritKind) : Bool := s.sweep.criteria.any (fun c => c.kind == k)

/-- A criterion that joins or is restarted: the cursor's set as its join set, 2048 sets remaining, the set in progress
not counted (R162). -/
def Sweep.criterion (w : Sweep) (k : CritKind) : Criterion :=
  { kind := k, joinSet := w.cursor, remaining := Config.sets, skip := w.state == .processing || w.state == .claiming }

/-- The sweep engine with a criterion joined, or restarted where the list holds one of its kind; a list that was empty
moves the engine to PROCESSING at way 0 (R162). -/
def Sweep.join (w : Sweep) (k : CritKind) : Sweep :=
  let c := w.criterion k
  let l := if w.criteria.any (fun d => d.kind == k) then w.criteria.map (fun d => if d.kind == k then c else d)
    else w.criteria ++ [c]
  if w.state == .idle then { w with criteria := l, state := .processing, way := 0 } else { w with criteria := l }

/-- A criterion joins, only while the unit is RUNNING (R18, R162). -/
def State.sweepJoin (s : State) (k : CritKind) : State := if s.running then { s with sweep := s.sweep.join k } else s

/-- The engine becomes IDLE: the gap timer stops, a sweep claim is withdrawn, SWEEP-IDLE goes pending; the cursor stays
(R162). -/
def State.sweepIdle (s : State) : State :=
  { s with sweep := { s.sweep with state := .idle, criteria := [], gapLeft := none, claim := none } }.raise alertSweepIdle

/-- A criterion leaves the list without a completion report (R162). -/
def State.sweepWithdraw (s : State) (k : CritKind) : State :=
  if s.hasCriterion k then
    let l := s.sweep.criteria.filter (fun c => c.kind != k)
    if l.isEmpty then s.sweepIdle else { s with sweep := { s.sweep with criteria := l } }
  else s

/-- STRIP(x) joins in place of any DRAIN(x) (R162). -/
def State.sweepStrip (s : State) (a : Agent) : State :=
  if s.running then
    let w := { s.sweep with criteria := s.sweep.criteria.filter (fun c => c.kind != CritKind.drain a) }
    { s with sweep := w.join (.strip a) }
  else s

/-! ### The end of a departure (R28) -/

/-- The six conditions of a finished departure (R28). -/
def Port.drained (p : Port) : Bool :=
  p.state == .draining && p.holding == 0 && p.labels.isEmpty && p.recalls.isEmpty && p.responses.isEmpty &&
    p.waiters.isEmpty && decide (p.output.length < Config.outputQueueSize)

/-- A DRAINING port that is finished moves to OFFLINE and places LEAVE-DONE; its DRAIN criterion is withdrawn (R28). -/
def State.checkDrained (s : State) (a : Agent) : State :=
  if (s.port a).drained then
    (s.modPort a (fun p => { p with
      state := .offline, drainRequested := false, output := p.output ++ [.leaveDone] })).sweepWithdraw (.drain a)
  else s

/-! ### Holding counts (R12) -/

/-- An agent's holding count rises by one; a DRAINING port without a DRAIN criterion has it rejoined (R172). -/
def State.addHold (s : State) (a : Agent) : State :=
  let s := s.modPort a (fun p => { p with holding := p.holding + 1 })
  if (s.port a).state == .draining && !s.hasCriterion (.drain a) then s.sweepJoin (.drain a) else s

/-- An agent's holding count falls by one, and stays at 0 (log 23); a DRAINING port tests its six conditions (R28). -/
def State.subHold (s : State) (a : Agent) : State :=
  (s.modPort a (fun p => { p with holding := p.holding - 1 })).checkDrained a

/-! ### Reading the array -/

/-- A way is enabled: its disable mark is clear (R16). -/
def State.enabled (s : State) (n : SetNo) (w : WayNo) : Bool := !(s.mark n w).disable

/-- The tag a way's copies give: the second copy speaks where the first is uncorrectable (R3, R175). -/
def Way.tag (y : Way) : Option RecTag := if y.tag1.cond = .uncorrectable then y.tag2.value else y.tag1.value

/-- The tag of an enabled in-use way; none for a free and for a disabled way (R2, R16). -/
def State.wayTag (s : State) (n : SetNo) (w : WayNo) : Option RecTag :=
  if s.enabled n w then (s.aset n).ways[w].tag else none

/-- The line of an enabled in-use way (R1). -/
def State.wayLine (s : State) (n : SetNo) (w : WayNo) : Option Line := (s.wayTag n w).map (lineOf n)

/-- The in-use ways of a set, ascending. -/
def State.inUseWays (s : State) (n : SetNo) : List WayNo := ways.filter (fun w => (s.wayTag n w).isSome)

/-- The way whose tag is the line's, or none where the line is absent (R2). -/
def State.lookup (s : State) (l : Line) : Option WayNo :=
  ways.find? (fun w => s.wayTag (setOf l) w == some (tagOf l))

/-- The state part stored in a way. -/
def State.recAt (s : State) (n : SetNo) (w : WayNo) : Rec := (s.aset n).ways[w].state.value

/-- The line's in-use record with its way. -/
def State.lineRec (s : State) (l : Line) : Option (WayNo × Rec) :=
  (s.lookup l).map (fun w => (w, s.recAt (setOf l) w))

/-- The lost mark of a way (R177). -/
def State.isLost (s : State) (n : SetNo) (w : WayNo) : Bool := (s.mark n w).lost

/-- The line's record has its lost mark set: a lookup answers state lost (R177). -/
def State.lineLost (s : State) (l : Line) : Bool :=
  match s.lookup l with
  | some w => s.isLost (setOf l) w
  | none => false

/-- An agent is listed in the line's record. -/
def State.listed (s : State) (l : Line) (a : Agent) : Bool :=
  match s.lineRec l with
  | some (_, r) => AgentSet.has r.holders a
  | none => false

/-- A way is some active entry's reserved way (R14). -/
def State.isReserved (s : State) (n : SetNo) (w : WayNo) : Bool :=
  entryNos.any (fun e => (s.entry e).phase != .free && setOf (s.entry e).line == n && (s.entry e).reserved == some w)

/-- A way is free, enabled and no entry's reserved way (R14). -/
def State.available (s : State) (n : SetNo) (w : WayNo) : Bool :=
  s.enabled n w && (s.wayTag n w).isNone && !s.isReserved n w

/-- The free-way search: the lowest-numbered available way (R14). -/
def State.freeSearch (s : State) (n : SetNo) : Option WayNo := ways.find? (fun w => s.available n w)

/-! ### Entry into LOST (R22) -/

/-- All work in flight is dropped, as CLEAR-UNIT and the entry into LOST have it: every entry FREE with its use number
kept, deferred requests discarded, claims withdrawn, memory tags abandoned, writeback buffers cleared, the sweep emptied
(R21, R22, R47, R93, R129, R141, R161). -/
def State.dropAllWork (s : State) : State :=
  { s with
    entries := s.entries.map (fun x => Entry.free x.use)
    rebuildClaims := []
    awaiting := []
    buffers := Vector.replicate 8 WbBuffer.free
    bufferWaiters := []
    tags := s.tags.map (fun t => { t with op := none })
    claimQueue := []
    sweep := Sweep.reset
    work := [] }

/-- A port is sent PORT-DOWN where its link is up, and goes OFFLINE with its queues emptied, labels released, recall list
emptied and flags cleared (R21, R22, R23). -/
def Port.close (p : Port) : Port :=
  { p with
    state := .offline, requests := [], head := .fresh, responses := []
    output := if p.link then [.portDown] else []
    waiters := [], labels := [], recalls := [], autoOffline := false, drainRequested := false }

/-- The unit enters LOST: both tag copies of an enabled way are uncorrectable (R22, R176). -/
def State.enterLost (s : State) (n : SetNo) (w : WayNo) : State :=
  let s := s.dropAllWork
  let s := { s with
    ports := s.ports.map (fun (p : Port) => if p.attached then p.close else p)
    unitState := .lost
    scrub := { s.scrub with timer := none } }
  (s.raise alertLost).report { Report.blank .tagLost s.unitTime with set := some n, way := some w }

/-! ### Verification (R174 to R180) -/

/-- So many soft faults (R175). -/
def State.softFaults (s : State) : Nat → State
  | 0 => s
  | k + 1 => (s.softFaults k).softFault

/-- One soft fault for a word that is not good. -/
def WordCond.count : WordCond → Nat
  | .good => 0
  | .correctable => 1
  | .uncorrectable => 1

/-- The soft faults of a way's tag copies, one for each copy that is not good (R175, log 57). -/
def Way.tagFaults (y : Way) : Nat := y.tag1.cond.count + y.tag2.cond.count

/-- A way with its tag copies repaired: written from the sound copy with fresh codes (R3, R175). -/
def Way.repairTags (y : Way) : Way := { y with tag1 := Coded.fresh y.tag, tag2 := Coded.fresh y.tag }

/-- Both tag copies uncorrectable (R176). -/
def Way.tagLost (y : Way) : Bool := y.tag1.cond == .uncorrectable && y.tag2.cond == .uncorrectable

/-- The lowest enabled way of a set whose tag is lost (R176). -/
def State.tagLostWay (s : State) (n : SetNo) : Option WayNo :=
  ways.find? (fun w => s.enabled n w && (s.aset n).ways[w].tagLost)

/-- Verification of the tag copies of one way; a disabled way is not read (R174, R175). -/
def State.verifyTags (n : SetNo) (s : State) (w : WayNo) : State :=
  if s.enabled n w && (s.aset n).ways[w].tagFaults != 0 then
    (s.modWay n w Way.repairTags).softFaults ((s.aset n).ways[w].tagFaults)
  else s

/-- The set header rewritten with a fresh code. -/
def State.writeOrder (s : State) (n : SetNo) (l : List WayNo) : State :=
  s.putSet n { s.aset n with order := Coded.fresh l }

/-- Verification of the set header: one flipped bit is a soft fault; more make the order the in-use ways in ascending
order, and the hard counter rises (R175, R180). -/
def State.verifyOrder (s : State) (n : SetNo) : State :=
  match (s.aset n).order.cond with
  | .good => s
  | .correctable => (s.writeOrder n (s.aset n).order.value).softFault
  | .uncorrectable => (s.writeOrder n (s.inUseWays n)).countHard

/-- The state part of a way rewritten with a fresh code. -/
def State.writeState (s : State) (n : SetNo) (w : WayNo) (r : Rec) : State :=
  s.modWay n w (fun y => { y with state := Coded.fresh r })

/-- A HARD-CHECK report with set, way, line and entry (R177, R178). -/
def State.reportHard (s : State) (n : SetNo) (w : WayNo) (l : Line) (e : Option EntryNo) : State :=
  s.report { Report.blank .hardCheck s.unitTime with
    set := some n, way := some w, line := some l, entry := e.map entryByte }

/-- A state part found lost: lost mark, hard counter, report, strike mark or due for disabling (R177). -/
def State.loseState (s : State) (by_ : Option EntryNo) (n : SetNo) (w : WayNo) (l : Line) : State :=
  let m := s.mark n w
  (s.putMark n w { m with lost := true, strike := true, due := m.due || m.strike }).countHard.reportHard n w l by_

/-- A state part rewritten from the copy of the busy line's entry; where that entry has none, as last written (R178,
log 44). -/
def State.repairState (s : State) (e : EntryNo) (n : SetNo) (w : WayNo) (l : Line) : State :=
  let s := s.writeState n w ((s.entry e).copy.getD (s.recAt n w))
  (s.putMark n w { s.mark n w with strike := true }).countHard.reportHard n w l (some e)

/-- Verification of the state part of an in-use way; `by_` is the claimant where it is an entry (R174, R175, R177, R178).
A way whose lost mark is set counts and reports nothing further. -/
def State.verifyState (by_ : Option EntryNo) (n : SetNo) (s : State) (w : WayNo) : State :=
  match s.wayLine n w with
  | none => s
  | some l =>
    if s.isLost n w then s
    else
      match (s.aset n).ways[w].state.cond with
      | .good => s
      | .correctable => (s.writeState n w (s.recAt n w)).softFault
      | .uncorrectable =>
        match s.busy l with
        | none => s.loseState by_ n w l
        | some e =>
          if (s.entry e).phase == .starting || (s.entry e).rebuild then s.loseState by_ n w l
          else s.repairState e n w l

/-- Verification by a claim on a set: a lost tag puts the unit in LOST and the claim ends; otherwise tag copies, set
header and the state parts the claim needs are verified and repaired, the ways in ascending order (R174 to R180, log 25,
log 58). -/
def State.verifySet (s : State) (by_ : Option EntryNo) (n : SetNo) (needs : State → List WayNo) : State :=
  match s.tagLostWay n with
  | some w => s.enterLost n w
  | none =>
    let s := (ways.foldl (State.verifyTags n) s).verifyOrder n
    (needs s).foldl (State.verifyState by_ n) s

/-- A claim that needs the record of one line (R2, R174). -/
def State.claimLine (s : State) (by_ : Option EntryNo) (l : Line) : State :=
  s.verifySet by_ (setOf l) (fun s => (s.lookup l).toList)

/-- A claim that needs every in-use way: victim naming, sweep and scrub reads (R174). -/
def State.claimAll (s : State) (by_ : Option EntryNo) (n : SetNo) : State :=
  s.verifySet by_ n (fun s => s.inUseWays n)

/-- A claim that needs one way: INSPECT (R174). -/
def State.claimWay (s : State) (n : SetNo) (w : WayNo) : State := s.verifySet none n (fun _ => [w])

/-- A claim that needs no state part: the free-way search, WAY-ENABLE (R174). -/
def State.claimTags (s : State) (by_ : Option EntryNo) (n : SetNo) : State := s.verifySet by_ n (fun _ => [])

/-! ### Record edits (R7 to R13) -/

/-- Whether an entry's claims are those of a transaction of an agent kind, which move ways to the front (R13). -/
def State.touches (s : State) (e : EntryNo) : Bool := (s.entry e).kind.isAgent

/-- The record copy of the entry busy with the line follows every edit (R46, R178). -/
def State.syncCopy (s : State) (l : Line) (r : Option Rec) : State :=
  match s.busy l with
  | some e => s.modEntry e (fun x => { x with copy := r })
  | none => s

/-- A way moves to the front of the recency order (R13). -/
def State.toFront (s : State) (n : SetNo) (w : WayNo) : State :=
  s.writeOrder n (w :: ((s.aset n).order.value.filter (fun v => v != w)))

/-- A way leaves the recency order (R13). -/
def State.leaveOrder (s : State) (n : SetNo) (w : WayNo) : State :=
  s.writeOrder n ((s.aset n).order.value.filter (fun v => v != w))

/-- The state part of the line's record is rewritten, and the way moves to the front where asked (R8, R13). -/
def State.editState (s : State) (l : Line) (w : WayNo) (r : Rec) (touch : Bool) : State :=
  let s := (s.writeState (setOf l) w r).syncCopy l (some r)
  if touch then s.toFront (setOf l) w else s

/-- INSTALL writes a record into a way: both tag copies, the state part, the way at the front, and the holders' counts
(R7). -/
def State.install (s : State) (l : Line) (w : WayNo) (r : Rec) : State :=
  let n := setOf l
  let s := s.modWay n w (fun _ =>
    { tag1 := Coded.fresh (some (tagOf l)), tag2 := Coded.fresh (some (tagOf l)), state := Coded.fresh r })
  let s := (s.toFront n w).syncCopy l (some r)
  (AgentSet.list r.holders).foldl State.addHold s

/-- A freed way becomes the reserved way of the entry busy with the line (R75, R98), but not of an orphaned entry of a
read kind, LOCKED-READ included (R75, log 55). -/
def Entry.keepsFreed (x : Entry) : Bool :=
  match x.kind with
  | .req .readShared => !x.orphaned
  | .req .readOwn => !x.orphaned
  | .req .upgrade => !x.orphaned
  | .req .lockedRead => !x.orphaned
  | .req .uncachedRead => true
  | .req .uncachedWrite => true
  | .retire => true
  | .rebuild => true
  | .sweepRecall => true

/-- The tag copies of a way are written not in use, the way leaves the recency order, an active entry of the line keeps
the way, and the set's awaiting list is woken (R11, R75, R98, R130). No holding count changes. -/
def State.freeWay (s : State) (l : Line) (w : WayNo) : State :=
  let n := setOf l
  let s := s.modWay n w (fun y => { y with tag1 := Coded.fresh none, tag2 := Coded.fresh none })
  let s := (s.leaveOrder n w).syncCopy l none
  let s := match s.busy l with
    | some e => if (s.entry e).keepsFreed then s.modEntry e (fun x => { x with reserved := some w }) else s
    | none => s
  s.push (.wake n)

/-- FREE: the way is freed and each listed holder's count falls by one (R11). -/
def State.freeRec (s : State) (l : Line) (w : WayNo) (r : Rec) : State :=
  (AgentSet.list r.holders).foldl State.subHold (s.freeWay l w)

/-- The POISONED state part: no holders, no pin (R4, R10). -/
def Rec.poisoned : Rec := { state := .poisoned, holders := 0, pin := none }

/-- POISON of an in-use record: counts of its holders fall, the way keeps its place (R10). -/
def State.poisonRec (s : State) (l : Line) (w : WayNo) (r : Rec) : State :=
  if r.state == .poisoned then s
  else (AgentSet.list r.holders).foldl State.subHold (s.editState l w Rec.poisoned false)

/-- REWRITE: new state, holder set and pin; no holders left frees the record; counts follow the difference (R8). It is
not taken on a POISONED record. -/
def State.rewrite (s : State) (l : Line) (w : WayNo) (old new : Rec) (touch : Bool) : State :=
  if old.state == .poisoned then s
  else if new.holders == 0 then s.freeRec l w old
  else
    let s := s.editState l w new touch
    let s := (AgentSet.list (old.holders &&& ~~~new.holders)).foldl State.subHold s
    (AgentSet.list (new.holders &&& ~~~old.holders)).foldl State.addHold s

/-- REMOVE-HOLDER of one agent, clean or as a loss; an agent not listed changes nothing (R9). -/
def State.removeHolder (s : State) (l : Line) (w : WayNo) (a : Agent) (loss touch : Bool) : State :=
  let r := s.recAt (setOf l) w
  if !AgentSet.has r.holders a then s
  else
    match r.state with
    | .exclusive => if loss then s.poisonRec l w r else s.freeRec l w r
    | .shared =>
      s.rewrite l w r { r with holders := AgentSet.remove r.holders a, pin := if r.pin = some a then none else r.pin } touch
    | .poisoned => s

/-- REMOVE-HOLDER by line: nothing where the line is absent (R9). -/
def State.removeFrom (s : State) (l : Line) (a : Agent) (loss touch : Bool) : State :=
  match s.lookup l with
  | some w => s.removeHolder l w a loss touch
  | none => s

/-- POISON of a line: in place, or installed by the free-way search, or, where the search names no way, the line stays
unheld and the unheld note is reported (R10, R148, R149). -/
def State.poisonLine (s : State) (l : Line) : State :=
  match s.lineRec l with
  | some (w, r) => s.poisonRec l w r
  | none =>
    match s.freeSearch (setOf l) with
    | some w => s.install l w Rec.poisoned
    | none => s.report { Report.blank .memoryWriteFault s.unitTime with line := some l, set := some (setOf l) }

/-- The listed agents whose ports are FAILED, but for one whose reply the same claim applies (R171, log 21). -/
def State.failedListed (s : State) (l : Line) (but : Option Agent) : List Agent :=
  agents.filter (fun a => s.listed l a && (s.port a).state == .failed && but != some a)

/-- Each listed agent whose port is FAILED is removed without recall, as a loss; the way keeps its place (R171). A
record whose state part is lost cannot be edited. -/
def State.stripFailed (s : State) (l : Line) (but : Option Agent) : State :=
  if s.lineLost l then s
  else (s.failedListed l but).foldl (fun s a => s.removeFrom l a true false) s

/-- A claim of an entry on its line: verification, then the removal of failed agents (R171, R174). -/
def State.claimEntry (s : State) (e : EntryNo) (but : Option Agent) : State :=
  let s := s.claimLine (some e) (s.entry e).line
  if s.running then s.stripFailed (s.entry e).line but else s

/-- The record copy of an entry taken from its lookup (R46). -/
def State.takeCopy (s : State) (e : EntryNo) : State :=
  let r := (s.lineRec (s.entry e).line).map Prod.snd
  s.modEntry e (fun x => { x with copy := r })

/-- A REBUILD claim for a way, unless one for that way already waits (R66, R177). -/
def State.claimRebuild (s : State) (l : Line) (n : SetNo) (w : WayNo) : State :=
  if s.rebuildClaims.any (fun c => c.set == n && c.way == w) then s
  else { s with rebuildClaims := s.rebuildClaims ++ [{ line := l, set := n, way := w }] }

/-- The line is busy with an entry that is rebuilding its record (R100, R177). -/
def State.rebuilding (s : State) (l : Line) : Bool :=
  match s.busy l with
  | some e => (s.entry e).rebuild
  | none => false

/-- REBUILD claims for the lost ways of a set, but not where the line's entry is rebuilding it: scrubber and sweep engine
(R177). -/
def State.claimRebuilds (s : State) (n : SetNo) : State :=
  ways.foldl (fun s w =>
    match s.wayLine n w with
    | some l => if s.isLost n w && !s.rebuilding l then s.claimRebuild l n w else s
    | none => s) s

/-! ### Victim naming (R15) -/

/-- The three answers of victim naming. -/
inductive VictimAnswer where
  | victim (w : WayNo) (l : Line)
  | wait
  | none
  deriving DecidableEq, Repr

/-- A way that can be a victim: in use, not POISONED, its line not busy, its state part not lost (R15, R177). -/
def State.victimLine (s : State) (n : SetNo) (w : WayNo) : Option Line :=
  match s.wayLine n w with
  | some l => if s.isLost n w || (s.recAt n w).state == .poisoned || (s.busy l).isSome then Option.none else some l
  | Option.none => Option.none

/-- A way that makes the answer wait: a busy line's record that is not POISONED, a lost state part, or a free way
reserved for an entry (R15). -/
def State.waitWay (s : State) (n : SetNo) (w : WayNo) : Bool :=
  s.enabled n w &&
    match s.wayLine n w with
    | some l => s.isLost n w || ((s.recAt n w).state != .poisoned && (s.busy l).isSome)
    | Option.none => s.isReserved n w

/-- Victim naming: the last member of the recency order that can be a victim; else wait or none (R15). -/
def State.nameVictim (s : State) (n : SetNo) : VictimAnswer :=
  match (s.aset n).order.value.reverse.findSome? (fun w => (s.victimLine n w).map (fun l => (w, l))) with
  | some (w, l) => .victim w l
  | Option.none => if ways.any (fun w => s.waitWay n w) then .wait else .none

/-! ### The memory port's claims (R140 to R143) -/

/-- The memory operation an entry has claimed or outstanding: write (yes) or read (no) (R50). -/
def State.memOp (s : State) (e : EntryNo) : Option Bool :=
  match s.claimQueue.find? (fun c => c.claimant == .entry e) with
  | some c => some c.write
  | none => memTags.findSome? (fun t =>
      match (s.tag t).op with
      | some o => if o.claim.claimant == .entry e then some o.claim.write else none
      | none => none)

/-- The buffer of a claimant, from which a MEM-WRITE takes its data at the issue (R142). -/
def State.claimantData (s : State) : Claimant → LineData
  | .entry e => (s.entry e).buffer
  | .buffer b => (s.buffer b).data

/-- The operation of a tag is issued: the message is sent and the memory timer starts (R142, R145). -/
def State.issueTag (s : State) (t : MemTagNo) : State :=
  match (s.tag t).op with
  | none => s
  | some o =>
    let u := (s.tag t).use
    let m := if o.claim.write then MemMsg.write t u o.claim.line (s.claimantData o.claim.claimant)
      else MemMsg.read t u o.claim.line
    let s := s.setTag t { use := u, op := some { o with issued := true, left := s.settings.memoryTimeout.toNat } }
    { s with memSent := s.memSent ++ [m] }

/-- A writeback buffer other than the claimant is WRITING for the same line (R142, R143). -/
def State.heldBehind (s : State) (c : MemClaim) : Bool :=
  bufferNos.any (fun b => (s.buffer b).state == .writing && (s.buffer b).line == c.line && c.claimant != .buffer b)

/-- The oldest claim is granted this tag if it is FREE: use count, HELD or ISSUED (R142); a read claimed before its line's
buffer became OWING is issued as any other (R97, log 61). -/
def State.grantTag (s : State) (t : MemTagNo) : State :=
  match s.claimQueue, (s.tag t).op with
  | c :: q, none =>
    let s := { s with claimQueue := q }
    let s := s.setTag t { use := (s.tag t).use + 1, op := some { claim := c, issued := false, left := 0 } }
    if s.heldBehind c then s else s.issueTag t
  | _, _ => s

/-- Grants go on while a tag is FREE and claims wait: the oldest claim takes the lowest-numbered FREE tag (R142). -/
def State.grantTags (s : State) : State := memTags.foldl State.grantTag s

/-- A writeback buffer in OWING holds the line's poison (R97). -/
def State.owingBuffer (s : State) (l : Line) : Option BufferNo :=
  bufferNos.find? (fun b => (s.buffer b).state == .owing && (s.buffer b).line == l)

/-- A claim joins the claim queue; a read for a line whose buffer is OWING is ended at the claim as a read fault
(R97, R142). -/
def State.claimMem (s : State) (c : MemClaim) : State :=
  if !c.write && (s.owingBuffer c.line).isSome then
    match c.claimant with
    | .entry e => s.push (.readFault e (s.entry e).use)
    | .buffer _ => s
  else { s with claimQueue := s.claimQueue ++ [c] }.grantTags

/-- An entry claims a memory read of its line (R73). -/
def State.claimRead (s : State) (e : EntryNo) : State :=
  s.claimMem { claimant := .entry e, write := false, line := (s.entry e).line }

/-- An entry claims the memory write of its buffer, once in each use (R79, R114). -/
def State.claimWrite (s : State) (e : EntryNo) : State :=
  if (s.entry e).wrote then s
  else
    let s := s.modEntry e (fun x => { x with wrote := true })
    s.claimMem { claimant := .entry e, write := true, line := (s.entry e).line }

/-! ### Outbound messages (R36, R37) -/

/-- A message joins the output queue at its tail (R36). -/
def State.place (s : State) (a : Agent) (m : OutMsg) : State :=
  s.modPort a (fun p => { p with output := p.output ++ [m] })

/-- A producer begins to wait, behind those that already wait (R37). -/
def State.wait (s : State) (a : Agent) (w : Waiter) : State :=
  s.modPort a (fun p => { p with waiters := p.waiters ++ [w] })

/-- A place is free and no one waits for it (R36, R37). -/
def Port.hasPlace (p : Port) : Bool := decide (p.output.length < Config.outputQueueSize) && p.waiters.isEmpty

/-- A label leaves the outstanding labels (R33); a DRAINING port tests its six conditions (R28). -/
def State.releaseLabel (s : State) (a : Agent) (l : Label) : State :=
  (s.modPort a (fun p => { p with labels := p.labels.filter (fun k => k != l) })).checkDrained a

/-- A recall is placed: the message, the port's recall record with its timer, the member marked placed (R38, R52). -/
def State.placeRecall (s : State) (e : EntryNo) (a : Agent) (m : OutMsg) : State :=
  let t := s.settings.recallTimeout.toNat
  let u := (s.entry e).use
  let s := (s.place a m).modPort a (fun p => { p with recalls := p.recalls ++ [{ entry := e, use := u, left := t }] })
  s.modEntry e (fun x => { x with pending := x.pending.set a (x.pending[a].map (fun r => { r with placed := true })) })

/-- A plan decides a recall: the agent becomes a member of the pending recalls, and its RECALL is placed or waits. For a
port that is OFFLINE or FAILED it is taken at once as answered not-held (R36, R52, R73). -/
def State.addRecall (k : RecallKind) (e : EntryNo) (s : State) (a : Agent) : State :=
  let m := OutMsg.recall (s.entry e).line k e (s.entry e).use
  let s := s.modEntry e (fun x => { x with pending := x.pending.set a (some { kind := k, placed := false }) })
  if (s.port a).attached then
    if (s.port a).hasPlace then s.placeRecall e a m else s.wait a { producer := .recall e, msg := m }
  else s.push (.notHeld e a)

/-! ### The scrubber's timer (R183) -/

/-- The scrubber runs while the unit is RUNNING, SCRUB-ENABLE is set and the interval is not 0: its timer starts when
all three hold, runs on while they do, and stops when one ends (R183). -/
def State.refreshScrub (s : State) : State :=
  if s.running && s.settings.scrubEnable && s.settings.scrubInterval != 0 then
    match s.scrub.timer with
    | some _ => s
    | none => { s with scrub := { s.scrub with timer := some s.settings.scrubInterval.toNat } }
  else { s with scrub := { s.scrub with timer := none } }

end Sys2Proof.Machine
end

