-- ==== Sys2Proof/Machine/Table.lean ====
section
/-! DEFINITION. The transaction table: final replies and grants, way allocation, plans, rebuilds, recall replies, memory
results, completion and hand-over (spec 03, 04, 06, 07, 11). -/

namespace Sys2Proof.Machine

/-! ### Final replies (R33, R42, R74) -/

/-- An entry's final reply is placed: the message, the label released (R33). -/
def State.placeReply (s : State) (e : EntryNo) (a : Agent) (l : Label) (m : OutMsg) : State :=
  ((s.place a m).releaseLabel a l).modEntry e (fun x => { x with reply := .placed })

/-- A final reply that makes no edit is placed, or waits, or is dropped where the port takes none; an orphaned entry
places none, and an entry gives one only (R36, R37, R42, R68). -/
def State.offerReply (s : State) (e : EntryNo) (m : Label → OutMsg) : State :=
  let x := s.entry e
  match x.origin with
  | none => s
  | some (a, l) =>
    if x.orphaned || x.reply != .none then s
    else if !(s.port a).attached then s.modEntry e (fun x => { x with reply := .placed })
    else if (s.port a).hasPlace then s.placeReply e a l (m l)
    else (s.wait a { producer := .reply e, msg := m l }).modEntry e (fun x => { x with reply := .waiting })

/-- A refusal is decided and becomes the final reply; a LOCKED-READ refused leaves the pin count (R51, R69). -/
def State.refuse (s : State) (e : EntryNo) (r : Reason) : State :=
  let line := (s.entry e).line
  (s.modEntry e (fun x => { x with pinCounted := false, refused := true })).offerReply e (fun l => .refuse l line r)

/-- A waiting grant or UNCACHED-DATA is withdrawn in favour of REFUSE MEMORY-FAULT, which keeps its place among the waiting
producers (log 20); a placed reply stands (R80, R112), and so does a refusal already decided (R157). -/
def State.replaceReply (s : State) (e : EntryNo) : State :=
  let x := s.entry e
  if x.refused then s
  else
    match x.origin, x.reply with
    | some (a, l), .waiting =>
      (s.modPort a (fun p => { p with waiters := p.waiters.map (fun w =>
        if w.producer == .reply e then { w with msg := .refuse l x.line .memoryFault } else w) })).modEntry e
        (fun x => { x with refused := true })
    | _, .placed => s
    | _, _ => s.refuse e .memoryFault

/-- A PROTOCOL fault about a line that an entry works on. -/
def State.reportEntry (s : State) (sub : SubReason) (a : Agent) (e : EntryNo) : State :=
  s.reportProtocol sub a (some (s.entry e).line) (some (entryByte e))

/-! ### Way allocation (R127 to R131) -/

/-- An entry leaves the awaiting list, and with its stand any RETIRE claim it has waiting (R129, R131). -/
def State.leaveAwaiting (s : State) (e : EntryNo) : State :=
  { s with awaiting := s.awaiting.filter (fun m => m.entry != e) }

/-- An entry stands in the awaiting list: it joins at the tail or keeps its place, in AWAITING-WAY (R127, R129). -/
def State.setStand (s : State) (e : EntryNo) (st : Stand) : State :=
  let l := if s.awaiting.any (fun m => m.entry == e)
    then s.awaiting.map (fun m => if m.entry == e then { m with stand := st } else m)
    else s.awaiting ++ [{ entry := e, stand := st }]
  { s with awaiting := l }.modEntry e (fun x => { x with phase := .awaitingWay })

/-- An entry with a way goes on: it claims its memory read, unless its data is already in (R73, R127). -/
def State.goOn (s : State) (e : EntryNo) : State :=
  let s := if (s.entry e).data == .none then s.claimRead e else s
  s.push (.advance e)

/-- A way becomes an entry's reserved way; the entry leaves the awaiting list and goes on (R127, R130, R136). -/
def State.giveWay (s : State) (e : EntryNo) (w : WayNo) : State :=
  ((s.leaveAwaiting e).modEntry e (fun x => { x with reserved := some w, phase := .readingMemory })).goOn e

/-- Way allocation answers none: REFUSE NO-WAY (R139). -/
def State.refuseNoWay (s : State) (e : EntryNo) : State :=
  ((((s.leaveAwaiting e).modEntry e (fun x => { x with phase := .replying })).refuse e .noWay)).push (.advance e)

/-- Steps 2 and 3 of way allocation: the free-way search, then victim naming (R127). -/
def State.searchWay (s : State) (e : EntryNo) : State :=
  let n := setOf (s.entry e).line
  let s := s.claimTags (some e) n
  if !s.running then s
  else
    match s.freeSearch n with
    | some w => s.giveWay e w
    | none =>
      let s := s.claimAll (some e) n
      if !s.running then s
      else
        match s.nameVictim n with
        | .victim w l => s.setStand e (.claimWaiting l w)
        | .wait => s.setStand e .noClaim
        | .none => s.refuseNoWay e

/-- Way allocation: a reserved way is the answer, otherwise the search (R127). -/
def State.allocate (s : State) (e : EntryNo) : State :=
  match (s.entry e).reserved with
  | some _ => s.goOn e
  | none => s.searchWay e

/-- An entry gives up the way it holds, and the set's awaiting list is woken (R128). -/
def State.giveUpWay (s : State) (e : EntryNo) : State :=
  match (s.entry e).reserved with
  | some _ => (s.modEntry e (fun x => { x with reserved := none })).push (.wake (setOf (s.entry e).line))
  | none => s

/-- One member of an awaiting list is examined at a wake (R130). -/
def State.wakeMember (s : State) (e : EntryNo) : State :=
  match s.awaiting.find? (fun m => m.entry == e) with
  | none => s
  | some m =>
    match m.stand with
    | .noClaim => s.searchWay e
    | .claimWaiting _ _ =>
      let n := setOf (s.entry e).line
      let s := s.claimTags (some e) n
      if !s.running then s
      else
        match s.freeSearch n with
        | some w => s.giveWay e w
        | none => s
    | .retireActive _ => s

/-- The members of a set's awaiting list, oldest first (R129). -/
def State.members (s : State) (n : SetNo) : List EntryNo :=
  (s.awaiting.map Awaiting.entry).filter (fun e => setOf (s.entry e).line == n)

/-- A wake of a set's awaiting list, from the oldest member (R130). -/
def State.wakeSet (s : State) (n : SetNo) : State := (s.members n).foldl State.wakeMember s

/-! ### Grants (R74) -/

/-- The record a grant leaves: the requester added as a sharer, or the one exclusive holder, pinned for a pinned grant
(R74, R119). -/
def OutMsg.granted (m : OutMsg) (a : Agent) (old : AgentSet) : Rec :=
  match m with
  | .grantShared _ _ _ => { state := .shared, holders := AgentSet.add old a, pin := none }
  | .grantExclusive _ _ _ pinned =>
    { state := .exclusive, holders := AgentSet.only a, pin := if pinned then some a else none }
  | _ => { state := .exclusive, holders := AgentSet.only a, pin := none }

/-- Whether a message is a grant, whose placement makes an edit (R74). -/
def OutMsg.isGrant : OutMsg → Bool
  | .grantShared _ _ _ => true
  | .grantExclusive _ _ _ _ => true
  | .grantUpgrade _ _ => true
  | .uncachedData _ _ _ => false
  | .uncachedDone _ _ => false
  | .refuse _ _ _ => false
  | .recall _ _ _ _ => false
  | .wbAck _ => false
  | .unpinAck _ _ => false
  | .pinBroken _ => false
  | .joinAck => false
  | .leaveDone => false
  | .portDown => false

/-- A grant that pins its line (R119). -/
def OutMsg.pins : OutMsg → Bool
  | .grantExclusive _ _ _ p => p
  | _ => false

/-- After a pinned grant the entry enters PINNED, with nothing left to write, and its pin timer starts (R119, R120). -/
def State.enterPinned (s : State) (e : EntryNo) : State :=
  let t := s.settings.pinTimeout.toNat
  s.modEntry e (fun x => { x with phase := .pinned, saves := false, pinTimer := some t })

/-- The final step: in one claim the edit that lists the requester, and the grant placed (R74). An INSTALL that answers
way taken sends the entry back to way allocation (R128); a POISONED record is refused POISONED (R8, R72). What then comes of
it waits anew behind the producers that wait (log 51). A grant whose port has gone OFFLINE at the claim is dropped (R36). -/
def State.placeGrant (s : State) (e : EntryNo) (a : Agent) (l : Label) (m : OutMsg) : State :=
  let s := s.claimEntry e none
  if !s.running then s
  else if !(s.port a).attached then s.modEntry e (fun x => { x with reply := .placed })
  else
    let line := (s.entry e).line
    let done := fun (s : State) =>
      let s := s.placeReply e a l m
      if m.pins then s.enterPinned e else s
    match s.lineRec line with
    | some (w, r) =>
      if r.state == .poisoned then (s.modEntry e (fun x => { x with reply := .none })).refuse e .poisoned
      else done (s.rewrite line w r (m.granted a r.holders) true)
    | none =>
      let retry := (s.modEntry e (fun x => { x with reply := .none, reserved := none })).searchWay e
      match (s.entry e).reserved with
      | some w =>
        if s.enabled (setOf line) w && (s.wayTag (setOf line) w).isNone then
          done ((s.install line w (m.granted a 0)).modEntry e (fun x => { x with reserved := none }))
        else retry
      | none => retry

/-- A grant is placed, or the entry waits with the grant made up (R74). -/
def State.offerGrant (s : State) (e : EntryNo) (m : Label → OutMsg) : State :=
  let x := s.entry e
  match x.origin with
  | none => s
  | some (a, l) =>
    if !(s.port a).attached then s.modEntry e (fun x => { x with reply := .placed })
    else if (s.port a).hasPlace then s.placeGrant e a l (m l)
    else (s.wait a { producer := .reply e, msg := m l }).modEntry e (fun x => { x with reply := .waiting })

/-! ### Judgement of a record against the criteria (R165) -/

/-- The recall that the region table, where it is judged by, and the DRAIN criteria call for at a listed agent, if any;
DRAIN asks for RETURN even where the table alone would ask for SHARE (R165, log 36). -/
def State.judgeAgent (s : State) (region : Bool) (l : Line) (excl : Bool) (y : Agent) : Option RecallKind :=
  let t := s.settings
  let out := if excl then RecallKind.return else RecallKind.invalidate
  if region && (!inRange t l || !cacheable t l || !readRight t y l) then some out
  else if s.hasCriterion (.drain y) then some out
  else if region && excl && !writeRight t y l then some .share
  else none

/-- The recalls a record's nonconformance calls for, with or without the region table; none where it conforms (R165). A
POISONED record lists no agent and conforms. -/
def State.judgeBy (s : State) (region : Bool) (l : Line) (r : Rec) : List (Agent × RecallKind) :=
  (AgentSet.list r.holders).filterMap (fun y => (s.judgeAgent region l (r.state == .exclusive) y).map (fun k => (y, k)))

/-- The judgement of a record against the criteria in the list (R165). -/
def State.judge (s : State) (l : Line) (r : Rec) : List (Agent × RecallKind) := s.judgeBy (s.hasCriterion .region) l r

/-- The judgement of a line's record, with or without the region table; an absent one conforms (R57, R168). -/
def State.judgeLineBy (s : State) (region : Bool) (l : Line) : List (Agent × RecallKind) :=
  match s.lineRec l with
  | some (_, r) => s.judgeBy region l r
  | none => []

/-- The judgement of a line's record against the criteria in the list (R164, R168). -/
def State.judgeLine (s : State) (l : Line) : List (Agent × RecallKind) := s.judgeLineBy (s.hasCriterion .region) l

/-! ### Plans made in STARTING (R70, R110, R114, R133, R168) -/

/-- Recalls of one kind to each agent of a set. -/
def State.recallAll (s : State) (k : RecallKind) (e : EntryNo) (h : AgentSet) : State :=
  (AgentSet.list h).foldl (State.addRecall k e) s

/-- An UPGRADE is performed as READ-OWN, sent from beat 0 (R86, R87). -/
def State.asReadOwn (s : State) (e : EntryNo) : State :=
  s.modEntry e (fun x => if x.kind = .req .upgrade then { x with kind := .req .readOwn, first := 0 } else x)

/-- An UNCACHED-WRITE with a full mask has a complete buffer when its plan is made (R113). -/
def State.mergeFull (s : State) (e : EntryNo) : State :=
  if fullMask (s.entry e).mask then s.modEntry e (fun x => { x with data := .merged }) else s

/-- An UNCACHED-WRITE with a partial or empty mask claims a memory read (R113, R114). -/
def State.readPartial (s : State) (e : EntryNo) : State :=
  if fullMask (s.entry e).mask then s else s.claimRead e

/-- REFUSE HELD with its PROTOCOL fault (R71). -/
def State.refuseHeld (s : State) (e : EntryNo) (a : Agent) : State := (s.reportEntry .held a e).refuse e .held

/-- The plan of an agent kind for an absent line; a sole reader needs the write right that its region check found
(R76, R81, R86, R111, R114, R156). -/
def State.planAbsent (s : State) (k : ReqKind) (e : EntryNo) : State :=
  match k with
  | .readShared =>
    let sole := s.settings.soleReader && (s.entry e).mayWrite
    (s.modEntry e (fun x => { x with sole := sole })).allocate e
  | .readOwn => s.allocate e
  | .lockedRead => s.allocate e
  | .upgrade => (s.asReadOwn e).allocate e
  | .uncachedRead => s.claimRead e
  | .uncachedWrite => (s.mergeFull e).readPartial e

/-- The plan of an agent kind for a SHARED record (R78, R82, R85, R86, R111, R115). -/
def State.planShared (s : State) (k : ReqKind) (e : EntryNo) (a : Agent) (h : AgentSet) : State :=
  match k with
  | .readShared => s.claimRead e
  | .readOwn => (s.recallAll .invalidate e (AgentSet.remove h a)).claimRead e
  | .lockedRead => (s.recallAll .invalidate e (AgentSet.remove h a)).claimRead e
  | .upgrade =>
    if AgentSet.has h a then s.recallAll .invalidate e (AgentSet.remove h a)
    else ((s.asReadOwn e).recallAll .invalidate e h).claimRead e
  | .uncachedRead => s.claimRead e
  | .uncachedWrite => ((s.recallAll .invalidate e h).mergeFull e).readPartial e

/-- The plan of an agent kind for an EXCLUSIVE record (R71, R79, R83, R86, R112, R116). -/
def State.planExclusive (s : State) (k : ReqKind) (e : EntryNo) (a : Agent) (h : AgentSet) : State :=
  match k with
  | .readShared => if AgentSet.has h a then s.refuseHeld e a else s.recallAll .share e h
  | .readOwn => if AgentSet.has h a then s.refuseHeld e a else s.recallAll .return e h
  | .lockedRead => if AgentSet.has h a then s.refuseHeld e a else s.recallAll .return e h
  | .upgrade => if AgentSet.has h a then s.refuseHeld e a else (s.asReadOwn e).recallAll .return e h
  | .uncachedRead => s.recallAll .share e h
  | .uncachedWrite => (s.recallAll .return e h).mergeFull e

/-- The plan of an agent kind for a POISONED record: refused, but for a full-mask UNCACHED-WRITE (R72, R117). -/
def State.planPoisoned (s : State) (k : ReqKind) (e : EntryNo) : State :=
  match k with
  | .uncachedWrite => if fullMask (s.entry e).mask then s.mergeFull e else s.refuse e .poisoned
  | .readShared => s.refuse e .poisoned
  | .readOwn => s.refuse e .poisoned
  | .upgrade => s.refuse e .poisoned
  | .uncachedRead => s.refuse e .poisoned
  | .lockedRead => s.refuse e .poisoned

/-- The plan of an agent kind over the record its claim left (R70, R110, R114). -/
def State.planReq (s : State) (k : ReqKind) (e : EntryNo) (a : Agent) : State :=
  match s.lineRec (s.entry e).line with
  | none => s.planAbsent k e
  | some (_, r) =>
    match r.state with
    | .shared => s.planShared k e a r.holders
    | .exclusive => s.planExclusive k e a r.holders
    | .poisoned => s.planPoisoned k e

/-- The decision of a RETIRE entry (R133). Where the record's own way was freed by this lookup and is not the victim way, the
entry has that way and takes the victim way in its place only where it is available (log 74). -/
def State.planRetire (s : State) (e : EntryNo) : State :=
  let x := s.entry e
  match s.lineRec x.line with
  | none =>
    match x.victim with
    | some w => if s.available (setOf x.line) w then s.modEntry e (fun x => { x with reserved := some w }) else s
    | none => s
  | some (_, r) =>
    match r.state with
    | .shared => s.recallAll .invalidate e r.holders
    | .exclusive => s.recallAll .return e r.holders
    | .poisoned => s

/-- The plan of a SWEEP-RECALL entry: the recall of each agent that falls under a case, judged with or without the region
table (R168). -/
def State.planSweep (s : State) (region : Bool) (e : EntryNo) : State :=
  (s.judgeLineBy region (s.entry e).line).foldl (fun s p => s.addRecall p.2 e p.1) s

/-- The plan of an entry, by its kind. An orphaned entry makes none but for an UNCACHED-WRITE, whose bytes still go to
memory (R68, log 17). -/
def State.plan (s : State) (e : EntryNo) : State :=
  let x := s.entry e
  match x.kind, x.origin with
  | .req k, some (a, _) => if x.orphaned && k != .uncachedWrite then s else s.planReq k e a
  | .req _, none => s
  | .retire, _ => s.planRetire e
  | .rebuild, _ => s
  | .sweepRecall, _ => s.planSweep (s.hasCriterion .region) e

/-! ### Rebuild (R181, R182) -/

/-- The notes of a rebuild at its broadcast: agents whose ports are FAILED are noted (R182). -/
def State.broadcastNotes (s : State) : Vector Note 6 :=
  Vector.ofFn (fun a => if (s.port a).state == .failed then Note.failed else Note.neither)

/-- A rebuild starts: the entry holds the lost way as its own and places RECALL RETURN to every port that is ONLINE or
DRAINING (R181). -/
def State.startRebuild (s : State) (e : EntryNo) : State :=
  let n := s.broadcastNotes
  let w := s.lookup (s.entry e).line
  let s := s.modEntry e (fun x => { x with
    rebuild := true, reserved := w, notes := n, copy := none
    phase := if x.kind == .rebuild then .recalling else .rebuilding })
  (agents.filter (fun a => (s.port a).attached)).foldl (State.addRecall .return e) s

/-- An agent settles with a rebuild: once, with its holding count lowered (R12, R181). One noted FAILED that has come back and
settles is noted settled from then on, so that its count is lowered here and not again at the end (R100, R182, log 63). -/
def State.settleAgent (s : State) (e : EntryNo) (a : Agent) : State :=
  if (s.entry e).notes[a] == .settled then s
  else (s.modEntry e (fun x => { x with notes := x.notes.set a .settled })).subHold a

/-- The marks of a way after the end of its rebuild: lost and due cleared, disabled where due and freed (R179, R182). -/
def State.endMarks (s : State) (n : SetNo) (w : WayNo) (freed : Bool) : State :=
  let m := s.mark n w
  if m.due && freed then
    (s.putMark n w { m with lost := false, due := false, disable := true }).raise alertWayDisabled
  else s.putMark n w { m with lost := false }

/-- The record at the end of a rebuild: FREE; or POISON, in place on a way not due for disabling, otherwise by the
free-way search after the way has been freed and disabled (R182). -/
def State.rebuildRecord (s : State) (e : EntryNo) (good : Bool) : State :=
  let l := (s.entry e).line
  match s.lookup l with
  | none => s
  | some w =>
    let n := setOf l
    if good then (s.freeWay l w).endMarks n w true
    else if (s.mark n w).due then
      (((s.freeWay l w).endMarks n w true).modEntry e (fun x => { x with reserved := none })).poisonLine l
    else
      ((s.editState l w Rec.poisoned false).endMarks n w false).modEntry e (fun x => { x with reserved := none })

/-- An uncached kind gives up the way it held through a rebuild, because it installs nothing (R110, R114). -/
def State.yieldWay (s : State) (k : ReqKind) (e : EntryNo) : State :=
  match k with
  | .uncachedRead => s.giveUpWay e
  | .uncachedWrite => s.giveUpWay e
  | .readShared => s
  | .readOwn => s
  | .upgrade => s
  | .lockedRead => s

/-- The plan of an agent kind after a rebuild: for an absent line after FREE, for a POISONED record after POISON, whether or
not a way could be had for the record (R70, R110, R114, R182). A READ-SHARED reads SOLE-READER-EXCLUSIVE here, where it makes
its plan, and not in the STARTING before its rebuild (R77, log 69). -/
def State.planRebuilt (s : State) (k : ReqKind) (e : EntryNo) (good : Bool) : State :=
  let x := s.entry e
  if x.orphaned && k != .uncachedWrite then s
  else if good then ((s.takeCopy e).yieldWay k e).planAbsent k e
  else (s.takeCopy e).planPoisoned k e

/-- What follows a rebuild: a RETIRE gives up a way just disabled, an agent kind makes its plan, every kind goes on
(R133, R182). -/
def State.afterRebuild (s : State) (e : EntryNo) (good : Bool) : State :=
  let x := s.entry e
  let s := match x.kind with
    | .req k => s.planRebuilt k e good
    | .retire =>
      match x.reserved with
      | some w => if s.enabled (setOf x.line) w then s else s.modEntry e (fun x => { x with reserved := none })
      | none => s
    | .rebuild => s
    | .sweepRecall => s
  s.push (.advance e)

/-- The end of a rebuild: the noted failed agents' counts are lowered, the record freed or POISONED, and the entry goes
on with its data state none (R182, log 16). -/
def State.rebuildEnd (s : State) (e : EntryNo) (good : Bool) : State :=
  let s := s.claimLine (some e) (s.entry e).line
  if !s.running then s
  else
    let x := s.entry e
    let s := (agents.filter (fun a => x.notes[a] == .failed)).foldl State.subHold s
    let s := s.rebuildRecord e good
    let s := s.modEntry e (fun x => { x with rebuild := false, wrote := false, data := .none, phase := .recalling })
    s.afterRebuild e good

/-! ### Recall replies and their effects (R84, R89, R112, R116, R135, R169, R181) -/

/-- How a recall ends: a RECALL-ACK, a RECALL-DATA, or the failure of the agent taken as not-held (R52). -/
inductive RecallEnd where
  | ack (held : Bool)
  | data (d : LineData) (kept : Bool)
  | failed
  deriving DecidableEq, Repr

/-- Data from a holder enters the buffer: unmarked bytes only, and not while the buffer's write is claimed (R53, R90,
R113, R142). -/
def State.enterData (s : State) (e : EntryNo) (d : LineData) (st : DataState) : State :=
  if s.memOp e == some true then s
  else s.modEntry e (fun x => { x with
    buffer := mergeData x.mask x.buffer d
    data := if x.kind == .req .uncachedWrite then .merged else st })

/-- Data that a RECALL-DATA brings enters the buffer. -/
def State.enterReply (s : State) (e : EntryNo) (r : RecallEnd) : State :=
  match r with
  | .ack _ => s
  | .data d _ => s.enterData e d .fromHolder
  | .failed => s

/-- A RECALL-DATA with kept = yes answering an INVALIDATE or a RETURN is reported UNEXPECTED (R89). -/
def State.reportKept (s : State) (e : EntryNo) (b : Agent) (k : RecallKind) (r : RecallEnd) : State :=
  match r with
  | .ack _ => s
  | .data _ kept => if kept && k != .share then s.reportEntry .unexpected b e else s
  | .failed => s

/-- The effect of an answer on a rebuild (R181). -/
def State.rebuildReply (s : State) (e : EntryNo) (b : Agent) (r : RecallEnd) : State :=
  match r with
  | .data d _ => (s.enterData e d .fromHolder).settleAgent e b
  | .ack held => if held then s.settleAgent e b else s
  | .failed =>
    if (s.entry e).notes[b] == .settled then s
    else s.modEntry e (fun x => { x with notes := x.notes.set b .failed })

/-- An answer to INVALIDATE removes its agent: cleanly, or as a loss where its port failed (R89). -/
def State.invalidateReply (s : State) (e : EntryNo) (b : Agent) (r : RecallEnd) : State :=
  (s.enterReply e r).removeFrom (s.entry e).line b (r == .failed) (s.touches e)

/-- The record after an exclusive holder keeps a read-only copy: SHARED held by it (R79, R84, R89). An agent that is no
longer the exclusive holder is not listed again (log 53). -/
def State.shareRec (s : State) (e : EntryNo) (b : Agent) : State :=
  let l := (s.entry e).line
  match s.lineRec l with
  | some (w, r) =>
    if r.state == .exclusive && AgentSet.has r.holders b then
      s.rewrite l w r { state := .shared, holders := AgentSet.only b, pin := none } (s.touches e)
    else s
  | none => s

/-- Whether data that its holder returns, by its answer or by an absorbed WRITEBACK, is written to memory at that event:
where the line is left SHARED or unheld by the plan (R79, R99, R112, R116, R135, R169). A READ-OWN passes the data on. -/
def Entry.writesReturned (x : Entry) : Bool :=
  match x.kind with
  | .req .readShared => true
  | .req .uncachedRead => true
  | .retire => true
  | .sweepRecall => true
  | .req .readOwn => false
  | .req .upgrade => false
  | .req .lockedRead => false
  | .req .uncachedWrite => true
  | .rebuild => false

/-- A RECALL-DATA answering SHARE or RETURN: data, record, memory write (R79, R83, R89, R112, R116, R135, R169). -/
def State.dataReply (s : State) (e : EntryNo) (b : Agent) (k : RecallKind) (d : LineData) (kept : Bool) : State :=
  let s := s.enterData e d .fromHolder
  let s := if kept && k == .share then s.shareRec e b
    else s.removeFrom (s.entry e).line b false (s.touches e)
  if (s.entry e).writesReturned then s.claimWrite e else s

/-- The memory read that goes on in place of a holder's data: agent kinds that have no reply decided; an orphaned entry
claims none but for an UNCACHED-WRITE (R68, R84, R112, R116, log 17). -/
def State.readInstead (s : State) (e : EntryNo) : State :=
  let x := s.entry e
  match x.kind with
  | .req k => if x.reply == .none && (!x.orphaned || k == .uncachedWrite) then s.claimRead e else s
  | .retire => s
  | .rebuild => s
  | .sweepRecall => s

/-- The report of a RECALL-ACK from a listed exclusive holder; RETIRE reports only held = yes (R84, R116, R135, R169,
log 22). -/
def State.reportAck (s : State) (e : EntryNo) (b : Agent) (r : RecallEnd) : State :=
  match r with
  | .ack held => if held || (s.entry e).kind != .retire then s.reportEntry .unexpected b e else s
  | .data _ _ => s
  | .failed => s

/-- A SHARE or RETURN ended without data by its one agent: the cases of R84, and those of R116 for a full mask. -/
def State.noDataReply (s : State) (e : EntryNo) (b : Agent) (k : RecallKind) (r : RecallEnd) : State :=
  let x := s.entry e
  let l := x.line
  let listed := s.listed l b
  if x.kind == .req .uncachedWrite && fullMask x.mask then
    if listed then (s.reportAck e b r).removeFrom l b false true else s
  else if x.data != .none then s
  else if !listed then s.readInstead e
  else
    let s := s.reportAck e b r
    if r == .ack true then
      (if k == .share then s.shareRec e b else s.removeFrom l b false (s.touches e)).readInstead e
    else
      let s := s.removeFrom l b true (s.touches e)
      match x.kind with
      | .req _ => s.refuse e .poisoned
      | .retire => s
      | .rebuild => s
      | .sweepRecall => s

/-- The effect that an entry's plan gives a matched answer, in one claim (R88, R89). -/
def State.planReply (s : State) (e : EntryNo) (b : Agent) (k : RecallKind) (r : RecallEnd) : State :=
  let s := s.claimEntry e (some b)
  if !s.running then s
  else
    let s := s.reportKept e b k r
    match k, r with
    | .invalidate, r => s.invalidateReply e b r
    | k, .data d kept => s.dataReply e b k d kept
    | k, r => s.noDataReply e b k r

/-- A pending recall ends: the member leaves, its effect is applied, and the entry looks at its plan again (R52, R88,
R89). The replies to the INVALIDATEs that a write fault sent make no edit; a recall that was pending before the fault has
its plan's effect and can free the record (R148, log 65). An answer that makes no edit makes no claim, here and in a
rebuild (R148, R181, log 68). -/
def State.applyReply (s : State) (e : EntryNo) (b : Agent) (r : RecallEnd) : State :=
  match (s.entry e).pending[b] with
  | none => s
  | some p =>
    let x := s.entry e
    let s := s.modEntry e (fun x => { x with pending := x.pending.set b none })
    let s :=
      if x.poisonOwed && AgentSet.has x.faultRecalls b then s.reportKept e b p.kind r
      else if x.rebuild then (s.reportKept e b p.kind r).rebuildReply e b r
      else s.planReply e b p.kind r
    s.push (.advance e)

/-! ### Writeback buffers' debts (R97) -/

/-- A buffer becomes FREE, and heads that wait for a buffer are served (R96, R94). -/
def State.freeBuffer (s : State) (b : BufferNo) : State := (s.setBuffer b WbBuffer.free).push .serveBuffers

/-- The debt of an OWING buffer is settled: FREE if its acknowledgement has been placed or dropped, otherwise ACKING
(R97). -/
def State.settleDebt (s : State) (b : BufferNo) : State :=
  if (s.buffer b).ackDone then s.freeBuffer b else s.setBuffer b { s.buffer b with state := .acking }

/-- A memory write of an entry that has ended settles the debt of its line's OWING buffer (R97). -/
def State.settleLineDebt (s : State) (l : Line) : State :=
  match s.owingBuffer l with
  | some b => s.settleDebt b
  | none => s

/-! ### Memory results of an entry (R91, R111, R117, R118, R146 to R148) -/

/-- A read ended well: its data enters the buffer, unless data from a holder is there (R53, R90). -/
def State.readGood (s : State) (e : EntryNo) (d : LineData) : State :=
  let x := s.entry e
  let s := if x.data == .none || x.data == .fromMemory then s.modEntry e (fun x => { x with
      buffer := mergeData x.mask x.buffer d
      data := if x.kind == .req .uncachedWrite then .merged else .fromMemory })
    else s
  s.push (.advance e)

/-- A read fault: nothing further where data is in; otherwise REFUSE MEMORY-FAULT (R91, R111, R118). -/
def State.readBad (s : State) (e : EntryNo) : State :=
  let s := if (s.entry e).data == .none then s.refuse e .memoryFault else s
  s.push (.advance e)

/-- The agents that a line's record lists. -/
def State.holdersOf (s : State) (l : Line) : AgentSet :=
  match s.lineRec l with
  | some (_, r) => r.holders
  | none => 0

/-- The record an UNCACHED-WRITE frees at MEM-DONE GOOD: a POISONED one (R117). The claim that looks for it is made, and
verifies the set, also where there is none to free (R51, R118, log 71). -/
def State.freePoison (s : State) (e : EntryNo) : State :=
  let l := (s.entry e).line
  let s := s.claimEntry e none
  if !s.running then s
  else
    match s.lineRec l with
    | some (w, r) => if r.state == .poisoned then s.freeRec l w r else s
    | none => s

/-- The record an orphaned READ-OWN or LOCKED-READ frees once its data is in memory (R68, R147). Where INVALIDATEs are still
pending at MEM-DONE GOOD, the record is left listed until their ends have removed its sharers (R68, R74, R147, log 66). -/
def State.freeOrphanRec (s : State) (e : EntryNo) : State :=
  let l := (s.entry e).line
  let s := s.claimEntry e none
  if !s.running then s
  else
    match s.lineRec l with
    | some (w, r) => if r.state != .poisoned && (s.entry e).noPending then s.freeRec l w r else s
    | none => s

/-- A write ended well (R147): the line's debt is settled, and the claimant goes on by its kind. -/
def State.writeGood (s : State) (e : EntryNo) : State :=
  let s := s.settleLineDebt (s.entry e).line
  let x := s.entry e
  if x.rebuild then s.rebuildEnd e true
  else
    let s := match x.kind with
      | .req .uncachedWrite =>
        let s := s.freePoison e
        if s.running then s.offerReply e (fun l => .uncachedDone l x.line) else s
      | .req .readOwn => if x.orphaned then s.freeOrphanRec e else s
      | .req .lockedRead => if x.orphaned then s.freeOrphanRec e else s
      | .req .readShared => s
      | .req .upgrade => s
      | .req .uncachedRead => s
      | .retire => s
      | .rebuild => s
      | .sweepRecall => s
    if s.running then s.push (.advance e) else s

/-- The final reply at a write fault: a reply not placed gives way to REFUSE MEMORY-FAULT (R80, R112, R118); the other
kinds have none to give. -/
def State.faultReply (s : State) (e : EntryNo) : State :=
  match (s.entry e).kind with
  | .req .readShared => s.replaceReply e
  | .req .uncachedRead => s.replaceReply e
  | .req .uncachedWrite => s.refuse e .memoryFault
  | .req .readOwn => s
  | .req .upgrade => s
  | .req .lockedRead => s
  | .retire => s
  | .rebuild => s
  | .sweepRecall => s

/-- The agents of a set that owe the entry no recall. -/
def Entry.unasked (x : Entry) (h : AgentSet) : AgentSet :=
  agents.foldl (fun h a => if x.pending[a].isSome then AgentSet.remove h a else h) h

/-- Step 1 of the poison after a write fault, with the POISON owed: RECALL INVALIDATE to every listed agent; one that owes
the entry a recall is not sent a second (R52, R148, log 65). -/
def State.invalidateListed (s : State) (e : EntryNo) : State :=
  let h := (s.entry e).unasked (s.holdersOf (s.entry e).line)
  (s.modEntry e (fun x => { x with poisonOwed := true, faultRecalls := h })).recallAll .invalidate e h

/-- Step 2 of the poison after a write fault: in place, or after the entry has given up any way it holds (R148). -/
def State.makePoison (s : State) (e : EntryNo) : State :=
  let s := (s.modEntry e (fun x => { x with poisonOwed := false })).claimEntry e none
  if !s.running then s
  else
    let l := (s.entry e).line
    let s := if (s.lineRec l).isNone then s.giveUpWay e else s
    (s.poisonLine l).push (.advance e)

/-- A write fault (R148): the final reply, then the POISON at once where no agent is listed, otherwise the INVALIDATEs with
the POISON owed. Who is listed is found in a claim, after the removals of R171 (log 76). A rebuild ends in POISON (R182). -/
def State.writeBad (s : State) (e : EntryNo) : State :=
  let s := s.settleLineDebt (s.entry e).line
  if (s.entry e).rebuild then s.rebuildEnd e false
  else
    let s := (s.faultReply e).claimEntry e none
    if !s.running then s
    else if s.holdersOf (s.entry e).line != 0 then (s.invalidateListed e).push (.advance e)
    else s.makePoison e

/-! ### The steps of a plan in flight (R50, R74) -/

/-- Another agent holds the entry's line exclusively, read without a claim (R68, log 75). -/
def State.otherExclusive (s : State) (e : EntryNo) : Bool :=
  match s.lineRec (s.entry e).line, (s.entry e).origin with
  | some (_, r), some (a, _) => r.state == .exclusive && !AgentSet.has r.holders a
  | _, _ => false

/-- The message that waits as an entry's final reply, if any. -/
def State.waitingReply (s : State) (e : EntryNo) : Option OutMsg :=
  match (s.entry e).origin with
  | some (a, _) => ((s.port a).waiters.find? (fun w => w.producer == .reply e)).map Waiter.msg
  | none => none

/-- A grant that waits is withdrawn (R87, log 19). -/
def State.withdrawReply (s : State) (e : EntryNo) : State :=
  match (s.entry e).origin with
  | some (a, _) =>
    (s.modPort a (fun p => { p with waiters := p.waiters.filter (fun w => w.producer != .reply e) })).modEntry e
      (fun x => { x with reply := .none })
  | none => s

/-- An UPGRADE with every recall answered: GRANT-UPGRADE where its requester is still listed, otherwise it is converted
to READ-OWN and claims a memory read (R85, R87, log 19). The record is read without a claim (log 75). -/
def State.stepUpgrade (s : State) (e : EntryNo) (a : Agent) : State :=
  let x := s.entry e
  let line := x.line
  if !x.noPending then s
  else if s.listed line a then
    if x.reply == .none then s.offerGrant e (fun l => .grantUpgrade l line) else s
  else
    let convert := fun (s : State) => ((s.asReadOwn e).claimRead e).push (.advance e)
    match x.reply, s.waitingReply e with
    | .none, _ => convert s
    | .waiting, some (.grantUpgrade _ _) => convert (s.withdrawReply e)
    | _, _ => s

/-- An UNCACHED-WRITE claims its memory write at the first event that leaves it a complete buffer, no pending recall and
no memory read outstanding (R114). -/
def State.stepWrite (s : State) (e : EntryNo) : State :=
  let x := s.entry e
  if x.data == .merged && x.noPending && (s.memOp e).isNone then s.claimWrite e else s

/-- Data of a writeback absorbed after the entry's grant or refusal, on a line it left unheld, is written to memory as soon
as no memory operation of the entry is left (R99, R124, log 33). -/
def State.stepSave (s : State) (e : EntryNo) : State :=
  if (s.entry e).saves && (s.memOp e).isNone then s.claimWrite e else s

/-- A writeback absorbed by an entry of a kind that passes data on: where it has given its grant or decided a refusal, no
exclusive holder takes the data, and it goes to memory (R99). A pinned line's holder ends the pin instead (R125). -/
def State.saveUnheld (s : State) (e : EntryNo) : State :=
  let x := s.entry e
  if x.refused || x.reply == .placed then
    (s.modEntry e (fun x => { x with saves := x.phase != .pinned })).stepSave e
  else s

/-- The steps an agent kind's plan now allows (R74, R76, R79, R82, R85, R111, R114, R119). -/
def State.stepReq (s : State) (k : ReqKind) (e : EntryNo) (a : Agent) : State :=
  let x := s.entry e
  let line := x.line
  let beats := beatsFrom x.buffer x.first
  let dataIn := x.reply == .none && x.data != .none
  if x.saves then s.stepSave e
  else
    match k with
    | .readShared =>
      if dataIn then
        s.offerGrant e (fun l => if x.sole then .grantExclusive l line beats false else .grantShared l line beats)
      else s
    | .readOwn => if dataIn && x.noPending then s.offerGrant e (fun l => .grantExclusive l line beats false) else s
    | .lockedRead =>
      if dataIn && x.noPending && (s.memOp e).isNone then s.offerGrant e (fun l => .grantExclusive l line beats true)
      else s
    | .upgrade => s.stepUpgrade e a
    | .uncachedRead => if dataIn then s.offerReply e (fun l => .uncachedData l line beats) else s
    | .uncachedWrite => if x.reply == .none then s.stepWrite e else s

/-- The steps of an orphaned entry: data of a holder that the plan would have passed to its origin is written to memory; an
UPGRADE of a sharer passes none (R68, R85, log 64); an UNCACHED-WRITE completes its merge and write, unless it was refused
or its read faulted (R68, R118). A READ-OWN or LOCKED-READ writes a holder's data also where its REFUSE MEMORY-FAULT was
decided or its read faulted before (R68, R91, log 67). -/
def State.stepOrphan (s : State) (k : ReqKind) (e : EntryNo) : State :=
  let x := s.entry e
  let saves := (x.data == .fromHolder || x.data == .fromWriteback) && (s.memOp e).isNone && !s.otherExclusive e
  match k with
  | .readOwn => if saves then s.claimWrite e else s
  | .lockedRead => if saves then s.claimWrite e else s
  | .upgrade => s.stepSave e
  | .uncachedWrite => if x.refused then s else s.stepWrite e
  | .readShared => s
  | .uncachedRead => s

/-- The steps an entry's plan now allows. -/
def State.stepPlan (s : State) (e : EntryNo) : State :=
  let x := s.entry e
  match x.kind, x.origin with
  | .req k, some (a, _) =>
    if x.poisonOwed then s else if x.orphaned then s.stepOrphan k e else s.stepReq k e a
  | .req _, none => s
  | .retire, _ => s
  | .rebuild, _ => s
  | .sweepRecall, _ => s

/-! ### Completion (R56 to R60) -/

/-- An entry that takes up a request whole, at allocation and at hand-over (R53, R58, R62). -/
def Entry.ofRequest (q : Request) (use : UseNo) (deferred : List Request) : Entry :=
  { Entry.free use with
    kind := .req q.kind, origin := some (q.agent, q.label), line := q.line, phase := .starting
    buffer := if q.kind == .uncachedWrite then q.data else 0
    mask := if q.kind == .uncachedWrite then q.mask else 0
    first := q.first, deferred := deferred }

/-- A completing RETIRE passes its way to its dependent; without a way the dependent chooses again (R136). -/
def State.passWay (s : State) (e : EntryNo) : State :=
  let x := s.entry e
  match x.dependent with
  | none => s
  | some d =>
    if (s.entry d).phase != .awaitingWay then s
    else
      match x.reserved with
      | some w => (s.modEntry e (fun x => { x with reserved := none })).giveWay d w
      | none => s.searchWay d

/-- The poison an OWING buffer holds is made at the completion of the line's entry (R97). -/
def State.owedPoison (s : State) (e : EntryNo) : State :=
  let l := (s.entry e).line
  match s.owingBuffer l with
  | none => s
  | some b =>
    let s := s.claimEntry e none
    if s.running then (s.poisonLine l).settleDebt b else s

/-- Steps two and three: hand-over to the head of the deferred list, or the entry becomes FREE (R58, R59). -/
def State.handOver (s : State) (e : EntryNo) : State :=
  let x := s.entry e
  match x.deferred with
  | q :: rest => (s.setEntry e (Entry.ofRequest q (x.use + 1) rest)).push (.start e)
  | [] => (s.setEntry e (Entry.free x.use)).push .admission

/-- A nonconforming record turns the completing entry into kind SWEEP-RECALL, which goes on at once (R57). -/
def State.convertSweep (s : State) (e : EntryNo) : State :=
  let s := s.modEntry e (fun x => { Entry.free x.use with
    kind := .sweepRecall, line := x.line, phase := .recalling, buffer := x.buffer, deferred := x.deferred
    copy := x.copy, recheck := x.recheck })
  ((s.planSweep true e).push .admission).push (.advance e)

/-- Step one: a set recheck is cleared and the record checked against every criterion now in the list (R57), and against the
region table also where REGION has left the list: no holding that the table does not allow outlives the last recheck (R158,
R160, log 62). A record whose state part is lost goes on to step two (log 52). -/
def State.recheckStep (s : State) (e : EntryNo) : State :=
  if !(s.entry e).recheck then s.handOver e
  else
    let s := (s.modEntry e (fun x => { x with recheck := false })).claimEntry e none
    if !s.running then s
    else if s.lineLost (s.entry e).line then s.handOver e
    else if (s.judgeLineBy true (s.entry e).line).isEmpty then s.handOver e
    else s.convertSweep e

/-- Completion (R56): a RETIRE passes its way, a reserved way is released, an OWING buffer's poison is made, the set is
reported to way allocation, and the first of the three steps is taken. -/
def State.complete (s : State) (e : EntryNo) : State :=
  let s := if (s.entry e).kind == .retire then s.passWay e else s
  if !s.running then s
  else
    let s := (s.modEntry e (fun x => { x with reserved := none })).owedPoison e
    if !s.running then s
    else (s.push (.wake (setOf (s.entry e).line))).recheckStep e

/-- The phase that follows from the work outstanding; an entry with nothing outstanding completes (R50, R56). -/
def State.settlePhase (s : State) (e : EntryNo) : State :=
  let x := s.entry e
  let inPhase := fun (p : Phase) => s.modEntry e (fun x => { x with phase := p })
  match x.phase with
  | .free => s
  | .starting => s
  | .awaitingWay => s
  | .pinned => s
  | .rebuilding => s
  | _ =>
    match s.memOp e with
    | some true => inPhase .writingMemory
    | some false => inPhase .readingMemory
    | none =>
      if !x.noPending then inPhase .recalling
      else if x.reply == .waiting || x.breaking then inPhase .replying
      else if x.poisonOwed || x.rebuild then s
      else if !x.kind.isAgent || x.reply == .placed || x.orphaned then s.complete e
      else s

/-- A rebuild goes on: with every recall ended, data in the buffer is written to memory, and without data the rebuild
ends (R181, R182). -/
def State.advanceRebuild (s : State) (e : EntryNo) : State :=
  let x := s.entry e
  if x.noPending && (s.memOp e).isNone then
    if x.data != .none then (s.claimWrite e).settlePhase e
    else s.rebuildEnd e (agents.any (fun a => x.notes[a] == .settled))
  else s.settlePhase e

/-- An entry takes the steps its plan now allows, and then its phase or its completion (R50). -/
def State.advance (s : State) (e : EntryNo) : State :=
  let x := s.entry e
  match x.phase with
  | .free => s
  | .starting => s
  | .awaitingWay => s
  | .pinned => s
  | _ =>
    if x.rebuild then s.advanceRebuild e
    else if x.poisonOwed && x.noPending then s.makePoison e
    else (s.stepPlan e).settlePhase e

/-! ### STARTING (R51) -/

/-- The lookup of STARTING and the decision it calls for (R51). -/
def State.lookupStep (s : State) (e : EntryNo) : State :=
  let s := s.claimEntry e none
  if !s.running then s
  else if s.lineLost (s.entry e).line then s.startRebuild e
  else (s.takeCopy e).plan e

/-- The pin-limit check of a LOCKED-READ (R69). -/
def State.pinCheck (s : State) (e : EntryNo) : State :=
  if Config.pinLimit ≤ s.pinCount then s.refuse e .pinLimit
  else (s.modEntry e (fun x => { x with pinCounted := true })).lookupStep e

/-- The opening work of an agent kind: region check with its answer on the write right, pin-limit check, lookup (R51, R156,
R158). -/
def State.openReq (s : State) (k : ReqKind) (e : EntryNo) (a : Agent) : State :=
  match regionCheck s.settings k a (s.entry e).line with
  | some r => s.refuse e r
  | none =>
    let s := s.modEntry e (fun x => { x with mayWrite := writeRight s.settings a x.line })
    if k == .lockedRead then s.pinCheck e else s.lookupStep e

/-- STARTING: the opening work in order, and the phase that follows (R51). -/
def State.start (s : State) (e : EntryNo) : State :=
  let x := s.entry e
  if x.phase != .starting then s
  else
    let s := match x.kind, x.origin with
      | .req k, some (a, _) => s.openReq k e a
      | .req _, none => s
      | .retire, _ => s.lookupStep e
      | .rebuild, _ => s.lookupStep e
      | .sweepRecall, _ => s.lookupStep e
    if !s.running then s
    else
      let s := if (s.entry e).phase == .starting then s.modEntry e (fun x => { x with phase := .recalling }) else s
      s.push (.advance e)

end Sys2Proof.Machine
end

