-- ==== Sys2Proof/Machine/Ports.lean ====
section
/-! DEFINITION. The agent ports and the admission arbiter: arrivals, joining and leaving, failure, output places, admission
(spec 02, spec 03 section 3.7, spec 10 section 10.6). -/

namespace Sys2Proof.Machine

/-! ### Arrivals (R25, R32, R34, R38) -/

/-- The part takes messages of this agent: RUNNING, and its port ONLINE or DRAINING (R18, R25). -/
def State.takes (s : State) (a : Agent) : Bool := s.running && (s.port a).attached

/-- An arrival refusal: placed if the output queue has a place, reported in either case (R32). -/
def State.refuseArrival (s : State) (q : Request) (r : Reason) (sub : SubReason) : State :=
  let s := if (s.port q.agent).output.length < Config.outputQueueSize
    then s.place q.agent (.refuse q.label q.line r) else s
  s.reportProtocol sub q.agent (some q.line) none

/-- A request arrives: the arrival checks in order, then the request queue (R25, R32). -/
def State.arriveRequest (s : State) (q : Request) : State :=
  if !s.takes q.agent then s
  else if Config.requestQueueSize ≤ (s.port q.agent).requests.length then s.refuseArrival q .queueFull .queueFull
  else if (s.port q.agent).labels.contains q.label then s.refuseArrival q .labelInUse .labelInUse
  else s.modPort q.agent (fun p => { p with labels := p.labels ++ [q.label], requests := p.requests ++ [q] })

/-- The recall record that a recall reply names leaves the list, and its timer stops (R38). -/
def State.stopRecall (s : State) (a : Agent) (entry : Byte) (use : UseNo) : State :=
  s.modPort a (fun p => { p with
    recalls := p.recalls.filter (fun r => !(r.entry.val == entry.toNat && r.use == use)) })

/-- The recall list check (R38). -/
def State.checkRecall (s : State) (a : Agent) (m : Resp) : State :=
  match m with
  | .recallAck e u _ => s.stopRecall a e u
  | .recallData e u _ _ => s.stopRecall a e u
  | .writeback _ _ => s
  | .drop _ => s
  | .unpin _ _ => s

/-- The line a response carries; recall replies carry none (R41). -/
def Resp.line : Resp → Option Line
  | .recallAck _ _ _ => none
  | .recallData _ _ _ _ => none
  | .writeback l _ => some l
  | .drop l => some l
  | .unpin l _ => some l

/-- A response arrives: recall list check, then the response queue; a response past eight is discarded and reported
(R25, R34, R38). -/
def State.arriveResponse (s : State) (a : Agent) (m : Resp) : State :=
  if !s.takes a then s
  else
    let s := s.checkRecall a m
    if Config.responseQueueSize ≤ (s.port a).responses.length then s.reportProtocol .queueFull a m.line none
    else s.modPort a (fun p => { p with responses := p.responses ++ [{ msg := m, held := false, waits := false }] })

/-- The port signals hold to its agent while its response queue holds eight messages (R34). -/
def Port.holdSignal (p : Port) : Bool := decide (Config.responseQueueSize ≤ p.responses.length)

/-! ### Joining and leaving (R26, R27, R28) -/

/-- JOIN-ACK is placed, or waits; while one waits a further JOIN is discarded (R26, R37). -/
def State.offerJoinAck (s : State) (a : Agent) : State :=
  if (s.port a).waiters.any (fun w => w.producer == .joinAck) then s
  else if (s.port a).hasPlace then s.place a .joinAck
  else s.wait a { producer := .joinAck, msg := .joinAck }

/-- JOIN (R26). -/
def State.joinPort (s : State) (a : Agent) : State :=
  if !s.running then s
  else
    match (s.port a).state with
    | .offline => (s.modPort a (fun p => { p with state := .online })).offerJoinAck a
    | .online => s.offerJoinAck a
    | .draining => s
    | .failed => s

/-- LEAVE: an ONLINE port becomes DRAINING and sets drain requested; the engine takes the request at once and clears the
flag (R27, R162, R172). -/
def State.leavePort (s : State) (a : Agent) : State :=
  if !s.running || (s.port a).state != .online then s
  else
    let s := (s.modPort a (fun p => { p with state := .draining, drainRequested := true })).sweepJoin (.drain a)
    (s.modPort a (fun p => { p with drainRequested := false })).push .admission

/-- A port moves from FAILED to OFFLINE: the flag is cleared and the holding count written 0 (R30, R31). -/
def State.goOffline (s : State) (a : Agent) : State :=
  s.modPort a (fun p => { p with state := .offline, autoOffline := false, holding := 0 })

/-! ### Failure of a port (R29, R126, R132, R170) -/

/-- The pin timer of an entry is stopped, the pin count falls, and the entry leaves PINNED (R121 to R126). -/
def State.endPin (s : State) (e : EntryNo) : State :=
  s.modEntry e (fun x => { x with pinTimer := none, pinCounted := false, phase := .recalling })

/-- The acknowledgement of a writeback buffer has been placed or dropped (R96, R97). -/
def State.ackDone (s : State) (b : BufferNo) : State :=
  match (s.buffer b).state with
  | .acking => s.freeBuffer b
  | .owing => s.setBuffer b { s.buffer b with ackDone := true }
  | .free => s
  | .writing => s

/-- A wait that ends without placing (R36, R37, R123, R170). -/
def State.endWait (s : State) (w : Waiter) : State :=
  match w.producer with
  | .reply e => s.modEntry e (fun x => { x with reply := .none })
  | .recall _ => s
  | .handlerAck => s
  | .bufferAck b => s.ackDone b
  | .pinBroken e => (s.modEntry e (fun x => { x with breaking := false })).push (.advance e)
  | .admission => s
  | .joinAck => s

/-- The port's own changes at a failure (R29). -/
def Port.fail (p : Port) : Port :=
  { p with
    state := .failed, requests := [], head := .fresh, responses := [], labels := [], recalls := [], waiters := []
    drainRequested := false, output := if p.link then [.portDown] else [] }

/-- An entry's requester is listed in the line's record, read without a claim (log 75). -/
def State.originListed (s : State) (e : EntryNo) : Bool :=
  match (s.entry e).origin with
  | some (a, _) => s.listed (s.entry e).line a
  | none => false

/-- An entry is orphaned: it leaves the pin count and, in AWAITING-WAY, the awaiting list; a retirement made for it runs
on without a dependent (R68, R69, R132). An UPGRADE whose requester had given its copy up is the READ-OWN that R87 makes of
it (R68, R85, log 64). -/
def State.orphan (s : State) (e : EntryNo) : State :=
  let s := if s.originListed e then s else s.asReadOwn e
  let s := s.modEntry e (fun x => { x with orphaned := true, reply := .none, pinCounted := false })
  if (s.entry e).phase == .awaitingWay then
    let s := s.leaveAwaiting e
    let s := { s with entries := s.entries.map (fun (x : Entry) =>
      if x.kind == Kind.retire && x.dependent == some e then { x with dependent := none } else x) }
    s.modEntry e (fun x => { x with phase := .recalling })
  else s

/-- The requests of a failed agent leave a deferred list; an internal entry whose list empties gives up its place
(R55, R61). -/
def State.undefer (s : State) (a : Agent) (e : EntryNo) : State :=
  (s.modEntry e (fun x => { x with deferred := x.deferred.filter (fun q => q.agent != a) })).push .admission

/-- An entry's origin is this agent. -/
def Entry.isOf (x : Entry) (a : Agent) : Bool :=
  match x.origin with
  | some (b, _) => b == a
  | none => false

/-- The changes of one entry at the failure of an agent's port: deferred requests, orphaning, the owed recall taken as
not-held, the pin (R126, R170). -/
def State.failEntry (a : Agent) (s : State) (e : EntryNo) : State :=
  if (s.entry e).phase == .free then s
  else
    let s := if (s.entry e).deferred.any (fun q => q.agent == a) then s.undefer a e else s
    let x := s.entry e
    let s := if x.kind.isAgent && x.isOf a && x.reply != .placed then s.orphan e else s
    let s := s.applyReply e a .failed
    let s := if x.phase == .pinned && x.isOf a && s.running then (s.endPin e).claimEntry e none else s
    if s.running then s.push (.advance e) else s

/-- The failure of a port: its own changes, then the reports to the transaction table, the sweep engine, the alert unit
and, where the cause makes one, fault capture (R29, R170). -/
def State.failPort (s : State) (a : Agent) (r : Option Report) : State :=
  let ws := (s.port a).waiters
  let s := s.modPort a Port.fail
  let s := { s with bufferWaiters := s.bufferWaiters.filter (fun b => b != a) }
  let s := ws.foldl State.endWait s
  let s := entryNos.foldl (State.failEntry a) s
  let s := (s.sweepStrip a).raise (alertAgentFailed a)
  match r with
  | some r => s.report r
  | none => s

/-! ### Output places (R36, R37) -/

/-- The head of a request queue leaves it (R62). -/
def State.popRequest (s : State) (a : Agent) : State :=
  s.modPort a (fun p => { p with requests := p.requests.tail, head := .fresh })

/-- A refused request leaves its queue with its label released (R33, R62). -/
def State.dropRefused (s : State) (a : Agent) (m : OutMsg) : State :=
  match m with
  | .refuse l _ _ => (s.popRequest a).releaseLabel a l
  | _ => s.popRequest a

/-- A waiting producer is given a place (R37). -/
def State.servePlace (s : State) (a : Agent) (w : Waiter) : State :=
  match w.producer with
  | .reply e =>
    match (s.entry e).origin with
    | none => s
    | some (_, l) =>
      let s := s.modEntry e (fun x => { x with reply := .none })
      let s := if w.msg.isGrant then s.placeGrant e a l w.msg else s.placeReply e a l w.msg
      if s.running then s.push (.advance e) else s
  | .recall e => s.placeRecall e a w.msg
  | .handlerAck => (s.place a w.msg).push .serveBuffers
  | .bufferAck b => ((s.place a w.msg).ackDone b).push .serveBuffers
  | .pinBroken e => ((s.place a w.msg).modEntry e (fun x => { x with breaking := false })).push (.advance e)
  | .admission => ((s.place a w.msg).dropRefused a w.msg).push .admission
  | .joinAck => s.place a w.msg

/-- A free place goes to the producer that has waited longest (R37). -/
def State.givePlace (s : State) (a : Agent) : State :=
  if (s.port a).output.length < Config.outputQueueSize then
    match (s.port a).waiters with
    | [] => s
    | w :: ws =>
      let s := (s.modPort a (fun p => { p with waiters := ws })).servePlace a w
      if s.running then s.push (.outputPlace a) else s
  else s

/-- The link has sent the head of the output queue; nothing is sent while the link is down (R24, R36). -/
def State.messageSent (s : State) (a : Agent) : State :=
  if (s.port a).link && !(s.port a).output.isEmpty then
    (s.modPort a (fun p => { p with output := p.output.tail })).push (.outputPlace a)
  else s

/-! ### Admission (R62 to R65) -/

/-- The outcomes of R62 for the head of a request queue. -/
inductive Admission where
  | noHead
  | leaving
  | guarded
  | duplicate
  | defer (e : EntryNo)
  | needPlace (e : EntryNo)
  | needEntry
  deriving DecidableEq, Repr

/-- The same-line order guard: the response queue holds a WRITEBACK, DROP or UNPIN for the line (R35, R64). -/
def Port.guards (p : Port) (l : Line) : Bool := p.responses.any (fun m => m.msg.line == some l)

/-- The agent has a request outstanding on the line of an active entry (R63). -/
def Entry.outstanding (x : Entry) (a : Agent) : Bool :=
  (x.kind.isAgent && x.isOf a && !x.orphaned && x.reply != .placed) || x.deferred.any (fun q => q.agent == a)

/-- The first outcome that applies to the head of an agent's request queue (R62). -/
def State.admission (s : State) (a : Agent) : Admission :=
  match (s.port a).requests with
  | [] => .noHead
  | q :: _ =>
    if !s.takes a then .noHead
    else if (s.port a).state == .draining then .leaving
    else if (s.port a).guards q.line then .guarded
    else
      match s.busy q.line with
      | some e =>
        if (s.entry e).outstanding q.agent then .duplicate
        else if (s.entry e).holdsPlace then .defer e
        else .needPlace e
      | none => .needEntry

/-- The head is refused: the refusal is placed and the request leaves the queue, or the arbiter waits (R37, R62). -/
def State.refuseHead (s : State) (a : Agent) (q : Request) (r : Reason) : State :=
  let m := OutMsg.refuse q.label q.line r
  if (s.port a).hasPlace then (s.place a m).dropRefused a m
  else (s.wait a { producer := .admission, msg := m }).modPort a (fun p => { p with head := .refusing })

/-- The head joins a deferred list at its tail (R54). -/
def State.deferHead (s : State) (a : Agent) (q : Request) (e : EntryNo) : State :=
  (s.popRequest a).modEntry e (fun x => { x with deferred := x.deferred ++ [q] })

/-- The head is allocated an agent-pool entry in STARTING (R48, R62). -/
def State.allocHead (s : State) (a : Agent) (q : Request) (e : EntryNo) : State :=
  let s := (s.popRequest a).setEntry e (Entry.ofRequest q ((s.entry e).use + 1) [])
  (s.push (.start e)).push .admission

/-- The lowest-numbered free entry of a pool (R65, R67). -/
def State.freeEntry (s : State) (pool : List EntryNo) : Option EntryNo :=
  pool.find? (fun e => (s.entry e).phase == .free)

/-- How the head now stands with the arbiter. -/
def State.setHead (s : State) (a : Agent) (h : HeadStand) : State := s.modPort a (fun p => { p with head := h })

/-- An examination of the head: the first outcome that applies is taken, and whether the head left or was answered. A
grant moves the round-robin position (R62, R65). -/
def State.examine (s : State) (a : Agent) : State × Bool :=
  match (s.port a).requests with
  | [] => (s, false)
  | q :: _ =>
    match s.admission a with
    | .noHead => (s, false)
    | .leaving => (s.refuseHead a q .leaving, true)
    | .guarded => (s.setHead a .held, false)
    | .duplicate => (s.refuseHead a q .duplicateLine, true)
    | .defer e => (s.deferHead a q e, true)
    | .needPlace e =>
      if s.placesHeld < Config.agentPlaces then ({ s.deferHead a q e with position := a }, true)
      else (s.setHead a .claimant, false)
    | .needEntry =>
      match s.freeEntry agentPool with
      | some e =>
        if s.placesHeld < Config.agentPlaces then ({ s.allocHead a q e with position := a }, true)
        else (s.setHead a .claimant, false)
      | none => (s.setHead a .claimant, false)

/-- A head that waits: held by the guard, or a claimant (R62). -/
def Port.headWaits (p : Port) : Bool := p.head == .held || p.head == .claimant

/-- The waiting heads are examined again, in the order after the round-robin position, up to the first that leaves
(R62, R65). -/
def State.reexamine (s : State) : List Agent → State × Bool
  | [] => (s, false)
  | a :: l =>
    if (s.port a).headWaits then
      match s.examine a with
      | (s', true) => (s', true)
      | (s', false) => s'.reexamine l
    else s.reexamine l

/-- One round of the admission arbiter over the waiting heads; it goes on while heads leave (R65). -/
def State.admissionRound (s : State) : State :=
  match s.reexamine (agentsAfter s.position) with
  | (s', true) => s'.push .admission
  | (s', false) => s'

end Sys2Proof.Machine
end

