-- ==== Sys2Proof/Machine/Handler.lean ====
section
/-! DEFINITION. The response handler: recall replies, writebacks, drops and unpins, and the heads that wait for a writeback
buffer (spec 05, spec 06 section 6.3, spec 11 R177). -/

namespace Sys2Proof.Machine

/-! ### The head of a response queue (R35, R92, R177) -/

/-- A message stays held for a rebuild while the REBUILD claim for its line waits and the line is not busy with a rebuild
(R177, log 37). -/
def State.staysHeld (s : State) (m : QueuedResp) (l : Line) : Bool :=
  m.held && !s.rebuilding l && s.rebuildClaims.any (fun c => c.line == l)

/-- The message the handler takes next with its place in the queue: held messages are passed, but not by a message for
a held line, which waits with all behind it (R177); a message that waits for a writeback buffer is not taken, and the
messages behind it wait (R94). -/
def State.nextFrom (s : State) (held : List Line) (i : Nat) : List QueuedResp → Option (Nat × Resp)
  | [] => none
  | m :: rest =>
    if m.waits then none
    else
      match m.msg.line with
      | none => some (i, m.msg)
      | some l =>
        if held.contains l then none
        else if s.staysHeld m l then s.nextFrom (l :: held) (i + 1) rest
        else some (i, m.msg)

/-- The message the handler takes next from a port's response queue. -/
def State.nextResponse (s : State) (a : Agent) : Option (Nat × Resp) := s.nextFrom [] 0 (s.port a).responses

/-- The handler waits at this port with an acknowledgement (R37, R96). -/
def Port.ackWaits (p : Port) : Bool :=
  p.waiters.any (fun w =>
    match w.producer with
    | .handlerAck => true
    | .bufferAck _ => true
    | _ => false)

/-- The handler takes this port's messages: RUNNING, ONLINE or DRAINING, no acknowledgement waiting (R37, R92, R96). -/
def State.handles (s : State) (a : Agent) : Bool := s.takes a && !(s.port a).ackWaits

/-- The message leaves the queue when it has been routed; the same-line order guard it held is lifted, and a DRAINING port
tests its six conditions (R28, R64, R92). -/
def State.takeResponse (s : State) (a : Agent) (i : Nat) : State :=
  ((s.modPort a (fun p => { p with responses := p.responses.eraseIdx i })).checkDrained a).push .admission

/-- The message is held for a rebuild (R177). -/
def State.holdResponse (s : State) (a : Agent) (i : Nat) : State :=
  s.modPort a (fun p => { p with responses := p.responses.modify i (fun m => { m with held := true }) })

/-- The message waits for a writeback buffer, or waits no more (R94). -/
def State.markWaiting (s : State) (a : Agent) (i : Nat) (b : Bool) : State :=
  s.modPort a (fun p => { p with responses := p.responses.modify i (fun m => { m with waits := b }) })

/-- The message of a port that waits for a writeback buffer, with its place in the queue (R94). -/
def Port.waitingHead (p : Port) : Option (Nat × Resp) :=
  (p.responses.zipIdx.find? (fun q => q.1.waits)).map (fun q => (q.2, q.1.msg))

/-! ### Acknowledgements -/

/-- The acknowledgement of a writeback: WB-ACK, or UNPIN-ACK LATE for an UNPIN routed as one (R124). -/
def ackMsg (l : Line) (late : Bool) : OutMsg := if late then .unpinAck l true else .wbAck l

/-- An acknowledgement is placed at once, waits, or is dropped for a port that takes none (R36, R37). -/
def State.offerAck (s : State) (a : Agent) (m : OutMsg) : State :=
  if !(s.port a).attached then s
  else if (s.port a).hasPlace then s.place a m
  else s.wait a { producer := .handlerAck, msg := m }

/-- The acknowledgement of a writeback buffer, placed or dropped by what the port of its agent is at the end of the write: a
port that has failed or left meanwhile and is ONLINE again is sent it (R96, R109, R170, log 70). -/
def State.offerBufferAck (s : State) (b : BufferNo) : State :=
  let x := s.buffer b
  let m := ackMsg x.line x.late
  if !(s.port x.agent).attached then s.ackDone b
  else if (s.port x.agent).hasPlace then (s.place x.agent m).ackDone b
  else s.wait x.agent { producer := .bufferAck b, msg := m }

/-- A PROTOCOL UNEXPECTED fault with agent, line and, on a busy line, the entry (R103, R104). -/
def State.reportUnexpected (s : State) (a : Agent) (l : Line) : State :=
  s.reportProtocol .unexpected a (some l) ((s.busy l).map entryByte)

/-- The busy line's entry, if any, looks at its plan again. -/
def State.advanceBusy (s : State) (l : Line) : State :=
  match s.busy l with
  | some e => s.push (.advance e)
  | none => s

/-! ### Recall replies (R88, R105) -/

/-- The entry a recall reply belongs to: active, of the same use number, the agent a placed member (R88). -/
def State.matchReply (s : State) (a : Agent) (entry : Byte) (use : UseNo) : Option EntryNo :=
  entryNos.find? (fun e =>
    e.val == entry.toNat && (s.entry e).phase != .free && (s.entry e).use == use &&
      (match (s.entry e).pending[a] with
       | some p => p.placed
       | none => false))

/-- The line of the entry a reply names, if it is active (R105). -/
def State.namedLine (s : State) (entry : Byte) : Option Line :=
  (entryNos.find? (fun e => e.val == entry.toNat && (s.entry e).phase != .free)).map (fun e => (s.entry e).line)

/-- A stale recall reply: counted and reported (R105). -/
def State.staleReply (s : State) (a : Agent) (entry : Byte) : State :=
  s.countStale.reportProtocol .staleReply a (s.namedLine entry) (some entry)

/-- A recall reply is routed to its entry, or is stale (R88, R105). -/
def State.routeReply (s : State) (a : Agent) (i : Nat) (entry : Byte) (use : UseNo) (r : RecallEnd) : State :=
  match s.matchReply a entry use with
  | some e => (s.applyReply e a r).takeResponse a i
  | none => (s.staleReply a entry).takeResponse a i

/-! ### Writebacks (R94, R98 to R100, R103, R104, R125) -/

/-- The lowest-numbered FREE writeback buffer (R94). -/
def State.freeBufferNo (s : State) : Option BufferNo := bufferNos.find? (fun b => (s.buffer b).state == .free)

/-- A WRITEBACK for an idle line held exclusively by its sender takes a buffer, or its head waits for one (R94). -/
def State.bufferWb (s : State) (a : Agent) (i : Nat) (l : Line) (d : LineData) (late : Bool) : State :=
  match s.freeBufferNo with
  | none => { s.markWaiting a i true with bufferWaiters := s.bufferWaiters ++ [a] }
  | some b =>
    let s := s.removeFrom l a false false
    let s := s.setBuffer b { state := .writing, line := l, agent := a, late := late, data := d, ackDone := false }
    (s.claimMem { claimant := .buffer b, write := true, line := l }).takeResponse a i

/-- A WRITEBACK from a sharer: taken as a drop, acknowledged and reported (R103). -/
def State.sharerWb (s : State) (a : Agent) (i : Nat) (l : Line) (late : Bool) : State :=
  ((((s.removeFrom l a false false).offerAck a (ackMsg l late)).reportUnexpected a l).advanceBusy l).takeResponse a i

/-- A WRITEBACK from a non-holder: acknowledged, discarded, reported (R104). -/
def State.strangerWb (s : State) (a : Agent) (i : Nat) (l : Line) (late : Bool) : State :=
  ((s.offerAck a (ackMsg l late)).reportUnexpected a l).takeResponse a i

/-- A WRITEBACK absorbed by the busy line's entry: data, clean removal, acknowledgement, and the steps it allows
(R98, R99). A refused UNCACHED-WRITE keeps its marked bytes over the data (log 56). -/
def State.absorbWb (s : State) (a : Agent) (i : Nat) (l : Line) (d : LineData) (late : Bool) (e : EntryNo) : State :=
  let s := s.enterData e d .fromWriteback
  let s := (s.removeFrom l a false false).offerAck a (ackMsg l late)
  let s := if (s.entry e).writesReturned then s.claimWrite e else s.saveUnheld e
  (s.push (.advance e)).takeResponse a i

/-- A WRITEBACK taken against a rebuild; from an agent that has settled it is a non-holder's (R100). It edits no record and
makes no claim (log 68). -/
def State.rebuildWb (s : State) (a : Agent) (i : Nat) (l : Line) (d : LineData) (late : Bool) (e : EntryNo) : State :=
  if (s.entry e).notes[a] == .settled then s.strangerWb a i l late
  else
    (((((s.enterData e d .fromWriteback).settleAgent e a).offerAck a (ackMsg l late))).push (.advance e)).takeResponse a i

/-- The agent's pin on the line: the line is busy with a PINNED entry of this agent (R5, R120, R124). -/
def State.pinnedBy (s : State) (l : Line) (a : Agent) : Option EntryNo :=
  match s.busy l with
  | some e => if (s.entry e).phase == .pinned && (s.entry e).isOf a then some e else none
  | none => none

/-- Data that ends a pin returns the line: it enters the buffer, the agent is removed cleanly, and the memory write is
claimed (R122). -/
def State.returnPinned (s : State) (a : Agent) (l : Line) (d : LineData) (e : EntryNo) (ack : OutMsg) : State :=
  let s := ((s.enterData e d .fromWriteback).removeFrom l a false false).endPin e
  ((s.offerAck a ack).claimWrite e).push (.advance e)

/-- A WRITEBACK by what the record says of its sender, on a busy line (spec 05 section 5.2). -/
def State.busyWb (s : State) (a : Agent) (i : Nat) (l : Line) (d : LineData) (late : Bool) (e : EntryNo) : State :=
  match s.lineRec l with
  | none => s.strangerWb a i l late
  | some (_, r) =>
    if !AgentSet.has r.holders a then s.strangerWb a i l late
    else
      match r.state with
      | .shared => s.sharerWb a i l late
      | .poisoned => s.strangerWb a i l late
      | .exclusive =>
        match s.pinnedBy l a with
        | some e => ((s.reportEntry .unexpected a e).returnPinned a l d e (ackMsg l late)).takeResponse a i
        | none => s.absorbWb a i l d late e

/-- A WRITEBACK by what the record says of its sender, on an idle line (spec 05 section 5.2). -/
def State.idleWb (s : State) (a : Agent) (i : Nat) (l : Line) (d : LineData) (late : Bool) : State :=
  match s.lineRec l with
  | none => s.strangerWb a i l late
  | some (_, r) =>
    if !AgentSet.has r.holders a then s.strangerWb a i l late
    else
      match r.state with
      | .shared => s.sharerWb a i l late
      | .poisoned => s.strangerWb a i l late
      | .exclusive => s.bufferWb a i l d late

/-- The lost state part of a line that is not being rebuilt, idle or busy with an entry refused before its lookup: a REBUILD
claim, and the message is held (R177, log 44). -/
def State.holdForRebuild (s : State) (a : Agent) (i : Nat) (l : Line) : State :=
  match s.lookup l with
  | some w => (s.claimRebuild l (setOf l) w).holdResponse a i
  | none => s

/-- A WRITEBACK, or an UNPIN with data routed as one, is routed by its line (R92, R94, R98, R100, R103, R104). -/
def State.routeWb (s : State) (a : Agent) (i : Nat) (l : Line) (d : LineData) (late : Bool) : State :=
  match s.busy l with
  | some e =>
    if (s.entry e).phase == .starting then s
    else if (s.entry e).rebuild then s.rebuildWb a i l d late e
    else
      let s := s.claimLine none l
      if !s.running then s
      else if s.lineLost l then s.holdForRebuild a i l
      else s.busyWb a i l d late e
  | none =>
    let s := s.claimLine none l
    if !s.running then s
    else if s.lineLost l then s.holdForRebuild a i l
    else (s.stripFailed l none).idleWb a i l d late

/-! ### Drops (R100 to R102, R125) -/

/-- A DROP from a listed agent: removed cleanly; a DROP of the pinned line ends the pin and is reported (R101, R125). -/
def State.listedDrop (s : State) (a : Agent) (i : Nat) (l : Line) : State :=
  match s.pinnedBy l a with
  | some e =>
    (((s.reportEntry .unexpected a e).removeFrom l a false false).endPin e |>.push (.advance e)).takeResponse a i
  | none => ((s.removeFrom l a false false).advanceBusy l).takeResponse a i

/-- A DROP by what the record says of its sender (R101, R102). -/
def State.takeDrop (s : State) (a : Agent) (i : Nat) (l : Line) : State :=
  if s.listed l a then s.listedDrop a i l else s.countLateDrop.takeResponse a i

/-- A DROP taken against a rebuild (R100). It edits no record and makes no claim (log 68). -/
def State.rebuildDrop (s : State) (a : Agent) (i : Nat) (e : EntryNo) : State :=
  if (s.entry e).notes[a] == .settled then s.countLateDrop.takeResponse a i
  else ((s.settleAgent e a).push (.advance e)).takeResponse a i

/-- A DROP is routed by its line (R92, R100 to R102). -/
def State.routeDrop (s : State) (a : Agent) (i : Nat) (l : Line) : State :=
  match s.busy l with
  | some e =>
    if (s.entry e).phase == .starting then s
    else if (s.entry e).rebuild then s.rebuildDrop a i e
    else
      let s := s.claimLine none l
      if !s.running then s
      else if s.lineLost l then s.holdForRebuild a i l
      else s.takeDrop a i l
  | none =>
    let s := s.claimLine none l
    if !s.running then s
    else if s.lineLost l then s.holdForRebuild a i l
    else (s.stripFailed l none).takeDrop a i l

/-! ### Unpins (R121, R122, R124) -/

/-- The pin of a line's record is cleared; everything else of the record stays (R5, R121, R123). -/
def State.clearPin (s : State) (l : Line) (touch : Bool) : State :=
  match s.lineRec l with
  | some (w, r) => if r.pin.isSome then s.rewrite l w r { r with pin := none } touch else s
  | none => s

/-- An UNPIN taken against its agent's pin (R121, R122). -/
def State.takeUnpin (s : State) (a : Agent) (i : Nat) (l : Line) (d : Option LineData) (e : EntryNo) : State :=
  let s := s.claimLine none l
  if !s.running then s
  else
    match d with
    | none =>
      ((((s.clearPin l false).endPin e).offerAck a (.unpinAck l false)).push (.advance e)).takeResponse a i
    | some d => (s.returnPinned a l d e (.unpinAck l false)).takeResponse a i

/-- An UNPIN without data that finds no pin: answered LATE, and on a line whose state part is lost held for the rebuild
(R124, R177, R181). Like every message routed by its line it makes a claim, which verifies, and which strips FAILED agents
from an idle line's record; against a rebuild it makes none (R92, R171, log 73). -/
def State.lateUnpin (s : State) (a : Agent) (i : Nat) (l : Line) : State :=
  let ack := fun (s : State) => (s.offerAck a (.unpinAck l true)).takeResponse a i
  match s.busy l with
  | some e =>
    if (s.entry e).phase == .starting then s
    else if (s.entry e).rebuild then ack s
    else
      let s := s.claimLine none l
      if !s.running then s else if s.lineLost l then s.holdForRebuild a i l else ack s
  | none =>
    let s := s.claimLine none l
    if !s.running then s else if s.lineLost l then s.holdForRebuild a i l else ack (s.stripFailed l none)

/-- An UNPIN is routed: against the pin, or late; a late one with data goes the way of a WRITEBACK (R121, R122, R124). -/
def State.routeUnpin (s : State) (a : Agent) (i : Nat) (l : Line) (d : Option LineData) : State :=
  match s.pinnedBy l a, d with
  | some e, d => s.takeUnpin a i l d e
  | none, some d => s.routeWb a i l d true
  | none, none => s.lateUnpin a i l

/-! ### Taking the head -/

/-- A message is routed by its kind (R92). -/
def State.route (s : State) (a : Agent) (i : Nat) (m : Resp) : State :=
  match m with
  | .recallAck e u held => s.routeReply a i e u (.ack held)
  | .recallData e u d kept => s.routeReply a i e u (.data d kept)
  | .writeback l d => s.routeWb a i l d false
  | .drop l => s.routeDrop a i l
  | .unpin l d => s.routeUnpin a i l d

/-- The kinds the four steps of the handler take. -/
inductive RespKind where
  | reply | writeback | drop | unpin
  deriving DecidableEq, Repr

/-- The kind of a response. -/
def Resp.kind : Resp → RespKind
  | .recallAck _ _ _ => .reply
  | .recallData _ _ _ _ => .reply
  | .writeback _ _ => .writeback
  | .drop _ => .drop
  | .unpin _ _ => .unpin

/-- The handler takes the next message of a port if it is of this kind (R92). -/
def State.handle (s : State) (a : Agent) (k : RespKind) : State :=
  if !s.handles a then s
  else
    match s.nextResponse a with
    | none => s
    | some (i, m) => if m.kind == k then s.route a i m else s

/-- Heads that wait for a writeback buffer are served in the order they began waiting, one for each FREE buffer; each is
routed afresh (R94). One whose port also has an acknowledgement waiting is passed over (log 54). One that, routed afresh,
cannot be taken yet, gives up its turn and waits again as a head that comes to it new (log 38). -/
def State.serveWaiters (s : State) : State :=
  if s.freeBufferNo.isNone then s
  else
    match s.bufferWaiters.find? (fun a => s.handles a) with
    | none => s
    | some a =>
      let head := (s.port a).waitingHead
      let s := { s with bufferWaiters := s.bufferWaiters.erase a }
      match head with
      | none => s
      | some (i, m) =>
        let s := (s.markWaiting a i false).route a i m
        if s.running then s.push .serveBuffers else s

end Sys2Proof.Machine
end

