-- ==== Sys2Proof/Machine/Engine.lean ====
section
/-! DEFINITION. The internal work one event sets off, done before its step ends; the memory port's results, the sweep
engine, the internal-pool arbiter and the timers' expiries (spec 03 section 3.8, 05, 06, 08, 10). -/

namespace Sys2Proof.Machine

/-! ### The sweep engine's cursor (R163, R166) -/

/-- A criterion's count after a set: one lower, unless the set was in progress when it joined (R166). -/
def Criterion.counted (c : Criterion) : Criterion :=
  if c.skip then { c with skip := false } else { c with remaining := c.remaining - 1 }

/-- A criterion restarted with the given join set (R166). -/
def Criterion.restart (c : Criterion) (n : SetNo) : Criterion :=
  { c with joinSet := n, remaining := Config.sets, skip := false }

/-- What becomes of a criterion when a set is finished: counted on; at count 0 REGION leaves, a DRAIN leaves unless its
port is DRAINING with a holding count above 0, a STRIP leaves where the holding count is 0 and is restarted otherwise
(R166, R172). -/
def State.afterSet (s : State) (next : SetNo) (c : Criterion) : Option Criterion :=
  let c := c.counted
  if c.remaining != 0 then some c
  else
    match c.kind with
    | .region => none
    | .drain a => if (s.port a).state == .draining && (s.port a).holding != 0 then some (c.restart next) else none
    | .strip a => if (s.port a).holding == 0 then none else some (c.restart next)

/-- A completed STRIP is reported to its port, which goes OFFLINE where auto-offline is pending (R31, R173). -/
def State.reportStrip (s : State) (c : Criterion) : State :=
  match c.kind with
  | .strip a => if (s.port a).state == .failed && (s.port a).autoOffline then s.goOffline a else s
  | .drain _ => s
  | .region => s

/-- After the last set of a segment the engine enters GAP; a gap of 0 ends at once (R163). -/
def State.enterGap (s : State) (last : SetNo) : State :=
  if last.toNat % 64 == 63 && s.settings.sweepGap != 0 then
    { s with sweep := { s.sweep with state := .gap, gapLeft := some s.settings.sweepGap.toNat } }
  else s

/-- The cursor's set is finished: criteria are counted, completed ones leave and are reported, the cursor moves on
(R163, R166). -/
def State.finishSet (s : State) : State :=
  let last := s.sweep.cursor
  let next := nextSet last
  let old := s.sweep.criteria
  let kept := old.filterMap (s.afterSet next)
  let ended := old.filter (fun c => (s.afterSet next c).isNone)
  let s := { s with sweep := { s.sweep with cursor := next, way := 0, state := .processing, criteria := kept } }
  let s := ended.foldl State.reportStrip s
  if kept.isEmpty then s.sweepIdle else s.enterGap last

/-- The engine goes on from the next way of its set (R163, R164, R167). -/
def State.sweepNext (s : State) : State :=
  if s.sweep.way == 7 then s.finishSet
  else { s with sweep := { s.sweep with way := s.sweep.way + 1, state := .processing } }

/-! ### Work items (log 11) -/

/-- One item of internal work. Outside RUNNING there is none to do (R18, R47). -/
def State.runTask (s : State) (t : Task) : State :=
  if !s.running then s
  else
    match t with
    | .advance e => s.advance e
    | .start e => s.start e
    | .notHeld e a => s.applyReply e a .failed
    | .readFault e u => if (s.entry e).use == u then s.readBad e else s
    | .wake n => s.wakeSet n
    | .admission => s.admissionRound
    | .serveBuffers => s.serveWaiters
    | .outputPlace a => s.givePlace a

/-- Every DRAINING port tests its six conditions (R28). -/
def State.testDrained (s : State) : State := agents.foldl State.checkDrained s

/-- The work made due is done, oldest first, until none is left; after each item every DRAINING port tests its six
conditions, beside the tests within it (R28, log 11, log 12). -/
def settle : Nat → State → State
  | 0, s => s
  | n + 1, s =>
    match s.work with
    | [] => s
    | t :: rest => settle n (({ s with work := rest }.runTask t).testDrained)

/-- The end of an event: DRAINING ports test their six conditions after the event's own changes and after each item of its
internal work, which is done until none is left (R28, log 11, log 12). -/
def State.finish (s : State) : State := settle Config.workBound s.testDrained

/-! ### Memory results (R143 to R149) -/

/-- The operation a reply is taken for: its tag ISSUED, its use count equal, its kind right (R144). -/
def State.takenOp (s : State) (tag : Byte) (use : UseNo) (write : Bool) : Option (MemTagNo × TagOp) :=
  memTags.findSome? (fun t =>
    match (s.tag t).op with
    | some o =>
      if t.val == tag.toNat && (s.tag t).use == use && o.issued && o.claim.write == write then some (t, o) else none
    | none => none)

/-- A tag becomes FREE with its timer stopped (R144, R145). -/
def State.freeTag (s : State) (t : MemTagNo) : State := s.setTag t { s.tag t with op := none }

/-- The origin agent of an entry, if any. -/
def State.originAgent (s : State) (e : EntryNo) : Option Agent := (s.entry e).origin.map Prod.fst

/-- A memory fault report of an operation (R149). -/
def State.reportMemory (s : State) (k : FaultKind) (c : MemClaim) (way : Option WayNo) : State :=
  let r := { Report.blank k s.unitTime with line := some c.line, set := some (setOf c.line), way := way }
  match c.claimant with
  | .entry e => s.report { r with entry := some (entryByte e), agent := s.originAgent e }
  | .buffer b => s.report { r with agent := some (s.buffer b).agent }

/-- Operations HELD behind a buffer's line are issued (R143). -/
def State.issueHeld (l : Line) (s : State) (t : MemTagNo) : State :=
  match (s.tag t).op with
  | some o => if !o.issued && o.claim.line == l then s.issueTag t else s
  | none => s

/-- At a buffer's write fault on a busy line a HELD read is ended as a read fault, a HELD write is issued (R143). A read that
is claimed but has no tag yet stays in the claim queue, and is issued at its grant (R97, R142, log 61). -/
def State.faultHeld (l : Line) (s : State) (t : MemTagNo) : State :=
  match (s.tag t).op with
  | some o =>
    if !o.issued && o.claim.line == l then
      match o.claim.write, o.claim.claimant with
      | false, .entry e => (s.freeTag t).push (.readFault e (s.entry e).use)
      | _, _ => s.issueTag t
    else s
  | none => s

/-- A buffer's write ended well: ACKING, the held operation issued, the acknowledgement offered (R96, R143). -/
def State.bufferGood (s : State) (b : BufferNo) : State :=
  let x := s.buffer b
  let s := s.setBuffer b { x with state := .acking }
  (memTags.foldl (State.issueHeld x.line) s).offerBufferAck b

/-- A buffer's write fault: the line POISONED where it is idle, the buffer OWING where it is busy (R97, R143). -/
def State.bufferBad (s : State) (b : BufferNo) : State :=
  let x := s.buffer b
  match s.busy x.line with
  | some _ =>
    let s := s.setBuffer b { x with state := .owing }
    (memTags.foldl (State.faultHeld x.line) s).offerBufferAck b
  | none =>
    let s := (s.setBuffer b { x with state := .acking }).claimLine none x.line
    if s.running then (s.poisonLine x.line).offerBufferAck b else s

/-- A write's end is handed to its claimant. -/
def State.endWrite (s : State) (c : Claimant) (good : Bool) : State :=
  match c with
  | .entry e => if good then s.writeGood e else s.writeBad e
  | .buffer b => if good then s.bufferGood b else s.bufferBad b

/-- A read's end is handed to its claimant. -/
def State.endRead (s : State) (c : Claimant) (d : Option LineData) : State :=
  match c, d with
  | .entry e, some d => s.readGood e d
  | .entry e, none => s.readBad e
  | .buffer _, _ => s

/-- A write fault is reported with the way of the line's in-use record, and handed on (R148, R149). The way is found without
a claim, before the claim of R148 (log 75). -/
def State.writeFault (s : State) (c : MemClaim) : State :=
  (s.reportMemory .memoryWriteFault c (s.lookup c.line)).endWrite c.claimant false

/-- A MEM-DATA taken: GOOD, CORRECTED, or, for every other status code, UNCORRECTABLE (R146, R195). -/
def State.memDataTaken (s : State) (c : MemClaim) (status : Byte) (d : LineData) : State :=
  if status == 0 then s.endRead c.claimant (some d)
  else if status == 1 then s.countMemCorrected.endRead c.claimant (some d)
  else (s.reportMemory .memoryReadFault c none).endRead c.claimant none

/-- A MEM-DONE taken: GOOD, or, for every other status code, FAILED (R147, R148, R195). -/
def State.memDoneTaken (s : State) (c : MemClaim) (status : Byte) : State :=
  if status == 0 then s.endWrite c.claimant true else s.writeFault c

/-- After a tag has become FREE the next claims are granted (R142). -/
def State.regrant (s : State) : State := if s.running then s.grantTags else s

/-- A MEM-DATA arrives: late, or taken (R144, R146). -/
def State.memDataArrives (s : State) (tag : Byte) (use : UseNo) (status : Byte) (d : LineData) : State :=
  match (if s.running then s.takenOp tag use false else none) with
  | none => s.countLateMem
  | some (t, o) => ((s.freeTag t).memDataTaken o.claim status d).regrant

/-- A MEM-DONE arrives: late, or taken (R144, R147, R148). -/
def State.memDoneArrives (s : State) (tag : Byte) (use : UseNo) (status : Byte) : State :=
  match (if s.running then s.takenOp tag use true else none) with
  | none => s.countLateMem
  | some (t, o) => ((s.freeTag t).memDoneTaken o.claim status).regrant

/-- A memory timer expires: the tag becomes FREE, and its operation ends by timeout (R145, R146, R148). -/
def State.memTimeout (s : State) (t : MemTagNo) : State :=
  match (s.tag t).op with
  | none => s
  | some o =>
    if !s.running || !o.issued then s
    else
      let s := s.freeTag t
      (if o.claim.write then s.writeFault o.claim
       else (s.reportMemory .memoryTimeout o.claim none).endRead o.claim.claimant none).regrant

/-! ### Pin and recall timers (R39, R123) -/

/-- PIN-BROKEN is placed, or the entry waits in REPLYING with it (R123). -/
def State.offerPinBroken (s : State) (e : EntryNo) : State :=
  let m := OutMsg.pinBroken (s.entry e).line
  match (s.entry e).origin with
  | none => s
  | some (a, _) =>
    if !(s.port a).attached then s
    else if (s.port a).hasPlace then s.place a m
    else (s.wait a { producer := .pinBroken e, msg := m }).modEntry e (fun x => { x with breaking := true })

/-- The pin timer of a PINNED entry expires: the pin is cleared, the entry leaves PINNED, PIN-BROKEN (R123). -/
def State.pinExpires (s : State) (e : EntryNo) : State :=
  let x := s.entry e
  if !s.running || x.phase != .pinned || x.pinTimer.isNone then s
  else
    let s := s.claimEntry e none
    if !s.running then s
    else (((s.clearPin x.line true).endPin e).offerPinBroken e).push (.advance e)

/-- A recall timer of a port's recall list expires: the port fails, reported with the entry and its line (R39). The line is
the one the named entry has at the expiry, 0 where it is FREE by then (log 72). -/
def State.recallExpires (s : State) (a : Agent) (e : EntryNo) (u : UseNo) : State :=
  if s.takes a && (s.port a).recalls.any (fun r => r.entry == e && r.use == u) then
    s.failPort a (some { Report.blank .recallTimeout s.unitTime with
      agent := some a, entry := some (entryByte e), line := some (s.entry e).line })
  else s

/-! ### Links (R24) -/

/-- Link up sets the link item and changes nothing else (R24). -/
def State.linkRises (s : State) (a : Agent) : State := s.modPort a (fun p => { p with link := true })

/-- Link down clears the link item; an OFFLINE port's output queue is emptied, an ONLINE or DRAINING port fails; outside
RUNNING only the link changes (R18, R24). -/
def State.linkFalls (s : State) (a : Agent) : State :=
  let s := s.modPort a (fun p => { p with link := false })
  if !s.running then s
  else
    match (s.port a).state with
    | .offline => s.modPort a (fun p => { p with output := [] })
    | .online => s.failPort a (some { Report.blank .linkDown s.unitTime with agent := some a })
    | .draining => s.failPort a (some { Report.blank .linkDown s.unitTime with agent := some a })
    | .failed => s

/-! ### The sweep reads (R164) -/

/-- Recheck is set on an entry (R60). -/
def State.setRecheck (s : State) (e : EntryNo) : State := s.modEntry e (fun x => { x with recheck := true })

/-- The sweep read of an idle line's record: failed agents are removed, and a nonconforming record makes a SWEEP-RECALL
claim (R164 steps 4 and 5). -/
def State.sweepIdleLine (s : State) (l : Line) : State :=
  let s := s.stripFailed l none
  match s.judgeLine l with
  | [] => s.sweepNext
  | js => { s with sweep := { s.sweep with state := .claiming, claim := some { line := l, recalls := js } } }

/-- The sweep engine reads one way of the cursor's set (R164). -/
def State.sweepWay (s : State) : State :=
  if !s.running || s.sweep.state != .processing then s
  else
    let n := s.sweep.cursor
    let s := s.claimAll none n
    if !s.running then s
    else
      let s := s.claimRebuilds n
      match s.wayLine n s.sweep.way with
      | none => s.sweepNext
      | some l =>
        match s.busy l with
        | some e => (s.setRecheck e).sweepNext
        | none => if s.isLost n s.sweep.way then s.sweepNext else s.sweepIdleLine l

/-- The gap timer expires: back to PROCESSING at the cursor's set (R163). -/
def State.gapExpires (s : State) : State :=
  if s.running && s.sweep.state == .gap then
    { s with sweep := { s.sweep with state := .processing, gapLeft := none } }
  else s

/-! ### The scrubber (R183) -/

/-- The scrub interval expires: one set is read and verified, the cursor moves, the timer starts again (R183). -/
def State.scrubExpires (s : State) : State :=
  if !s.running || s.scrub.timer.isNone then s
  else
    let n := s.scrub.cursor
    let s := s.claimAll none n
    if !s.running then s
    else
      let s := s.claimRebuilds n
      let p := if n == BitVec.allOnes 11 then s.scrub.passes + 1 else s.scrub.passes
      { s with scrub := { cursor := nextSet n, passes := p, timer := none } }.refreshScrub

/-! ### The internal-pool arbiter (R66, R67) -/

/-- An internal entry is allocated in STARTING (R67). -/
def State.setInternal (s : State) (e : EntryNo) (k : Kind) (l : Line) (d : Option EntryNo) (w : Option WayNo) : State :=
  s.setEntry e
    { Entry.free ((s.entry e).use + 1) with kind := k, line := l, phase := .starting, dependent := d, victim := w }

/-- An internal entry is allocated, and its STARTING made due (R67). -/
def State.allocInternal (s : State) (e : EntryNo) (k : Kind) (l : Line) (d : Option EntryNo) (w : Option WayNo) : State :=
  ((s.setInternal e k l d w).push (.start e)).push .admission

/-- The RETIRE claim of the dependent that began waiting first (R66, R131). -/
def State.retireClaim (s : State) : Option (EntryNo × Line × WayNo) :=
  s.awaiting.findSome? (fun m =>
    match m.stand with
    | .claimWaiting l w => some (m.entry, l, w)
    | .noClaim => none
    | .retireActive _ => none)

/-- A REBUILD claim is granted, or withdrawn on a busy line (R67, R177). -/
def State.grantRebuild (s : State) (e : EntryNo) (c : RebuildClaim) (rest : List RebuildClaim) : State :=
  let s := { s with rebuildClaims := rest }
  if (s.busy c.line).isSome then s else s.allocInternal e .rebuild c.line none none

/-- A RETIRE claim is granted, or withdrawn on a busy line, where the dependent names afresh (R67, R131). -/
def State.grantRetire (s : State) (e d : EntryNo) (l : Line) (w : WayNo) : State :=
  if (s.busy l).isSome then s.searchWay d
  else (s.allocInternal e .retire l (some d) (some w)).setStand d (.retireActive e)

/-- The SWEEP-RECALL claim is granted, or withdrawn on a busy line with recheck set; the engine goes on, at a grant once the
entry has done its STARTING (R67, R167, R168). -/
def State.grantSweep (s : State) (e : EntryNo) (c : SweepClaim) : State :=
  let s := { s with sweep := { s.sweep with claim := none } }
  match s.busy c.line with
  | some b => (s.setRecheck b).sweepNext
  | none =>
    let s := (s.setInternal e .sweepRecall c.line none none).start e
    if s.running then (s.push .admission).sweepNext else s

/-- The arbiter takes the first claim while an internal entry is free: REBUILD, RETIRE, SWEEP-RECALL (R66, R67). -/
def State.grantInternal (s : State) : State :=
  if !s.running then s
  else
    match s.freeEntry internalPool with
    | none => s
    | some e =>
      match s.rebuildClaims with
      | c :: rest => s.grantRebuild e c rest
      | [] =>
        match s.retireClaim with
        | some (d, l, w) => s.grantRetire e d l w
        | none =>
          match s.sweep.claim with
          | some c => s.grantSweep e c
          | none => s

/-! ### The clear walk and time (R17, R20) -/

/-- The clear walk starts from set 0: every holding count is written 0 (R20). -/
def State.startWalk (s : State) : State :=
  { s with
    unitState := .initializing, walk := 0
    ports := s.ports.map (fun (p : Port) => { p with holding := 0 }) }

/-- The marks of one way after the clear walk: lost and due cleared, strike and disable kept (R16, R20, R179). -/
def State.walkMark (n : SetNo) (s : State) (w : WayNo) : State :=
  s.putMark n w { s.mark n w with lost := false, due := false }

/-- The clear walk writes one set; after set 2047 the unit is RUNNING and INIT-DONE goes pending (R20). -/
def State.walkSet (s : State) : State :=
  if s.unitState != .initializing then s
  else
    let n := s.walk
    let s := ways.foldl (State.walkMark n) (s.putSet n ASet.cleared)
    let s := { s with walk := nextSet n }
    if n == BitVec.allOnes 11 then ({ s with unitState := .running }.raise alertInitDone).refreshScrub else s

/-- One microsecond less on a timer that runs; the expiry itself is an event of its own (log 1, log 2). -/
def tickTimer : Option Nat → Option Nat
  | none => none
  | some n => some (n - 1)

/-- One microsecond passes: the unit time and every running timer; nothing while RESET is asserted (R17, log 2). -/
def State.tick (s : State) : State :=
  if s.resetPin then s
  else
    { s with
      unitTime := s.unitTime + 1
      ports := s.ports.map (fun (p : Port) => { p with recalls := p.recalls.map (fun r => { r with left := r.left - 1 }) })
      entries := s.entries.map (fun (x : Entry) => { x with pinTimer := tickTimer x.pinTimer })
      tags := s.tags.map (fun (t : MemTag) => { t with op := t.op.map (fun o => { o with left := o.left - 1 }) })
      sweep := { s.sweep with gapLeft := tickTimer s.sweep.gapLeft }
      scrub := { s.scrub with timer := tickTimer s.scrub.timer } }

end Sys2Proof.Machine
end

