-- ==== Sys2Proof/Machine/Reset.lean ====
section
/-! DEFINITION. RESET, the clear walk and the links: RESET_ASSERT, RESET_RELEASE, CLEAR_WALK_SET, LINK_UP, LINK_DOWN. -/

namespace Sys2Proof.Machine

/-- The outcome of an event that is not taken while RESET stays asserted (R17); its internal work is done before the step
ends (log 11). -/
def State.event (s : State) (f : State → State) : Host.Outcome State Fault Refusal :=
  .next (if s.resetPin then s else (f s).finish)

/-- The physical link of a port as it now is; the link item follows it from the release of RESET (R23, R24, log 9). -/
def State.recordLink (s : State) (a : Agent) (up : Bool) : State := { s with physLink := s.physLink.set a up }

/-- The link items follow the physical links (R23). -/
def State.followLinks (s : State) : State :=
  { s with ports := Vector.ofFn (fun a => { s.port a with link := s.physLink[a] }) }

/-- Every item of the part at its power-on value, RESET asserted; the physical links and the queue of commands are not
the part's (R17, R19, R23, R47, R93, R141, R150, R161, R183, R185, R186, R188, R192). -/
def State.powerOn (s : State) : State :=
  { State.reset with physLink := s.physLink, pending := s.pending }

/-- RESET_ASSERT: INITIALIZING with every item at its power-on value, held while the pin stays asserted (R17). -/
def execResetAssert (s : State) : Host.Outcome State Fault Refusal := .next s.powerOn

/-- RESET_RELEASE: the clear walk starts from set 0 and the link items follow the physical links (R17, R23); a pin that
is not asserted cannot be released (log 3). -/
def execResetRelease (s : State) : Host.Outcome State Fault Refusal :=
  .next (if s.resetPin then { s with resetPin := false }.followLinks.startWalk else s)

/-- CLEAR_WALK_SET: the next set is written free; after set 2047 the unit is RUNNING (R20). -/
def execClearWalkSet (s : State) : Host.Outcome State Fault Refusal := s.event State.walkSet

/-- LINK_UP: the link item is set, and nothing else changes (R24). -/
def execLinkUp (a : Agent) (s : State) : Host.Outcome State Fault Refusal :=
  (s.recordLink a true).event (fun s => s.linkRises a)

/-- LINK_DOWN: the link item is cleared; in RUNNING an OFFLINE port's output queue is emptied and an ONLINE or DRAINING
port fails (R24). -/
def execLinkDown (a : Agent) (s : State) : Host.Outcome State Fault Refusal :=
  (s.recordLink a false).event (fun s => s.linkFalls a)

end Sys2Proof.Machine
end

