-- ==== Sys2Proof/Machine/Arbiters.lean ====
section
/-! DEFINITION. The steps of the two arbiters and of the response handler: ADMISSION_EXAMINE, INTERNAL_POOL_GRANT and the
four RESPONSE_HANDLER rows. -/

namespace Sys2Proof.Machine

/-- The admission arbiter examines the head of a port's request queue; a head already answered with a refusal that waits
for its place is not examined again (R37, R62). A head that leaves lets the other waiting heads be looked at (R62). -/
def State.admissionExamine (s : State) (a : Agent) : State :=
  if (s.port a).head == .refusing then s else (s.examine a).1.push .admission

/-- ADMISSION_EXAMINE: the first outcome of R62 that applies to the head (R62 to R65). -/
def execAdmissionExamine (a : Agent) (s : State) : Host.Outcome State Fault Refusal :=
  s.event (fun s => s.admissionExamine a)

/-- INTERNAL_POOL_GRANT: the first claim is granted a free internal entry, or withdrawn where its line is busy
(R66, R67). -/
def execInternalPoolGrant (s : State) : Host.Outcome State Fault Refusal := s.event State.grantInternal

/-- RESPONSE_HANDLER_RECALL_REPLY: the next message of the port is a recall reply and is routed (R88, R105). -/
def execResponseHandlerRecallReply (a : Agent) (s : State) : Host.Outcome State Fault Refusal :=
  s.event (fun s => s.handle a .reply)

/-- RESPONSE_HANDLER_WRITEBACK: the next message of the port is a WRITEBACK and is routed (R94, R98, R100, R103, R104,
R125). -/
def execResponseHandlerWriteback (a : Agent) (s : State) : Host.Outcome State Fault Refusal :=
  s.event (fun s => s.handle a .writeback)

/-- RESPONSE_HANDLER_DROP: the next message of the port is a DROP and is routed (R100 to R102, R125). -/
def execResponseHandlerDrop (a : Agent) (s : State) : Host.Outcome State Fault Refusal :=
  s.event (fun s => s.handle a .drop)

/-- RESPONSE_HANDLER_UNPIN: the next message of the port is an UNPIN and is routed (R121, R122, R124). -/
def execResponseHandlerUnpin (a : Agent) (s : State) : Host.Outcome State Fault Refusal :=
  s.event (fun s => s.handle a .unpin)

end Sys2Proof.Machine
end

