-- ==== Sys2Proof/Machine/Maintenance.lean ====
section
/-! DEFINITION. The maintenance link: frames and execution, the register window and the maintenance commands (spec 12). -/

namespace Sys2Proof.Machine

/-! ### Frames and execution (R187, R188) -/

/-- A frame is answered BUSY while an earlier command executes, whose own frame has ended (R188). -/
def State.answerBusy (s : State) (x : Execution) : State :=
  { s with answer := some { status := .busy, data := [] }, executing := some { x with discard := true } }

/-- A complete command: BUSY while another executes; otherwise its effects are made and it executes until its answer is
ready (R188, log 4). -/
def State.command (s : State) (k : MaintCmd) (f : State → State × Answer) : State :=
  match s.executing with
  | some x => s.answerBusy x
  | none => { (f s).1.finish with
      answer := none, executing := some { command := k, answer := (f s).2, discard := false } }

/-- The outcome of a frame; none is taken while RESET stays asserted (R17). -/
def State.frame (s : State) (f : State → State) : Host.Outcome State Fault Refusal :=
  .next (if s.resetPin then s else f s)

/-- An answer of a status alone. -/
def Answer.only (t : Status) : Answer := { status := t, data := [] }

/-- The answer of a command that the unit state refuses: LOST in LOST, BUSY in INITIALIZING (R18, R188). -/
def State.notRunning (s : State) : Answer := .only (if s.unitState == .lost then .lost else .busy)

/-- A command whose arguments are out of range is answered BAD-ARG and changes nothing (R189); one that the unit state
refuses changes nothing either (R18, log 27). -/
def State.inRunning (s : State) (f : State → State × Answer) : State × Answer :=
  if s.running then f s else (s, s.notRunning)

/-- The command's execution ends: its status and data go to its frame, unless that frame has ended (R188). -/
def State.endExecution (s : State) : State :=
  match s.executing with
  | some x => { s with executing := none, answer := if x.discard then s.answer else some x.answer }
  | none => s

/-- COMMAND_EXECUTION_END (R188). -/
def execCommandExecutionEnd (s : State) : Host.Outcome State Fault Refusal := s.frame State.endExecution

/-- A frame ends early: nothing executes for it, and a command it had started runs on with its answer discarded
(R188). -/
def State.abortFrame (s : State) : State :=
  { s with answer := none, executing := s.executing.map (fun (x : Execution) => { x with discard := true }) }

/-- FRAME_ABORTED (R188). -/
def execFrameAborted (s : State) : Host.Outcome State Fault Refusal := s.frame State.abortFrame

/-- UNKNOWN_COMMAND: BAD-ARG at once, and nothing executes (R188); BUSY while an earlier command executes (log 29). -/
def execUnknownCommand (_byte : Byte) (s : State) : Host.Outcome State Fault Refusal :=
  s.frame (fun s =>
    match s.executing with
    | some x => s.answerBusy x
    | none => { s with answer := some (.only .badArg) })

/-- COMMAND_WHILE_BUSY: a complete command while another executes is answered BUSY at once and is not taken (R188). -/
def execCommandWhileBusy (s : State) : Host.Outcome State Fault Refusal :=
  s.frame (fun s =>
    match s.executing with
    | some x => s.answerBusy x
    | none => s)

/-! ### The register window (R192, R193) -/

/-- A 32-bit number as 4 bytes, most significant first (R189). -/
def bytes4 (v : BitVec 32) : List Byte := [v.extractLsb' 24 8, v.extractLsb' 16 8, v.extractLsb' 8 8, v.extractLsb' 0 8]

/-- One bit of a register word. -/
def bitAt (b : Bool) (i : Nat) : BitVec 32 := (BitVec.ofBool b).setWidth 32 <<< i

/-- A number in a field of a register word that starts at bit `i`. -/
def fieldAt (n i : Nat) : BitVec 32 := BitVec.ofNat 32 n <<< i

/-- The unit state's code (R192 word 0). -/
def UnitState.code : UnitState → Nat
  | .initializing => 0
  | .running => 1
  | .lost => 2

/-- The port state's code (R192 words 10 to 15). -/
def PortState.code : PortState → Nat
  | .offline => 0
  | .online => 1
  | .draining => 2
  | .failed => 3

/-- A port word (R192 words 10 to 15). -/
def Port.word (p : Port) : BitVec 32 :=
  fieldAt p.state.code 0 ||| bitAt p.link 2 ||| bitAt p.autoOffline 3 ||| bitAt p.drainRequested 4 |||
    fieldAt p.holding 16

/-- The configuration word (R192 word 3). -/
def Settings.config (t : Settings) : BitVec 32 := bitAt t.soleReader 0 ||| bitAt t.scrubEnable 1

/-- One bit for each agent, the bit of A0 at place `i`. -/
def agentBits (f : Agent → Bool) (i : Nat) : BitVec 32 :=
  agents.foldl (fun v a => v ||| bitAt (f a) (i + a.val)) 0

/-- The sweep status word (R192 word 24). -/
def State.sweepWord (s : State) : BitVec 32 :=
  bitAt (s.sweep.state != .idle) 0 ||| fieldAt s.sweep.cursor.toNat 1 ||| bitAt (s.hasCriterion .region) 12 |||
    agentBits (fun a => s.hasCriterion (.strip a)) 16 ||| agentBits (fun a => s.hasCriterion (.drain a)) 24

/-- The active entries of a pool (R192 word 25). -/
def State.activeIn (s : State) (pool : List EntryNo) : Nat :=
  (pool.filter (fun e => (s.entry e).phase != .free)).length

/-- The writeback buffers not FREE (R93). -/
def State.buffersInUse (s : State) : Nat := (bufferNos.filter (fun b => (s.buffer b).state != .free)).length

/-- The occupancy word (R192 word 25). -/
def State.occupancyWord (s : State) : BitVec 32 :=
  fieldAt (s.activeIn agentPool) 0 ||| fieldAt (s.activeIn internalPool) 8 ||| fieldAt s.buffersInUse 16 |||
    fieldAt s.pinCount 24

/-- A word of the register window, index 0 to 27 (R192). -/
def State.word (s : State) : Nat → BitVec 32
  | 0 => fieldAt s.unitState.code 0
  | 1 => s.alertPending.setWidth 32
  | 2 => s.settings.alertEnable.setWidth 32
  | 3 => s.settings.config
  | 4 => s.settings.recallTimeout.setWidth 32
  | 5 => s.settings.memoryTimeout.setWidth 32
  | 6 => s.settings.pinTimeout.setWidth 32
  | 7 => s.settings.scrubInterval.setWidth 32
  | 8 => s.settings.sweepGap.setWidth 32
  | 9 => s.settings.softThreshold.setWidth 32
  | 10 => (s.port 0).word
  | 11 => (s.port 1).word
  | 12 => (s.port 2).word
  | 13 => (s.port 3).word
  | 14 => (s.port 4).word
  | 15 => (s.port 5).word
  | 16 => fieldAt s.counters.soft 0
  | 17 => fieldAt s.counters.hard 0
  | 18 => fieldAt s.counters.uncaptured 0
  | 19 => fieldAt s.counters.lateDrop 0
  | 20 => fieldAt s.counters.stale 0
  | 21 => fieldAt s.counters.lateMem 0
  | 22 => fieldAt s.counters.memCorrected 0
  | 23 => s.scrub.passes
  | 24 => s.sweepWord
  | 25 => s.occupancyWord
  | 26 => fieldAt s.disabledWays 0
  | 27 => s.unitTime
  | _ => 0

/-- READ-WORD: the word as it stands, or BAD-ARG for an index past 27 (R189, R192). -/
def State.readWord (s : State) (index : Byte) : State × Answer :=
  if index.toNat ≤ 27 then (s, { status := .ok, data := bytes4 (s.word index.toNat) }) else (s, .only .badArg)

/-- READ_WORD (R192). -/
def execReadWord (index : Byte) (s : State) : Host.Outcome State Fault Refusal :=
  s.frame (fun s => s.command .readWord (fun s => s.readWord index))

/-- The state with its settings changed. -/
def State.set (s : State) (f : Settings → Settings) : State := { s with settings := f s.settings }

/-- The alert pending word written: each flag written as 1 is cleared (R186, R193). -/
def State.clearAlerts (s : State) (v : BitVec 32) : State :=
  { s with alertPending := s.alertPending &&& ~~~(v.setWidth 12) }

/-- The alert enable word written (R186, R193). -/
def State.setAlertEnable (s : State) (v : BitVec 32) : State := s.set (fun t => { t with alertEnable := v.setWidth 12 })

/-- The configuration word written: SOLE-READER-EXCLUSIVE and SCRUB-ENABLE, the scrubber started or stopped
(R77, R183, R193). -/
def State.setConfig (s : State) (sole scrub : Bool) : State :=
  (s.set (fun t => { t with soleReader := sole, scrubEnable := scrub })).refreshScrub

/-- A timer or setting word written: out of range is BAD-ARG, in range replaces the value (R193). -/
def State.setTimer (s : State) (v : BitVec 32) (low high : Nat) (f : Settings → BitVec 16 → Settings) : State × Answer :=
  if low ≤ v.toNat && v.toNat ≤ high then (s.set (fun t => f t (v.setWidth 16)), .only .ok) else (s, .only .badArg)

/-- The scrub interval word written: a new value also starts or stops the scrubber (R183, R193). -/
def State.setInterval (s : State) (v : BitVec 32) : State × Answer :=
  if v.toNat ≤ 65535 then ((s.set (fun t => { t with scrubInterval := v.setWidth 16 })).refreshScrub, .only .ok)
  else (s, .only .badArg)

/-- WRITE-WORD by its index (R193). -/
def State.writeWord (s : State) (index : Byte) (v : BitVec 32) : State × Answer :=
  match index.toNat with
  | 1 => (s.clearAlerts v, .only .ok)
  | 2 => (s.setAlertEnable v, .only .ok)
  | 3 => (s.setConfig (v.getLsbD 0) (v.getLsbD 1), .only .ok)
  | 4 => s.setTimer v 100 65535 (fun t x => { t with recallTimeout := x })
  | 5 => s.setTimer v 50 65535 (fun t x => { t with memoryTimeout := x })
  | 6 => s.setTimer v 10 65535 (fun t x => { t with pinTimeout := x })
  | 7 => s.setInterval v
  | 8 => s.setTimer v 0 1000 (fun t x => { t with sweepGap := x })
  | 9 => s.setTimer v 1 65535 (fun t x => { t with softThreshold := x })
  | n => (s, .only (if n ≤ 27 then .notAllowed else .badArg))

/-- WRITE_WORD (R193). -/
def execWriteWord (index : Byte) (value : BitVec 32) (s : State) : Host.Outcome State Fault Refusal :=
  s.frame (fun s => s.command .writeWord (fun s => s.writeWord index value))

/-- WRITE_ALERT_PENDING (R186, R193). -/
def execWriteAlertPending (value : BitVec 32) (s : State) : Host.Outcome State Fault Refusal :=
  s.frame (fun s => s.command .writeWord (fun s => (s.clearAlerts value, .only .ok)))

/-- WRITE_ALERT_ENABLE (R186, R193). -/
def execWriteAlertEnable (value : BitVec 32) (s : State) : Host.Outcome State Fault Refusal :=
  s.frame (fun s => s.command .writeWord (fun s => (s.setAlertEnable value, .only .ok)))

/-- SCRUB_ENABLE: the configuration word written with SOLE-READER-EXCLUSIVE as it stands (R183, R193). -/
def execScrubEnable (on : Bool) (s : State) : Host.Outcome State Fault Refusal :=
  s.frame (fun s => s.command .writeWord (fun s => (s.setConfig s.settings.soleReader on, .only .ok)))

/-- SOLE_READER_EXCLUSIVE: the configuration word written with SCRUB-ENABLE as it stands (R77, R193). -/
def execSoleReaderExclusive (on : Bool) (s : State) : Host.Outcome State Fault Refusal :=
  s.frame (fun s => s.command .writeWord (fun s => (s.setConfig on s.settings.scrubEnable, .only .ok)))

/-! ### INSPECT (R190, R196) -/

/-- The recency order in three bytes, three bits a way, front first from bit 23 (R196). -/
def orderBits (l : List WayNo) : BitVec 24 :=
  (l.zipIdx).foldl (fun v p => v ||| (BitVec.ofNat 24 p.1.val <<< (21 - 3 * p.2))) 0

/-- The marks byte (R196 byte 6). -/
def Marks.byte (m : Marks) : Byte :=
  (BitVec.ofBool m.strike).setWidth 8 ||| ((BitVec.ofBool m.disable).setWidth 8 <<< 1) |||
    ((BitVec.ofBool m.lost).setWidth 8 <<< 2) ||| ((BitVec.ofBool m.due).setWidth 8 <<< 3)

/-- The record state's code (R196 byte 1). -/
def RecState.code : RecState → Byte
  | .shared => 0
  | .exclusive => 1
  | .poisoned => 2

/-- The pin byte: bit 7 present, bits 0 to 2 agent (R196 byte 3). -/
def pinByte : Option Agent → Byte
  | some a => 0x80 ||| BitVec.ofNat 8 a.val
  | none => 0

/-- The busy byte: bit 7 line busy, bits 0 to 4 the active entry (R196 byte 7). -/
def busyByte : Option EntryNo → Byte
  | some e => 0x80 ||| BitVec.ofNat 8 e.val
  | none => 0

/-- The two tag bytes, most significant first (R196 bytes 4 and 5). -/
def tagBytes (t : RecTag) : List Byte := [(t.extractLsb' 8 7).setWidth 8, t.extractLsb' 0 8]

/-- The last bytes of every INSPECT reply: the recency order (R196 bytes 8 to 11). -/
def orderBytes (l : List WayNo) : List Byte :=
  [BitVec.ofNat 8 l.length, (orderBits l).extractLsb' 16 8, (orderBits l).extractLsb' 8 8, (orderBits l).extractLsb' 0 8]

/-- The fields bytes 1 to 5 and byte 7 of an in-use record report (R190, R196). -/
def State.inspectBytes (s : State) (n : SetNo) (w : WayNo) : List Byte :=
  let m := (s.mark n w).byte
  let tail := orderBytes (s.aset n).order.value
  if !s.enabled n w then [2, 0, 0, 0, 0, 0, m, 0] ++ tail
  else
    match s.wayTag n w with
    | none => [0, 0, 0, 0, 0, 0, m, 0] ++ tail
    | some t =>
      if s.isLost n w then [3, 0, 0, 0] ++ tagBytes t ++ [m, 0] ++ tail
      else
        let r := s.recAt n w
        [1, r.state.code, r.holders.setWidth 8, pinByte r.pin] ++ tagBytes t ++ [m, busyByte (s.busy (lineOf n t))] ++ tail

/-- INSPECT of one way: in one claim the way is verified and shown; a lost state part is answered FAULT and makes a
REBUILD claim, unless one waits or the line's entry is rebuilding it (R177, R190). -/
def State.inspectWay (s : State) (n : SetNo) (w : WayNo) : State × Answer :=
  let s := s.claimWay n w
  if !s.running then (s, .only .lost)
  else
    let data := s.inspectBytes n w
    match s.wayLine n w with
    | some l =>
      if s.isLost n w then
        (if s.rebuilding l then s else s.claimRebuild l n w, { status := .fault, data := data })
      else (s, { status := .ok, data := data })
    | none => (s, { status := .ok, data := data })

/-- INSPECT with its arguments (R18, R189, R190). -/
def State.inspect (s : State) (set : BitVec 16) (way : Byte) : State × Answer :=
  match setArg set, wayArg way with
  | some n, some w => s.inRunning (fun s => s.inspectWay n w)
  | _, _ => (s, .only .badArg)

/-- INSPECT (R190). -/
def execInspect (set : BitVec 16) (way : Byte) (s : State) : Host.Outcome State Fault Refusal :=
  s.frame (fun s => s.command .inspect (fun s => s.inspect set way))

/-! ### Regions (R152 to R155) -/

/-- The descriptor of a slot. -/
def State.region (s : State) (g : SlotNo) : Region := s.settings.regions[g]

/-- REGION-READ: the slot's descriptor (R155). -/
def State.regionRead (s : State) (slot : Byte) : State × Answer :=
  match slotArg slot with
  | some g => (s, { status := .ok, data := bytesOfRegion (s.region g) })
  | none => (s, .only .badArg)

/-- REGION_READ (R155). -/
def execRegionRead (slot : Byte) (s : State) : Host.Outcome State Fault Refusal :=
  s.frame (fun s => s.command .regionRead (fun s => s.regionRead slot))

/-- The slots, in ascending order. -/
def slots : List SlotNo := [0, 1, 2, 3, 4, 5, 6, 7, 8, 9, 10, 11, 12, 13, 14, 15]

/-- An enabled descriptor overlaps another enabled slot (R153). -/
def State.overlapsOther (s : State) (g : SlotNo) (r : Region) : Bool :=
  r.enabled && slots.any (fun h => h != g && (s.region h).enabled && r.overlaps (s.region h))

/-- Recheck is set on every active entry (R60, R154). -/
def State.recheckAll (s : State) : State :=
  { s with entries := s.entries.map (fun (x : Entry) => if x.phase != Phase.free then { x with recheck := true } else x) }

/-- A REGION-WRITE is taken: the descriptor is replaced, and in RUNNING recheck is set on every active entry and a REGION
criterion joins or is restarted (R18, R154). -/
def State.takeRegion (s : State) (g : SlotNo) (r : Region) : State :=
  let s := s.set (fun t => { t with regions := t.regions.set g r })
  if s.running then s.recheckAll.sweepJoin .region else s

/-- REGION-WRITE: argument checks, the overlap test, and the taking (R152, R153, R154). -/
def State.regionWrite (s : State) (slot : Byte) (descriptor : BitVec 64) : State × Answer :=
  let r := regionOfBytes descriptor
  match slotArg slot with
  | none => (s, .only .badArg)
  | some g =>
    if !r.sound then (s, .only .badArg)
    else if s.overlapsOther g r then (s, .only .overlap)
    else (s.takeRegion g r, .only .ok)

/-- REGION_WRITE (R154). -/
def execRegionWrite (slot : Byte) (descriptor : BitVec 64) (s : State) : Host.Outcome State Fault Refusal :=
  s.frame (fun s => s.command .regionWrite (fun s => s.regionWrite slot descriptor))

/-! ### PORT-RESET and CLEAR-UNIT (R21, R30) -/

/-- Auto-offline pending is set (R30). -/
def State.setAutoOffline (s : State) (a : Agent) : State := s.modPort a (fun p => { p with autoOffline := true })

/-- PORT-RESET in RUNNING, by the port's state (R30). -/
def State.resetPort (s : State) (a : Agent) : State :=
  match (s.port a).state with
  | .offline => s.modPort a (fun p => { p with output := [] })
  | .online => (s.failPort a none).setAutoOffline a
  | .draining => (s.failPort a none).setAutoOffline a
  | .failed => if s.hasCriterion (.strip a) then s.setAutoOffline a else s.goOffline a

/-- PORT-RESET with its argument (R18, R30). -/
def State.portReset (s : State) (agent : Byte) : State × Answer :=
  match agentArg agent with
  | some a => s.inRunning (fun s => (s.resetPort a, .only .ok))
  | none => (s, .only .badArg)

/-- PORT_RESET (R30). -/
def execPortReset (agent : Byte) (s : State) : Host.Outcome State Fault Refusal :=
  s.frame (fun s => s.command .portReset (fun s => s.portReset agent))

/-- CLEAR-UNIT: all work dropped, every port that is not OFFLINE closed, the clear walk started from set 0; settings,
counters, capture, alerts and strike and disable marks are kept (R21). -/
def State.clearUnit (s : State) : State :=
  let s := s.dropAllWork
  { s with
    ports := s.ports.map (fun (p : Port) => if p.state != PortState.offline then p.close else p)
    scrub := { s.scrub with timer := none } }.startWalk

/-- CLEAR_UNIT, taken in any unit state (R21). -/
def execClearUnit (s : State) : Host.Outcome State Fault Refusal :=
  s.frame (fun s => s.command .clearUnit (fun s => (s.clearUnit, .only .ok)))

/-! ### INJECT (R184, R191) -/

/-- The part of a stored word that INJECT names. -/
inductive InjectPart where
  | tag1 | tag2 | state | header
  deriving DecidableEq, Repr

/-- The part argument: 0 to 3 (R191). -/
def partArg (b : Byte) : Option InjectPart :=
  match b.toNat with
  | 0 => some .tag1
  | 1 => some .tag2
  | 2 => some .state
  | 3 => some .header
  | _ => none

/-- The bits of the part's stored word (R191). -/
def InjectPart.width : InjectPart → Nat
  | .tag1 => 22
  | .tag2 => 22
  | .state => 18
  | .header => 35

/-- The bits to flip: one or two, each within the word, two of them different (R191). -/
def injectBits (width : Nat) (count bitA bitB : Byte) : Option (List Nat) :=
  match count.toNat with
  | 1 => if bitA.toNat < width then some [bitA.toNat] else none
  | 2 => if bitA.toNat < width && bitB.toNat < width && bitA != bitB then some [bitA.toNat, bitB.toNat] else none
  | _ => none

/-- Bits of a stored word flipped, its code left as it is (R184). -/
def Coded.flip {α : Type} {w : Nat} (c : Coded α w) (bits : List Nat) : Coded α w :=
  { c with flips := bits.foldl (fun f i => f ^^^ (1#w <<< i)) c.flips }

/-- The flips of an INJECT in storage (R184, R191). -/
def State.flipPart (s : State) (n : SetNo) (w : WayNo) (p : InjectPart) (bits : List Nat) : State :=
  match p with
  | .tag1 => s.modWay n w (fun y => { y with tag1 := y.tag1.flip bits })
  | .tag2 => s.modWay n w (fun y => { y with tag2 := y.tag2.flip bits })
  | .state => s.modWay n w (fun y => { y with state := y.state.flip bits })
  | .header => s.putSet n { s.aset n with order := (s.aset n).order.flip bits }

/-- INJECT taken: the bits are flipped and SCRUB-ENABLE is cleared, which stops the scrubber (R184). -/
def State.injectTaken (s : State) (n : SetNo) (w : WayNo) (p : InjectPart) (bits : List Nat) : State :=
  (s.flipPart n w p bits).setConfig s.settings.soleReader false

/-- INJECT with its arguments (R18, R191). -/
def State.inject (s : State) (set : BitVec 16) (way part count bitA bitB : Byte) : State × Answer :=
  match setArg set, wayArg way, partArg part with
  | some n, some w, some p =>
    match injectBits p.width count bitA bitB with
    | some bits => s.inRunning (fun s => (s.injectTaken n w p bits, .only .ok))
    | none => (s, .only .badArg)
  | _, _, _ => (s, .only .badArg)

/-- INJECT (R184, R191). -/
def execInject (set : BitVec 16) (way part count bitA bitB : Byte) (s : State) : Host.Outcome State Fault Refusal :=
  s.frame (fun s => s.command .inject (fun s => s.inject set way part count bitA bitB))

/-! ### CLEAR-POISON, WAY-ENABLE, CAPTURE-READ (R16, R185, R191) -/

/-- CLEAR-POISON of an idle line, by the record its claim has found (R191). -/
def State.clearIdlePoison (s : State) (l : Line) : State × Answer :=
  match s.lineRec l with
  | none => (s, .only .notAllowed)
  | some (w, r) =>
    if s.isLost (setOf l) w then (s.claimRebuild l (setOf l) w, .only .fault)
    else if r.state == .poisoned then (s.freeRec l w r, .only .ok)
    else (s, .only .notAllowed)

/-- The one claim of CLEAR-POISON: it verifies the set as every claim does, and then finds the line busy or idle; a set that
it loses is answered LOST (R2, R174, R189, R191). -/
def State.clearLine (s : State) (l : Line) : State × Answer :=
  let s := s.claimLine none l
  if !s.running then (s, .only .lost)
  else
    match s.busy l with
    | some _ => (s, .only .busy)
    | none => s.clearIdlePoison l

/-- CLEAR-POISON with its argument (R18, R49, R191). -/
def State.clearPoison (s : State) (line : BitVec 32) : State × Answer :=
  match lineArg line with
  | none => (s, .only .badArg)
  | some l => s.inRunning (fun s => s.clearLine l)

/-- CLEAR_POISON (R191). -/
def execClearPoison (line : BitVec 32) (s : State) : Host.Outcome State Fault Refusal :=
  s.frame (fun s => s.command .clearPoison (fun s => s.clearPoison line))

/-- Strike and disable marks of a free way cleared; the set's awaiting list is woken where one was set (R16, R130). -/
def State.clearMarks (s : State) (n : SetNo) (w : WayNo) : State :=
  let m := s.mark n w
  if m.strike || m.disable then (s.putMark n w { m with strike := false, disable := false }).push (.wake n) else s

/-- WAY-ENABLE of one way, in one claim: NOT-ALLOWED where it is in use or held as a reserved way (R16). -/
def State.enableWay (s : State) (n : SetNo) (w : WayNo) : State × Answer :=
  let s := s.claimTags none n
  if !s.running then (s, .only .lost)
  else if (s.wayTag n w).isSome || s.isReserved n w then (s, .only .notAllowed)
  else (s.clearMarks n w, .only .ok)

/-- WAY-ENABLE with its arguments (R16, R18, R189). -/
def State.wayEnable (s : State) (set : BitVec 16) (way : Byte) : State × Answer :=
  match setArg set, wayArg way with
  | some n, some w => s.inRunning (fun s => s.enableWay n w)
  | _, _ => (s, .only .badArg)

/-- WAY_ENABLE (R16). -/
def execWayEnable (set : BitVec 16) (way : Byte) (s : State) : Host.Outcome State Fault Refusal :=
  s.frame (fun s => s.command .wayEnable (fun s => s.wayEnable set way))

/-- The fault kind's code (R196). -/
def FaultKind.code : FaultKind → Byte
  | .hardCheck => 1
  | .tagLost => 2
  | .recallTimeout => 3
  | .linkDown => 4
  | .memoryReadFault => 5
  | .memoryWriteFault => 6
  | .memoryTimeout => 7
  | .protocol => 8

/-- The sub-reason's code (R196). -/
def SubReason.code : SubReason → Byte
  | .labelInUse => 1
  | .staleReply => 2
  | .unexpected => 3
  | .held => 4
  | .queueFull => 5

/-- A present bit of the CAPTURE-READ reply. -/
def presentBit (b : Bool) (i : Nat) : Byte := (BitVec.ofBool b).setWidth 8 <<< i

/-- The sub-reason byte; 0 where there is none. -/
def subByte : Option SubReason → Byte
  | some q => q.code
  | none => 0

/-- The line in 4 bytes; 0 where absent. -/
def lineBytes : Option Line → List Byte
  | some l => bytes4 (l.setWidth 32)
  | none => [0, 0, 0, 0]

/-- The set in 2 bytes; 0 where absent. -/
def setBytes : Option SetNo → List Byte
  | some n => [(n.extractLsb' 8 3).setWidth 8, n.extractLsb' 0 8]
  | none => [0, 0]

/-- A small number in a byte; 0 where absent. -/
def numByte {k : Nat} : Option (Fin k) → Byte
  | some x => BitVec.ofNat 8 x.val
  | none => 0

/-- The first 16 bytes of the CAPTURE-READ reply (R196); bit 2 of byte 2 is set where the report names a set (log 26). -/
def Report.bytes (r : Report) : List Byte :=
  [0x80 ||| r.kind.code, subByte r.sub,
   presentBit r.agent.isSome 0 ||| presentBit r.line.isSome 1 ||| presentBit r.set.isSome 2 ||| presentBit r.entry.isSome 3,
   numByte r.agent] ++ lineBytes r.line ++ setBytes r.set ++ [numByte r.way, r.entry.getD 0] ++ bytes4 r.time

/-- The 17 bytes of the CAPTURE-READ reply; all 0 but the count while the record is not valid (R196, log 59). -/
def State.captureBytes (s : State) : List Byte :=
  (match s.capture with
   | some r => r.bytes
   | none => List.replicate 16 0) ++ [BitVec.ofNat 8 s.counters.uncaptured]

/-- CAPTURE-READ: the record and the uncaptured count are returned and cleared (R185). -/
def State.captureRead (s : State) : State × Answer :=
  ({ s with capture := none, counters := { s.counters with uncaptured := 0 } }, { status := .ok, data := s.captureBytes })

/-- CAPTURE_READ, always OK (R185, R189). -/
def execCaptureRead (s : State) : Host.Outcome State Fault Refusal :=
  s.frame (fun s => s.command .captureRead State.captureRead)

end Sys2Proof.Machine
end

