-- ==== Sys2Proof/Machine/Messages.lean ====
section
/-! DEFINITION. Messages on the agent ports: the six requests, the five responses, JOIN, LEAVE, a message of no known kind,
and the sending of an output queue's head. -/

namespace Sys2Proof.Machine

/-- READ_SHARED: arrival checks, then the request queue (R25, R32). -/
def execReadShared (a : Agent) (label : Label) (line : LineField) (first : Beat) (s : State) :
    Host.Outcome State Fault Refusal :=
  s.event (fun s => s.arriveRequest
    { agent := a, kind := .readShared, label := label, line := lineOfField line, first := first, data := 0, mask := 0 })

/-- READ_OWN: arrival checks, then the request queue (R25, R32). -/
def execReadOwn (a : Agent) (label : Label) (line : LineField) (first : Beat) (s : State) :
    Host.Outcome State Fault Refusal :=
  s.event (fun s => s.arriveRequest
    { agent := a, kind := .readOwn, label := label, line := lineOfField line, first := first, data := 0, mask := 0 })

/-- UPGRADE, which carries no first beat: arrival checks, then the request queue (R25, R32). -/
def execUpgrade (a : Agent) (label : Label) (line : LineField) (s : State) : Host.Outcome State Fault Refusal :=
  s.event (fun s => s.arriveRequest
    { agent := a, kind := .upgrade, label := label, line := lineOfField line, first := 0, data := 0, mask := 0 })

/-- UNCACHED_READ: arrival checks, then the request queue (R25, R32). -/
def execUncachedRead (a : Agent) (label : Label) (line : LineField) (first : Beat) (s : State) :
    Host.Outcome State Fault Refusal :=
  s.event (fun s => s.arriveRequest
    { agent := a, kind := .uncachedRead, label := label, line := lineOfField line, first := first, data := 0, mask := 0 })

/-- UNCACHED_WRITE, with its data and byte mask: arrival checks, then the request queue (R25, R32). -/
def execUncachedWrite (a : Agent) (label : Label) (line : LineField) (data : LineData) (mask : ByteMask) (s : State) :
    Host.Outcome State Fault Refusal :=
  s.event (fun s => s.arriveRequest
    { agent := a, kind := .uncachedWrite, label := label, line := lineOfField line, first := 0, data := data, mask := mask })

/-- LOCKED_READ: arrival checks, then the request queue (R25, R32). -/
def execLockedRead (a : Agent) (label : Label) (line : LineField) (first : Beat) (s : State) :
    Host.Outcome State Fault Refusal :=
  s.event (fun s => s.arriveRequest
    { agent := a, kind := .lockedRead, label := label, line := lineOfField line, first := first, data := 0, mask := 0 })

/-- RECALL_ACK: recall list check, then the response queue (R25, R34, R38). -/
def execRecallAck (a : Agent) (entry : Byte) (use : UseNo) (held : Bool) (s : State) :
    Host.Outcome State Fault Refusal :=
  s.event (fun s => s.arriveResponse a (.recallAck entry use held))

/-- RECALL_DATA: recall list check, then the response queue (R25, R34, R38). -/
def execRecallData (a : Agent) (entry : Byte) (use : UseNo) (data : LineData) (kept : Bool) (s : State) :
    Host.Outcome State Fault Refusal :=
  s.event (fun s => s.arriveResponse a (.recallData entry use data kept))

/-- WRITEBACK: the response queue (R25, R34). -/
def execWriteback (a : Agent) (line : LineField) (data : LineData) (s : State) : Host.Outcome State Fault Refusal :=
  s.event (fun s => s.arriveResponse a (.writeback (lineOfField line) data))

/-- DROP: the response queue (R25, R34). -/
def execDrop (a : Agent) (line : LineField) (s : State) : Host.Outcome State Fault Refusal :=
  s.event (fun s => s.arriveResponse a (.drop (lineOfField line)))

/-- UNPIN, with or without data: the response queue (R25, R34). -/
def execUnpin (a : Agent) (line : LineField) (data : Option LineData) (s : State) : Host.Outcome State Fault Refusal :=
  s.event (fun s => s.arriveResponse a (.unpin (lineOfField line) data))

/-- JOIN (R26). -/
def execJoin (a : Agent) (s : State) : Host.Outcome State Fault Refusal := s.event (fun s => s.joinPort a)

/-- LEAVE (R27). -/
def execLeave (a : Agent) (s : State) : Host.Outcome State Fault Refusal := s.event (fun s => s.leavePort a)

/-- UNKNOWN_MESSAGE: discarded; in RUNNING, at an ONLINE or DRAINING port, reported as PROTOCOL UNEXPECTED with the agent
(R25). The kind byte itself goes nowhere. -/
def execUnknownMessage (a : Agent) (_kind : Byte) (s : State) : Host.Outcome State Fault Refusal :=
  s.event (fun s => if s.takes a then s.reportProtocol .unexpected a none none else s)

/-- OUTPUT_MESSAGE_SENT: the head of the output queue has left on the link, and the free place goes to the producer that
has waited longest (R36, R37). -/
def execOutputMessageSent (a : Agent) (s : State) : Host.Outcome State Fault Refusal :=
  s.event (fun s => s.messageSent a)

end Sys2Proof.Machine
end

