-- ==== Sys2Proof/Machine/Timers.lean ====
section
/-! DEFINITION. Timer expiries, memory replies and the sweep read: RECALL_TIMER_EXPIRY, MEMORY_TIMER_EXPIRY,
PIN_TIMER_EXPIRY, SCRUB_INTERVAL_EXPIRY, SWEEP_GAP_EXPIRY, SWEEP_READ, MEM_DATA, MEM_DONE, UNKNOWN_MEMORY_REPLY. -/

namespace Sys2Proof.Machine

/-- RECALL_TIMER_EXPIRY: the port fails with cause RECALL-TIMEOUT (R29, R39). -/
def execRecallTimerExpiry (a : Agent) (entry : EntryNo) (use : UseNo) (s : State) : Host.Outcome State Fault Refusal :=
  s.event (fun s => s.recallExpires a entry use)

/-- MEM_DATA: taken for its read, or late (R144, R146). -/
def execMemData (tag : Byte) (use : UseNo) (status : Byte) (data : LineData) (s : State) :
    Host.Outcome State Fault Refusal :=
  s.event (fun s => s.memDataArrives tag use status data)

/-- MEM_DONE: taken for its write, or late (R144, R147, R148). -/
def execMemDone (tag : Byte) (use : UseNo) (status : Byte) (s : State) : Host.Outcome State Fault Refusal :=
  s.event (fun s => s.memDoneArrives tag use status)

/-- MEMORY_TIMER_EXPIRY: the tag becomes FREE and its operation ends by timeout (R145). -/
def execMemoryTimerExpiry (tag : MemTagNo) (s : State) : Host.Outcome State Fault Refusal :=
  s.event (fun s => s.memTimeout tag)

/-- PIN_TIMER_EXPIRY: the pin is broken and its agent keeps the line (R123). -/
def execPinTimerExpiry (entry : EntryNo) (s : State) : Host.Outcome State Fault Refusal :=
  s.event (fun s => s.pinExpires entry)

/-- SCRUB_INTERVAL_EXPIRY: one set is read and verified (R183). -/
def execScrubIntervalExpiry (s : State) : Host.Outcome State Fault Refusal := s.event State.scrubExpires

/-- SWEEP_READ: one way of the cursor's set is read and judged (R164). -/
def execSweepRead (s : State) : Host.Outcome State Fault Refusal := s.event State.sweepWay

/-- SWEEP_GAP_EXPIRY: the engine returns to PROCESSING at the cursor's set (R163). -/
def execSweepGapExpiry (s : State) : Host.Outcome State Fault Refusal := s.event State.gapExpires

/-- UNKNOWN_MEMORY_REPLY: late, discarded and counted (R144, R195). -/
def execUnknownMemoryReply (_kind : Byte) (s : State) : Host.Outcome State Fault Refusal := s.event State.countLateMem

end Sys2Proof.Machine
end

