-- ==== Sys2Proof/Machine/Dispatch.lean ====
section
/-! DEFINITION. The effect of every command: one arm per constructor of Instr. -/

namespace Sys2Proof.Machine

/-- The effect of a command on everything but the queue. -/
def exec (i : Instr) (s : State) : Host.Outcome State Fault Refusal :=
  match i with
  | .resetAssert => Sys2Proof.Machine.execResetAssert s
  | .resetRelease => Sys2Proof.Machine.execResetRelease s
  | .clearWalkSet => Sys2Proof.Machine.execClearWalkSet s
  | .linkUp a => Sys2Proof.Machine.execLinkUp a s
  | .linkDown a => Sys2Proof.Machine.execLinkDown a s
  | .readShared a label line first => Sys2Proof.Machine.execReadShared a label line first s
  | .readOwn a label line first => Sys2Proof.Machine.execReadOwn a label line first s
  | .upgrade a label line => Sys2Proof.Machine.execUpgrade a label line s
  | .uncachedRead a label line first => Sys2Proof.Machine.execUncachedRead a label line first s
  | .uncachedWrite a label line data mask => Sys2Proof.Machine.execUncachedWrite a label line data mask s
  | .lockedRead a label line first => Sys2Proof.Machine.execLockedRead a label line first s
  | .recallAck a entry use held => Sys2Proof.Machine.execRecallAck a entry use held s
  | .recallData a entry use data kept => Sys2Proof.Machine.execRecallData a entry use data kept s
  | .writeback a line data => Sys2Proof.Machine.execWriteback a line data s
  | .drop a line => Sys2Proof.Machine.execDrop a line s
  | .unpin a line data => Sys2Proof.Machine.execUnpin a line data s
  | .join a => Sys2Proof.Machine.execJoin a s
  | .leave a => Sys2Proof.Machine.execLeave a s
  | .unknownMessage a kind => Sys2Proof.Machine.execUnknownMessage a kind s
  | .outputMessageSent a => Sys2Proof.Machine.execOutputMessageSent a s
  | .admissionExamine a => Sys2Proof.Machine.execAdmissionExamine a s
  | .internalPoolGrant => Sys2Proof.Machine.execInternalPoolGrant s
  | .responseHandlerRecallReply a => Sys2Proof.Machine.execResponseHandlerRecallReply a s
  | .responseHandlerWriteback a => Sys2Proof.Machine.execResponseHandlerWriteback a s
  | .responseHandlerDrop a => Sys2Proof.Machine.execResponseHandlerDrop a s
  | .responseHandlerUnpin a => Sys2Proof.Machine.execResponseHandlerUnpin a s
  | .recallTimerExpiry a entry use => Sys2Proof.Machine.execRecallTimerExpiry a entry use s
  | .memData tag use status data => Sys2Proof.Machine.execMemData tag use status data s
  | .memDone tag use status => Sys2Proof.Machine.execMemDone tag use status s
  | .memoryTimerExpiry tag => Sys2Proof.Machine.execMemoryTimerExpiry tag s
  | .pinTimerExpiry entry => Sys2Proof.Machine.execPinTimerExpiry entry s
  | .scrubIntervalExpiry => Sys2Proof.Machine.execScrubIntervalExpiry s
  | .sweepRead => Sys2Proof.Machine.execSweepRead s
  | .sweepGapExpiry => Sys2Proof.Machine.execSweepGapExpiry s
  | .frameAborted => Sys2Proof.Machine.execFrameAborted s
  | .unknownCommand byte => Sys2Proof.Machine.execUnknownCommand byte s
  | .commandWhileBusy => Sys2Proof.Machine.execCommandWhileBusy s
  | .readWord index => Sys2Proof.Machine.execReadWord index s
  | .writeWord index value => Sys2Proof.Machine.execWriteWord index value s
  | .writeAlertPending value => Sys2Proof.Machine.execWriteAlertPending value s
  | .writeAlertEnable value => Sys2Proof.Machine.execWriteAlertEnable value s
  | .scrubEnable on => Sys2Proof.Machine.execScrubEnable on s
  | .soleReaderExclusive on => Sys2Proof.Machine.execSoleReaderExclusive on s
  | .inspect set way => Sys2Proof.Machine.execInspect set way s
  | .regionRead slot => Sys2Proof.Machine.execRegionRead slot s
  | .regionWrite slot descriptor => Sys2Proof.Machine.execRegionWrite slot descriptor s
  | .portReset agent => Sys2Proof.Machine.execPortReset agent s
  | .clearUnit => Sys2Proof.Machine.execClearUnit s
  | .inject set way part count bitA bitB => Sys2Proof.Machine.execInject set way part count bitA bitB s
  | .clearPoison line => Sys2Proof.Machine.execClearPoison line s
  | .wayEnable set way => Sys2Proof.Machine.execWayEnable set way s
  | .captureRead => Sys2Proof.Machine.execCaptureRead s
  | .unknownMemoryReply kind => Sys2Proof.Machine.execUnknownMemoryReply kind s
  | .commandExecutionEnd => Sys2Proof.Machine.execCommandExecutionEnd s

end Sys2Proof.Machine
end

