-- ==== Sys2Proof/Machine/Formats.lean ====
section
/-! DEFINITION. The layouts on the links: agent messages, memory messages and maintenance frames, as bytes (R187, R189,
R194, R195). They say what bytes an output is sent as and which command arriving bytes are. -/

namespace Sys2Proof.Machine

/-! ### Bytes -/

/-- The 16 bytes of a beat, in address order (R45). -/
def beatBytes (b : BeatData) : List Byte := (List.range 16).map (fun i => b.extractLsb' (8 * i) 8)

/-- The 64 bytes of a line, in beat order 0 to 3 (R45, R194). -/
def dataBytes (d : LineData) : List Byte := (List.range 64).map (fun i => byteOf d i)

/-- A number from its bytes, the first byte least significant. -/
def leNumber : List Byte → Nat
  | [] => 0
  | b :: l => b.toNat + 256 * leNumber l

/-- A number from its bytes, the first byte most significant (R189). -/
def beNumber (l : List Byte) : Nat := l.foldl (fun n b => 256 * n + b.toNat) 0

/-- The byte at an index; 0 past the end. -/
def byteAt (l : List Byte) (i : Nat) : Byte := l.getD i 0

/-! ### Outbound agent messages (R194) -/

/-- The reason codes of REFUSE, 1 to 12 (R194). -/
def Reason.code : Reason → Byte
  | .range => 1
  | .protect => 2
  | .notCacheable => 3
  | .poisoned => 4
  | .noWay => 5
  | .pinLimit => 6
  | .labelInUse => 7
  | .duplicateLine => 8
  | .leaving => 9
  | .held => 10
  | .memoryFault => 11
  | .queueFull => 12

/-- The recall kind codes (R194 byte 1). -/
def RecallKind.code : RecallKind → Byte
  | .invalidate => 0
  | .return => 1
  | .share => 2

/-- The four line bytes of a message header, most significant first, bits 26 to 31 zero (R194, log 39). -/
def headerLine (l : Line) : List Byte := bytes4 (l.setWidth 32)

/-- The 8-byte header of an agent message: kind, byte 1, byte 2, entry, line (R194). -/
def header (kind one two entry : Byte) (l : Line) : List Byte := [kind, one, two, entry] ++ headerLine l

/-- Byte 1: label, first beat or recall kind, flag, data present (R194). -/
def byteOne (label : Label) (code : Byte) (flag data : Bool) : Byte :=
  BitVec.ofNat 8 label.val ||| (code <<< 3) ||| ((BitVec.ofBool flag).setWidth 8 <<< 5) |||
    ((BitVec.ofBool data).setWidth 8 <<< 6)

/-- The bytes of the beats in the order they are sent (R45). -/
def beatsBytes (l : List BeatData) : List Byte := l.flatMap beatBytes

/-- An outbound message as the link sends it (R42, R43, R194). Fields a kind does not carry are 0. -/
def OutMsg.bytes : OutMsg → List Byte
  | .grantShared l line beats => header 0x41 (byteOne l 0 false true) 0 0 line ++ beatsBytes beats
  | .grantExclusive l line beats pinned => header 0x42 (byteOne l 0 pinned true) 0 0 line ++ beatsBytes beats
  | .grantUpgrade l line => header 0x43 (byteOne l 0 false false) 0 0 line
  | .uncachedData l line beats => header 0x44 (byteOne l 0 false true) 0 0 line ++ beatsBytes beats
  | .uncachedDone l line => header 0x45 (byteOne l 0 false false) 0 0 line
  | .refuse l line r => header 0x46 (byteOne l 0 false false) r.code 0 line
  | .recall line k e u => header 0x51 (byteOne 0 k.code false false) u (entryByte e) line
  | .wbAck line => header 0x52 0 0 0 line
  | .unpinAck line late => header 0x53 0 (if late then 1 else 0) 0 line
  | .pinBroken line => header 0x54 0 0 0 line
  | .joinAck => header 0x61 0 0 0 0
  | .leaveDone => header 0x62 0 0 0 0
  | .portDown => header 0x63 0 0 0 0

/-! ### Memory messages (R194) -/

/-- A message to the memory controller as the link sends it; its status byte is 0 (R140, R194, log 60). -/
def MemMsg.bytes : MemMsg → List Byte
  | .read t u l => header 0x01 (BitVec.ofNat 8 t.val) u 0 l
  | .write t u l d => header 0x02 (BitVec.ofNat 8 t.val) u 0 l ++ dataBytes d

/-- The 64 data bytes that follow an 8-byte header, as a line (R194). -/
def messageData (m : List Byte) : LineData := BitVec.ofNat 512 (leNumber ((m.drop 8).take 64))

/-- The command that a reply of the memory controller is (R194, R195); none while it has not arrived whole. -/
def memoryCommand (m : List Byte) : Option Instr :=
  if m.length < 8 then none
  else if byteAt m 0 == 0x81 then
    if m.length < 72 then none else some (.memData (byteAt m 1) (byteAt m 2) (byteAt m 3) (messageData m))
  else if byteAt m 0 == 0x82 then some (.memDone (byteAt m 1) (byteAt m 2) (byteAt m 3))
  else some (.unknownMemoryReply (byteAt m 0))

/-! ### Inbound agent messages (R194, R195) -/

/-- The label of byte 1. -/
def labelOf (b : Byte) : Label := ⟨b.toNat % 8, Nat.mod_lt _ (by decide)⟩

/-- The first beat of byte 1. -/
def firstOf (b : Byte) : Beat := ⟨b.toNat / 8 % 4, Nat.mod_lt _ (by decide)⟩

/-- The line field of a header, most significant byte first (log 39). -/
def lineFieldOf (m : List Byte) : LineField := BitVec.ofNat 32 (beNumber ((m.drop 4).take 4))

/-- The byte mask that follows the data of an UNCACHED-WRITE: bit i of the mask names byte i (R194, log 39). -/
def maskOf (m : List Byte) : ByteMask := BitVec.ofNat 64 (leNumber ((m.drop 72).take 8))

/-- The bytes of an inbound message of a kind, with byte 1's data present bit (R194). -/
def inboundLength (kind : Byte) (data : Bool) : Nat :=
  if kind == 0x05 then 80
  else if kind == 0x12 || kind == 0x13 then 72
  else if kind == 0x15 && data then 72
  else 8

/-- The command that a whole inbound message of a known kind is (R40, R41, R194). -/
def knownCommand (a : Agent) (m : List Byte) : Instr :=
  let one := byteAt m 1
  let line := lineFieldOf m
  let label := labelOf one
  let first := firstOf one
  let flag := one.getLsbD 5
  match (byteAt m 0).toNat with
  | 0x01 => .readShared a label line first
  | 0x02 => .readOwn a label line first
  | 0x03 => .upgrade a label line
  | 0x04 => .uncachedRead a label line first
  | 0x05 => .uncachedWrite a label line (messageData m) (maskOf m)
  | 0x06 => .lockedRead a label line first
  | 0x11 => .recallAck a (byteAt m 3) (byteAt m 2) flag
  | 0x12 => .recallData a (byteAt m 3) (byteAt m 2) (messageData m) flag
  | 0x13 => .writeback a line (messageData m)
  | 0x14 => .drop a line
  | 0x15 => .unpin a line (if one.getLsbD 6 then some (messageData m) else none)
  | 0x21 => .join a
  | 0x22 => .leave a
  | _ => .unknownMessage a (byteAt m 0)

/-- The command that the bytes of a message from an agent are; none while the message has not arrived whole, since a
message is never taken in part (section 2.2). -/
def agentCommand (a : Agent) (m : List Byte) : Option Instr :=
  if m.length < inboundLength (byteAt m 0) ((byteAt m 1).getLsbD 6) then none else some (knownCommand a m)

/-! ### Maintenance frames (R187 to R189) -/

/-- The status byte: 0x80 plus the code (R188). -/
def Status.byte : Status → Byte
  | .ok => 0x81
  | .busy => 0x82
  | .badArg => 0x83
  | .overlap => 0x84
  | .notAllowed => 0x85
  | .fault => 0x86
  | .lost => 0x87

/-- The bytes that an answer gives to the poll bytes: the status, then the data (R187). -/
def Answer.bytes (x : Answer) : List Byte := x.status.byte :: x.data

/-- The answer to poll byte `i` once execution has ended: status, data, then 0x00; 0x00 while there is no answer
(R187). -/
def State.pollByte (s : State) (i : Nat) : Byte :=
  match s.answer with
  | some x => byteAt x.bytes i
  | none => 0

/-- The argument bytes of a command byte; none for a byte that is no command (R189). -/
def argCount (command : Byte) : Option Nat :=
  match command.toNat with
  | 0x01 => some 1
  | 0x02 => some 5
  | 0x10 => some 3
  | 0x20 => some 1
  | 0x21 => some 9
  | 0x30 => some 1
  | 0x31 => some 0
  | 0x40 => some 7
  | 0x41 => some 4
  | 0x42 => some 3
  | 0x50 => some 0
  | _ => none

/-- The command of a frame whose arguments are complete (R189): `m` is the command byte and its arguments. -/
def completeCommand (m : List Byte) : Instr :=
  let set := BitVec.ofNat 16 (beNumber ((m.drop 1).take 2))
  match (byteAt m 0).toNat with
  | 0x01 => .readWord (byteAt m 1)
  | 0x02 => .writeWord (byteAt m 1) (BitVec.ofNat 32 (beNumber ((m.drop 2).take 4)))
  | 0x10 => .inspect set (byteAt m 3)
  | 0x20 => .regionRead (byteAt m 1)
  | 0x21 => .regionWrite (byteAt m 1) (BitVec.ofNat 64 (beNumber ((m.drop 2).take 8)))
  | 0x30 => .portReset (byteAt m 1)
  | 0x31 => .clearUnit
  | 0x40 => .inject set (byteAt m 3) (byteAt m 4) (byteAt m 5) (byteAt m 6) (byteAt m 7)
  | 0x41 => .clearPoison (BitVec.ofNat 32 (beNumber ((m.drop 1).take 4)))
  | 0x42 => .wayEnable set (byteAt m 3)
  | 0x50 => .captureRead
  | _ => .unknownCommand (byteAt m 0)

/-- The command that the bytes sent between the fall and the rise of CS are: a frame that ends before its arguments are
complete is aborted, an unknown command byte is its own command, poll bytes are ignored (R187, R188). -/
def frameCommand (m : List Byte) : Instr :=
  match m with
  | [] => .frameAborted
  | b :: args =>
    match argCount b with
    | none => .unknownCommand b
    | some k => if args.length < k then .frameAborted else completeCommand m

end Sys2Proof.Machine
end

