-- ==== Sys2Proof/Safety.lean ====
section
/-! DEFINITION. The laws the LD-640 keeps, as predicates over State, and the conditions on a state that statements about
single commands name. -/

namespace Sys2Proof.Machine

/-! ### Conditions on a state -/

/-- Between events: RESET released, no internal work left over, no port with a departure to finish (log 11, log 12). -/
def State.atRest (s : State) : Bool := !s.resetPin && s.work.isEmpty && agents.all (fun a => !(s.port a).drained)

/-- No request head waits at the admission arbiter (R62). -/
def State.noHeadWaits (s : State) : Bool := agents.all (fun a => !(s.port a).headWaits)

/-- The four stored words of a way are good (R174). -/
def Way.sound (y : Way) : Bool := y.tag1.flips == 0 && y.tag2.flips == 0 && y.state.flips == 0

/-- Every stored word of a set is good (R174). -/
def State.soundSet (s : State) (n : SetNo) : Bool :=
  ways.all (fun w => (s.aset n).ways[w].sound) && (s.aset n).order.flips == 0

/-- Exactly one bit of a stored word is flipped: a correctable fault (R174). -/
def oneFlip {k : Nat} (f : BitVec k) : Prop := ∃ i, i < k ∧ f = 1#k <<< i

/-- Two or more bits of a stored word are flipped: an uncorrectable fault (R174). -/
def manyFlips {k : Nat} (f : BitVec k) : Prop := ∃ i j, i < j ∧ f.getLsbD i = true ∧ f.getLsbD j = true

/-- The tag copies and the header of a set are good, whatever its state parts (R174, R177). -/
def State.tagsSound (s : State) (n : SetNo) : Bool :=
  ways.all (fun w => (s.aset n).ways[w].tag1.flips == 0 && (s.aset n).ways[w].tag2.flips == 0) &&
    (s.aset n).order.flips == 0

/-- No way of a set has its lost mark set (R177). -/
def State.noLost (s : State) (n : SetNo) : Bool := ways.all (fun w => !s.isLost n w)

/-- No port is FAILED, so no claim removes a holder on its own (R171). -/
def State.noneFailed (s : State) : Bool := agents.all (fun a => (s.port a).state != .failed)

/-- The record array answers claims on a set without any edit: sound words, no lost mark, no FAILED port (R171, R174,
R177). -/
def State.calm (s : State) (n : SetNo) : Bool := s.soundSet n && s.noLost n && s.noneFailed

/-- The scrubber's interval expires while it runs, with the unit at rest (R183). -/
def State.scrubReady (s : State) : Bool :=
  s.atRest && s.running && s.scrub.timer.isSome && s.settings.scrubEnable && s.settings.scrubInterval != 0

/-- No member of the set's awaiting list (R129). -/
def State.noneAwaiting (s : State) (n : SetNo) : Bool := (s.members n).isEmpty

/-- The handler takes the next message of this port: it handles the port, and this is the
message at the head (R92). -/
def State.takesHead (s : State) (a : Agent) (m : Resp) : Bool :=
  s.handles a && s.nextResponse a == some (0, m)

/-- The head of a request queue is examined and, on an idle line, goes into the lowest-numbered free entry (R62, R65): at
rest, the port ONLINE, the head not answered yet and not held by the same-line guard, no other head waiting. -/
def State.admits (s : State) (a : Agent) (q : Request) (rest : List Request) (e : EntryNo) : Bool :=
  s.atRest && s.running && (s.port a).state == .online && (s.port a).requests == q :: rest && q.agent == a &&
    (s.port a).head != .refusing && !(s.port a).guards q.line && agents.all (fun b => b == a || !(s.port b).headWaits) &&
    s.busy q.line == none && s.freeEntry agentPool == some e && decide (s.placesHeld < Config.agentPlaces)

/-- The lowest-numbered FREE memory tag, with no claim before the next one and no write of a buffer to hold it (R142). -/
def State.tagReady (s : State) (l : Line) (i : MemTagNo) : Bool :=
  s.claimQueue.isEmpty && memTags.find? (fun j => (s.tag j).op == none) == some i && (s.owingBuffer l).isNone &&
    bufferNos.all (fun b => !((s.buffer b).state == .writing && (s.buffer b).line == l))

/-- A memory tag as its grant leaves it, with the claim issued: its use number one higher, its timer started (R142, R145). -/
def State.grantedTag (s : State) (i : MemTagNo) (c : MemClaim) : MemTag :=
  { use := (s.tag i).use + 1, op := some { claim := c, issued := true, left := s.settings.memoryTimeout.toNat } }

/-- A port with a recall placed: the message at the tail of its output queue, the record with its timer at the end of its
recall list (R38). -/
def State.recalled (s : State) (c : Agent) (l : Line) (k : RecallKind) (e : EntryNo) (u : UseNo) : Port :=
  { s.port c with
    output := (s.port c).output ++ [.recall l k e u]
    recalls := (s.port c).recalls ++ [{ entry := e, use := u, left := s.settings.recallTimeout.toNat }] }

/-- A port takes recalls and replies at once: attached, no producer waiting, a place free (R36, R37). -/
def Port.ready (p : Port) : Bool := p.attached && p.hasPlace

/-- A maintenance frame is taken: RESET released, at rest, no command in execution (R188). -/
def State.frameReady (s : State) : Bool := s.atRest && s.executing.isNone

/-- The state in which a command has made its effects and executes with the answer it will give (R188). -/
def State.answered (s : State) (k : MaintCmd) (x : Answer) : State :=
  { s with answer := none, executing := some { command := k, answer := x, discard := false } }

/-- A request with no data: first beat and byte mask only where its kind has them (R40). -/
def plainRequest (a : Agent) (k : ReqKind) (label : Label) (line : Line) (first : Beat) : Request :=
  { agent := a, kind := k, label := label, line := line, first := first, data := 0, mask := 0 }

/-- An UNCACHED-WRITE with its data and mask (R40). -/
def writeRequest (a : Agent) (label : Label) (line : Line) (data : LineData) (mask : ByteMask) : Request :=
  { agent := a, kind := .uncachedWrite, label := label, line := line, first := 0, data := data, mask := mask }

/-! ### The law of the record array (R2, R3, R4, R5, R7, R13, R16) -/

/-- A state part says what R4 and R5 allow: SHARED has holders and no pin, EXCLUSIVE has one holder and no pin but its
own, POISONED has neither. -/
def Rec.lawful (r : Rec) : Bool :=
  match r.state with
  | .shared => r.holders != 0 && r.pin == none
  | .exclusive => agents.any (fun a => r.holders == AgentSet.only a && (r.pin == none || r.pin == some a))
  | .poisoned => r.holders == 0 && r.pin == none

/-- A way's two tag copies were written alike (R3), and an in-use way has a lawful state part (R4). -/
def Way.lawful (y : Way) : Prop := y.tag1.value = y.tag2.value ∧ (y.tag1.value.isSome → y.state.value.lawful)

/-- A set: lawful ways, no line in two of them (R2, R7), and the recency order listing the in-use ways once each (R13). -/
def ASet.lawful (x : ASet) : Prop :=
  (∀ w : WayNo, (x.ways[w]).lawful) ∧
  (∀ (v w : WayNo) (t : RecTag), x.ways[v].tag1.value = some t → x.ways[w].tag1.value = some t → v = w) ∧
  x.order.value.Nodup ∧
  (∀ w : WayNo, w ∈ x.order.value ↔ (x.ways[w].tag1.value).isSome)

/-- The record array: lawful sets, disabled ways free (R16), both stores in canonical form. -/
def State.arrayLawful (s : State) : Prop :=
  (∀ n : SetNo, (s.aset n).lawful) ∧
  (∀ (n : SetNo) (w : WayNo), (s.mark n w).disable → (s.aset n).ways[w].tag1.value = none) ∧
  storeWf ASet.cleared s.sets ∧ storeWf Marks.clear s.marks

/-- The record copies that entries keep are lawful (R46, R178). -/
def State.copiesLawful (s : State) : Prop :=
  ∀ (e : EntryNo) (r : Rec), (s.entry e).copy = some r → r.lawful

/-- The law of the records: the array and the copies kept of it. -/
def State.recordsLawful (s : State) : Prop := s.arrayLawful ∧ s.copiesLawful

/-! ### The law of the transaction table (R46, R49, R54, R61, R69, R120) -/

/-- A deferred list holds requests for the entry's line, at most one of each agent, and none while the entry is FREE
(R46, R49, R54). -/
def Entry.deferredLawful (x : Entry) : Prop :=
  (x.deferred.map Request.agent).Nodup ∧ (∀ q ∈ x.deferred, q.line = x.line) ∧ (x.phase = .free → x.deferred = [])

/-- An entry: a lawful deferred list, and while it is PINNED nothing that waits to be written (R54, R120). -/
def Entry.lawful (x : Entry) : Prop := x.deferredLawful ∧ (x.phase = .pinned → x.saves = false)

/-- The transaction table: at most one active entry for a line (R49), lawful entries (R54, R120), at most 4 pins (R69) and at
most 20 places of the agent allowance (R61). -/
def State.tableLawful (s : State) : Prop :=
  (∀ e f : EntryNo, (s.entry e).phase ≠ .free → (s.entry f).phase ≠ .free → (s.entry e).line = (s.entry f).line → e = f) ∧
  (∀ e : EntryNo, (s.entry e).lawful) ∧ s.pinCount ≤ Config.pinLimit ∧ s.placesHeld ≤ Config.agentPlaces

/-! ### The law of the queues and the counters (R32 to R36, R102, R105, R144, R146, R175, R177, R185) -/

/-- The queues of an agent's port hold what they can, the requests are the agent's own, and no label is outstanding twice
(R32, R33, R34, R36). -/
def Port.bounded (p : Port) (a : Agent) : Prop :=
  (p.requests.length ≤ Config.requestQueueSize ∧ ∀ q ∈ p.requests, q.agent = a) ∧ p.responses.length ≤ Config.responseQueueSize ∧
  p.output.length ≤ Config.outputQueueSize ∧ p.labels.Nodup

/-- Every port's queues are bounded. -/
def State.portsBounded (s : State) : Prop := ∀ a : Agent, (s.port a).bounded a

/-- The counters stay in range, and no fault goes uncaptured while the capture record is free (R185). -/
def State.countersBounded (s : State) : Prop :=
  s.counters.soft ≤ Config.counterMax ∧ s.counters.hard ≤ Config.smallCounterMax ∧
  s.counters.uncaptured ≤ Config.smallCounterMax ∧ s.counters.lateDrop ≤ Config.counterMax ∧
  s.counters.stale ≤ Config.counterMax ∧ s.counters.lateMem ≤ Config.counterMax ∧
  s.counters.memCorrected ≤ Config.counterMax ∧ (s.capture = none → s.counters.uncaptured = 0)

/-! ### The law of the settings (R152, R153, R193) -/

/-- The timers and settings are in the ranges of R193. -/
def Settings.timersInRange (t : Settings) : Prop :=
  100 ≤ t.recallTimeout.toNat ∧ 50 ≤ t.memoryTimeout.toNat ∧ 10 ≤ t.pinTimeout.toNat ∧ t.sweepGap.toNat ≤ 1000 ∧
  1 ≤ t.softThreshold.toNat

/-- Every slot holds a sound descriptor (R152), and no two enabled slots overlap (R153). -/
def Settings.regionsSound (t : Settings) : Prop :=
  (∀ g : SlotNo, t.regions[g].sound) ∧
  (∀ g h : SlotNo, g ≠ h → t.regions[g].enabled → t.regions[h].enabled → t.regions[g].overlaps t.regions[h] = false)

/-- The law of the settings. -/
def Settings.lawful (t : Settings) : Prop := t.timersInRange ∧ t.regionsSound

end Sys2Proof.Machine

namespace Sys2Proof

open Machine

/-- The six request commands, each with the request it brings (R40, R195). -/
def Instr.request : Instr → Option Request
  | .readShared a label line first => some (plainRequest a .readShared label (line.setWidth 26) first)
  | .readOwn a label line first => some (plainRequest a .readOwn label (line.setWidth 26) first)
  | .upgrade a label line => some (plainRequest a .upgrade label (line.setWidth 26) 0)
  | .uncachedRead a label line first => some (plainRequest a .uncachedRead label (line.setWidth 26) first)
  | .uncachedWrite a label line data mask => some (writeRequest a label (line.setWidth 26) data mask)
  | .lockedRead a label line first => some (plainRequest a .lockedRead label (line.setWidth 26) first)
  | _ => none

/-- The five response commands, each with its agent and the message it brings (R41, R195). -/
def Instr.response : Instr → Option (Agent × Resp)
  | .recallAck a entry use held => some (a, .recallAck entry use held)
  | .recallData a entry use data kept => some (a, .recallData entry use data kept)
  | .writeback a line data => some (a, .writeback (line.setWidth 26) data)
  | .drop a line => some (a, .drop (line.setWidth 26))
  | .unpin a line data => some (a, .unpin (line.setWidth 26) data)
  | _ => none

/-- The maintenance commands, each with the name it executes under (R189). -/
def Instr.maintenance : Instr → Option MaintCmd
  | .readWord _ => some .readWord
  | .writeWord _ _ => some .writeWord
  | .writeAlertPending _ => some .writeWord
  | .writeAlertEnable _ => some .writeWord
  | .scrubEnable _ => some .writeWord
  | .soleReaderExclusive _ => some .writeWord
  | .inspect _ _ => some .inspect
  | .regionRead _ => some .regionRead
  | .regionWrite _ _ => some .regionWrite
  | .portReset _ => some .portReset
  | .clearUnit => some .clearUnit
  | .inject _ _ _ _ _ _ => some .inject
  | .clearPoison _ => some .clearPoison
  | .wayEnable _ _ => some .wayEnable
  | .captureRead => some .captureRead
  | _ => none

end Sys2Proof
end

