-- ==== Sys2Proof/Certificates/Slice0/Obligations.lean ====
section
/-! DEFINITION. The statements for the provers. -/

open Sys2Proof Sys2Proof.Machine

/-! ### The queue and the step -/

/-- A step takes the command at the front of the queue and is its effect on the state with the rest of the queue. -/
def Obligations.StepRunsTheFrontCommand : Prop :=
  ∀ (c : Instr) (rest : List Instr) (s : State), s.pending = c :: rest → step s = exec c { s with pending := rest }

/-- On an empty queue a step is one microsecond of time: the unit time rises, every running timer falls by one and stays
at 0, and nothing else changes; while RESET is asserted nothing changes at all. The model's choice, log 2. -/
def Obligations.EmptyQueueIsOneMicrosecond : Prop :=
  ∀ s : State, s.pending = [] →
    (s.resetPin = true → step s = .next s) ∧
    (s.resetPin = false → ∃ t, step s = .next t ∧
      t.unitTime = s.unitTime + 1 ∧
      (∀ a, t.port a = { s.port a with recalls := (s.port a).recalls.map (fun r => { r with left := r.left - 1 }) }) ∧
      (∀ e, t.entry e = { s.entry e with pinTimer := (s.entry e).pinTimer.map (fun n => n - 1) }) ∧
      (∀ i, t.tag i = { s.tag i with op := (s.tag i).op.map (fun o => { o with left := o.left - 1 }) }) ∧
      t.sweep = { s.sweep with gapLeft := s.sweep.gapLeft.map (fun n => n - 1) } ∧
      t.scrub = { s.scrub with timer := s.scrub.timer.map (fun n => n - 1) } ∧
      t = { s with unitTime := t.unitTime, ports := t.ports, entries := t.entries, tags := t.tags, sweep := t.sweep
                   scrub := t.scrub })

/-- Every command answers a next state in every state: the part has no command that stops it. That a row whose event
cannot arise in a state changes nothing there, instead of stopping, is the model's choice, log 3. -/
def Obligations.NoCommandStops : Prop := ∀ (c : Instr) (s : State), ∃ t, exec c s = .next t

/-! ### RESET and the clear walk -/

/-- RESET_ASSERT, in any state, gives every item its power-on value: unit, marks, ports, every field of every entry
(those that have no meaning while it is FREE as log 8 has them), awaiting lists, writeback buffers and their waiting
heads, memory tags, regions, settings, alerts, sweep, scrubber, capture record, counters, maintenance link; no internal
work is left over. The physical links, which are not the part's (log 9), and the queue of commands stay. -/
def Obligations.ResetAssertGivesPowerOnValues : Prop :=
  ∀ s : State, ∃ t, exec .resetAssert s = .next t ∧
    t.resetPin = true ∧ t.unitState = .initializing ∧ t.walk = 0 ∧ t.unitTime = 0 ∧
    (∀ n w, t.mark n w = { strike := false, disable := false, lost := false, due := false }) ∧
    (∀ a, t.port a = { link := false, state := .offline, requests := [], head := .fresh, responses := [], output := [],
                       waiters := [], labels := [], recalls := [], holding := 0, autoOffline := false
                       drainRequested := false }) ∧
    (∀ e, (t.entry e).phase = .free ∧ (t.entry e).use = 0 ∧ (t.entry e).origin = none ∧
      (∀ a : Agent, (t.entry e).pending[a] = none) ∧ (t.entry e).data = .none ∧ (t.entry e).mask = 0 ∧
      (t.entry e).deferred = [] ∧
      (t.entry e).dependent = none ∧ (t.entry e).reserved = none ∧ (t.entry e).victim = none ∧ (t.entry e).copy = none ∧
      (∀ a : Agent, (t.entry e).notes[a] = .neither) ∧ (t.entry e).recheck = false ∧ (t.entry e).orphaned = false ∧
      (t.entry e).pinTimer = none ∧ (t.entry e).reply = .none ∧ t.entry e = Entry.free 0) ∧
    t.pinCount = 0 ∧ t.bufferWaiters = [] ∧ t.work = [] ∧ t.position = 5 ∧ t.rebuildClaims = [] ∧ t.awaiting = [] ∧
    (∀ b, (t.buffer b).state = .free) ∧ (∀ i, t.tag i = { use := 0, op := none }) ∧ t.claimQueue = [] ∧
    (∀ g, t.region g = { enabled := false, base := 0, size := 1, readSet := 0, writeSet := 0, cacheable := false }) ∧
    t.settings.soleReader = false ∧ t.settings.scrubEnable = true ∧ t.settings.recallTimeout = 2000 ∧
    t.settings.memoryTimeout = 1000 ∧ t.settings.pinTimeout = 5000 ∧ t.settings.scrubInterval = 100 ∧
    t.settings.sweepGap = 20 ∧ t.settings.softThreshold = 1000 ∧ t.settings.alertEnable = 0 ∧ t.alertPending = 0 ∧
    t.sweep = { state := .idle, cursor := 0, way := 0, criteria := [], gapLeft := none, claim := none } ∧
    t.scrub = { cursor := 0, passes := 0, timer := none } ∧ t.capture = none ∧
    t.counters = { soft := 0, hard := 0, uncaptured := 0, lateDrop := 0, stale := 0, lateMem := 0, memCorrected := 0 } ∧
    t.executing = none ∧ t.answer = none ∧ t.physLink = s.physLink ∧ t.pending = s.pending

/-- RESET_RELEASE starts the clear walk at set 0 with every holding count 0, and the link items follow the physical
links; nothing else changes. CLEAR_WALK_SET writes the next set free, keeps its strike and disable marks, clears its
lost and due marks, and leaves every other set as it was. With set 2047 the unit becomes RUNNING, INIT-DONE goes
pending, and the scrubber runs where SCRUB-ENABLE is set and its interval is not 0, and is stopped otherwise. -/
def Obligations.ClearWalkRunsAfterReset : Prop :=
  (∀ s : State, s.resetPin = true → ∃ t, exec .resetRelease s = .next t ∧
      t.unitState = .initializing ∧ t.walk = 0 ∧
      (∀ a, t.port a = { s.port a with link := s.physLink[a], holding := 0 }) ∧
      t = { s with resetPin := false, unitState := .initializing, walk := 0, ports := t.ports }) ∧
  (∀ s : State, s.atRest → s.unitState = .initializing → s.arrayLawful → ∃ t, exec .clearWalkSet s = .next t ∧
      (∀ w : WayNo, (t.aset s.walk).ways[w].tag1 = ⟨none, 0⟩ ∧ (t.aset s.walk).ways[w].tag2 = ⟨none, 0⟩ ∧
        (t.aset s.walk).ways[w].state.flips = 0 ∧ (t.aset s.walk).ways[w].state.value.holders = 0 ∧
        (t.aset s.walk).ways[w].state.value.pin = none) ∧
      (t.aset s.walk).order = ⟨[], 0⟩ ∧
      (∀ n, n ≠ s.walk → t.aset n = s.aset n) ∧
      (∀ w, t.mark s.walk w = { s.mark s.walk w with lost := false, due := false }) ∧
      (∀ n w, n ≠ s.walk → t.mark n w = s.mark n w) ∧
      t.walk = s.walk + 1 ∧
      (s.walk = 2047 → t.unitState = .running ∧ t.alertPending = s.alertPending ||| 1 ∧
        t.scrub = { s.scrub with
          timer := if s.settings.scrubEnable = true ∧ s.settings.scrubInterval ≠ 0
            then some (s.scrub.timer.getD s.settings.scrubInterval.toNat) else none }) ∧
      (s.walk ≠ 2047 → t.unitState = .initializing ∧ t.alertPending = s.alertPending ∧ t.scrub = s.scrub) ∧
      t = { s with sets := t.sets, marks := t.marks, walk := t.walk, unitState := t.unitState
                   alertPending := t.alertPending, scrub := t.scrub })

/-! ### Links -/

/-- LINK_UP sets the link item and changes nothing else. LINK_DOWN clears it; at an OFFLINE port of a RUNNING unit the
output queue is emptied too, and at a FAILED port, or outside RUNNING, nothing else changes: that an OFFLINE port outside
RUNNING keeps its output queue is the model's reading, log 40, and the record of the physical link its choice, log 9. -/
def Obligations.LinkChanges : Prop :=
  ∀ (a : Agent) (s : State), s.atRest →
    exec (.linkUp a) s =
      .next ({ s with physLink := s.physLink.set a true }.setPort a { s.port a with link := true }) ∧
    ((s.running = false ∨ (s.port a).state = .failed) → exec (.linkDown a) s =
      .next ({ s with physLink := s.physLink.set a false }.setPort a { s.port a with link := false })) ∧
    (s.running = true → (s.port a).state = .offline → exec (.linkDown a) s =
      .next ({ s with physLink := s.physLink.set a false }.setPort a { s.port a with link := false, output := [] }))

/-- LINK_DOWN at an ONLINE or DRAINING port, and RECALL_TIMER_EXPIRY of a record of its recall list, end with the port
FAILED and AGENT-FAILED pending, whatever else is in flight; the settings, the unit time and the queue stay. With no
entry active, LINK_DOWN empties the port's queues, labels and recall list, joins the STRIP criterion in place of a
DRAIN, sets AGENT-FAILED pending and captures LINK-DOWN; the holding count and everything else stay. The record of the
physical link is the model's, log 9. -/
def Obligations.AgentFailureFailsThePort : Prop :=
  (∀ (c : Instr) (a : Agent) (s : State), s.resetPin = false → s.running = true →
      ((s.port a).state = .online ∨ (s.port a).state = .draining) →
      (c = .linkDown a ∨ ∃ e u, c = .recallTimerExpiry a e u ∧ ∃ r ∈ (s.port a).recalls, r.entry = e ∧ r.use = u) →
      ∃ t, exec c s = .next t ∧ (t.port a).state = .failed ∧ t.alertPending.getLsbD (2 + a.val) = true ∧
        t.settings = s.settings ∧ t.unitTime = s.unitTime ∧ t.executing = s.executing ∧ t.answer = s.answer ∧
        t.pending = s.pending) ∧
  (∀ (a : Agent) (s : State), s.atRest → s.running = true →
      ((s.port a).state = .online ∨ (s.port a).state = .draining) → (∀ e, (s.entry e).phase = .free) →
      (s.port a).waiters = [] → s.bufferWaiters = [] → s.capture = none →
      ∃ t, exec (.linkDown a) s = .next t ∧
        t.port a = { s.port a with
          link := false, state := .failed, requests := [], head := .fresh, responses := [], output := [], labels := []
          recalls := [], drainRequested := false } ∧
        (∀ b, b ≠ a → t.port b = s.port b) ∧
        t.sweep = { s.sweep with criteria := s.sweep.criteria.filter (fun c => c.kind != CritKind.drain a) }.join (.strip a) ∧
        t.alertPending = s.alertPending ||| (1#12 <<< (2 + a.val)) ||| 2#12 ∧
        t.capture = some { kind := .linkDown, sub := none, agent := some a, line := none, set := none, way := none
                           entry := none, time := s.unitTime } ∧
        t = { s with physLink := s.physLink.set a false, ports := t.ports, sweep := t.sweep
                     alertPending := t.alertPending, capture := t.capture })

/-- LINK_DOWN of a port whose agent is the origin, or an answerer, of the one active entry. The port becomes FAILED, as
with no entry active. An entry of that agent in READING-MEMORY is orphaned: its read runs on, it gives no reply, it
leaves the pin count, and its agent's deferred requests are removed. At MEM_DATA GOOD an orphaned READ-SHARED or
READ-OWN with a way in hand grants nothing: it gives the way up and is FREE. A READ-OWN or LOCKED-READ whose grant on a
holder's data waits for a place is orphaned, the grant withdrawn, and the data goes out to memory. Another agent's
READ-OWN that waits for the failed agent's answer to INVALIDATE takes it as not-held: the agent leaves the record, its
count falling by one, the way moves to the front, and the rest goes on. The record of the physical link is the model's,
log 9; that the answer's own rule removes the failed agent, and so moves the way to the front, is the model's reading,
log 21. -/
def Obligations.AgentFailureOrphansEntries : Prop :=
  (∀ (a : Agent) (e : EntryNo) (l : Line) (s : State), s.atRest → s.running = true →
    (∀ b, b ≠ a → (s.port b).headWaits = false) → ((s.port a).state = .online ∨ (s.port a).state = .draining) →
    (∀ f, f ≠ e → (s.entry f).phase = .free) → s.bufferWaiters = [] → s.capture = none →
    let x := { s.entry e with deferred := (s.entry e).deferred.filter (fun q => q.agent != a) }
    let orphan : Entry := { x with orphaned := true, reply := .none, pinCounted := false }
    let port := { s.port a with
      link := false, state := .failed, requests := [], head := .fresh, responses := [], output := [], waiters := []
      labels := [], recalls := [], drainRequested := false }
    let sweep := { s.sweep with criteria := s.sweep.criteria.filter (fun c => c.kind != CritKind.drain a) }.join (.strip a)
    let fallen := fun (t : State) => { t with
      physLink := s.physLink.set a false, sweep := sweep
      alertPending := s.alertPending ||| (1#12 <<< (2 + a.val)) ||| 2#12
      capture := some { kind := .linkDown, sub := none, agent := some a, line := none, set := none, way := none
                        entry := none, time := s.unitTime } }
    s.entry e = { s.entry e with line := l, poisonOwed := false, rebuild := false, saves := false } →
    (∀ k label, s.entry e = { s.entry e with
        kind := .req k, origin := some (a, label), phase := .readingMemory, pending := Vector.replicate 6 none
        data := .none, reply := .none } →
      k ≠ .upgrade → (s.port a).waiters = [] → s.memOp e = some false →
      exec (.linkDown a) s = .next (fallen ((s.setEntry e orphan).setPort a port))) ∧
    (∀ k label m i, s.entry e = { s.entry e with
        kind := .req k, origin := some (a, label), phase := .replying, pending := Vector.replicate 6 none
        data := .fromHolder, reply := .waiting, wrote := false } →
      (k = .readOwn ∨ k = .lockedRead) → (s.port a).waiters = [{ producer := .reply e, msg := m }] →
      s.memOp e = none → s.lineRec l = none → s.tagReady l i →
      exec (.linkDown a) s = .next (fallen ((({ s with
        memSent := s.memSent ++ [.write i ((s.tag i).use + 1) l x.buffer] } : State).setTag i
          (s.grantedTag i { claimant := .entry e, write := true, line := l })).setEntry e
            { orphan with phase := .writingMemory, wrote := true } |>.setPort a port))) ∧
    (∀ c label w h, c ≠ a → s.entry e = { s.entry e with
        kind := .req .readOwn, origin := some (c, label), phase := .readingMemory, data := .none, reply := .none
        orphaned := false } →
      (s.entry e).pending[a] = some { kind := .invalidate, placed := true } → (s.port a).waiters = [] →
      s.memOp e = some false → s.recordsLawful → s.calm (setOf l) →
      s.lineRec l = some (w, { state := .shared, holders := h, pin := none }) → AgentSet.has h a →
      AgentSet.remove h a ≠ 0 →
      let left : Rec := { state := .shared, holders := AgentSet.remove h a, pin := none }
      ∃ t, exec (.linkDown a) s = .next t ∧ t.lineRec l = some (w, left) ∧
        (t.aset (setOf l)).order.value = w :: (s.aset (setOf l)).order.value.filter (fun v => v != w) ∧
        (∀ v, v ≠ w → (t.aset (setOf l)).ways[v] = (s.aset (setOf l)).ways[v]) ∧
        (∀ n, n ≠ setOf l → t.aset n = s.aset n) ∧
        t = fallen ({ s with sets := t.sets } |>.setEntry e { x with
          pending := x.pending.set a none, copy := some left } |>.setPort a { port with
            holding := (s.port a).holding - 1 }))) ∧
  (∀ (i : MemTagNo) (d : LineData) (e : EntryNo) (a : Agent) (label : Label) (l : Line) (w : WayNo) (left : Nat)
    (s : State), s.atRest → s.running = true → s.noHeadWaits →
    (s.tag i).op = some { claim := { claimant := .entry e, write := false, line := l }, issued := true, left := left } →
    ((s.entry e).kind = .req .readShared ∨ (s.entry e).kind = .req .readOwn) →
    s.entry e = { s.entry e with
      origin := some (a, label), line := l, phase := .readingMemory, pending := Vector.replicate 6 none, data := .none
      deferred := [], reserved := some w, recheck := false, orphaned := true, reply := .none, poisonOwed := false
      rebuild := false, breaking := false, saves := false } →
    s.noneAwaiting (setOf l) → s.claimQueue = [] → s.owingBuffer l = none →
    (∀ j o, j ≠ i → (s.tag j).op = some o → o.claim.claimant ≠ .entry e) →
    exec (.memData (BitVec.ofNat 8 i.val) (s.tag i).use 0 d) s =
      .next ((s.setTag i { s.tag i with op := none }).setEntry e (Entry.free (s.entry e).use)))

/-! ### Messages at a port -/

/-- Each of the six requests that passes the arrival checks joins the request queue at its tail, its label joins the
outstanding labels, and nothing else changes. One that meets a full queue is refused QUEUE-FULL, one with an outstanding
label LABEL-IN-USE: the refusal is placed if the output queue has a place, the fault is reported in either case, and
nothing else changes. -/
def Obligations.RequestsArrive : Prop :=
  (∀ (c : Instr) (q : Request) (s : State), c.request = some q → s.atRest → s.running = true →
      ((s.port q.agent).state = .online ∨ (s.port q.agent).state = .draining) →
      (s.port q.agent).requests.length < 8 → q.label ∉ (s.port q.agent).labels →
      exec c s = .next (s.setPort q.agent { s.port q.agent with
        labels := (s.port q.agent).labels ++ [q.label], requests := (s.port q.agent).requests ++ [q] })) ∧
  (∀ (c : Instr) (q : Request) (s : State), c.request = some q → s.atRest → s.running = true →
      ((s.port q.agent).state = .online ∨ (s.port q.agent).state = .draining) →
      let send := fun (r : Reason) =>
        if (s.port q.agent).output.length < 16 then
          s.setPort q.agent { s.port q.agent with output := (s.port q.agent).output ++ [.refuse q.label q.line r] }
        else s
      let fault := fun (sub : SubReason) =>
        ({ kind := .protocol, sub := some sub, agent := some q.agent, line := some q.line, set := none, way := none
           entry := none, time := s.unitTime } : Report)
      (8 ≤ (s.port q.agent).requests.length → exec c s = .next ((send .queueFull).report (fault .queueFull))) ∧
      ((s.port q.agent).requests.length < 8 → q.label ∈ (s.port q.agent).labels →
        exec c s = .next ((send .labelInUse).report (fault .labelInUse))))

/-- Each of the five responses takes the record it names, where it is a recall reply, out of the recall list. With fewer
than eight in the response queue it joins the tail; past eight it is discarded and reported QUEUE-FULL with its line, if
it carries one. Nothing else changes. -/
def Obligations.ResponsesJoinTheQueueOrAreDiscarded : Prop :=
  ∀ (c : Instr) (a : Agent) (m : Resp) (s : State), c.response = some (a, m) → s.atRest → s.running = true →
    ((s.port a).state = .online ∨ (s.port a).state = .draining) →
    let recalls := match m with
      | .recallAck entry use _ => (s.port a).recalls.filter (fun r => !(r.entry.val == entry.toNat && r.use == use))
      | .recallData entry use _ _ => (s.port a).recalls.filter (fun r => !(r.entry.val == entry.toNat && r.use == use))
      | _ => (s.port a).recalls
    ((s.port a).responses.length < 8 → exec c s = .next (s.setPort a { s.port a with
      responses := (s.port a).responses ++ [{ msg := m, held := false, waits := false }], recalls := recalls })) ∧
    (8 ≤ (s.port a).responses.length → exec c s = .next ((s.setPort a { s.port a with recalls := recalls }).report
      { kind := .protocol, sub := some .queueFull, agent := some a, line := m.line, set := none, way := none
        entry := none, time := s.unitTime }))

/-- Outside RUNNING every inbound message is discarded, and so are requests, responses, LEAVE and unknown messages at an
OFFLINE or FAILED port, JOIN at a FAILED one, and JOIN and LEAVE at a DRAINING one: nothing changes. UNKNOWN_MESSAGE at
an ONLINE or DRAINING port of a RUNNING unit is reported as PROTOCOL UNEXPECTED with the agent, and changes nothing
else. A report fills a capture record that is not valid and sets CAPTURE pending; with a valid one the record stays and
the uncaptured count rises by one, staying at 255. -/
def Obligations.DiscardedAndUnknownMessages : Prop :=
  (∀ (c : Instr) (a : Agent) (s : State), s.atRest →
      ((∃ q, c.request = some q ∧ q.agent = a) ∨ (∃ m, c.response = some (a, m)) ∨ c = .join a ∨ c = .leave a ∨
        ∃ k, c = .unknownMessage a k) →
      (s.running = false ∨ (s.port a).state = .failed ∨ ((s.port a).state = .offline ∧ c ≠ .join a) ∨
        ((s.port a).state = .draining ∧ (c = .join a ∨ c = .leave a))) →
      exec c s = .next s) ∧
  (∀ (a : Agent) (k : Byte) (s : State), s.atRest → s.running = true →
    ((s.port a).state = .online ∨ (s.port a).state = .draining) →
    exec (.unknownMessage a k) s = .next (s.report
      { kind := .protocol, sub := some .unexpected, agent := some a, line := none, set := none, way := none
        entry := none, time := s.unitTime })) ∧
  (∀ (s : State) (r : Report),
    (s.capture = none → s.report r = { s with capture := some r, alertPending := s.alertPending ||| 2#12 }) ∧
    (∀ r', s.capture = some r' → s.report r =
      { s with counters := { s.counters with
          uncaptured := if s.counters.uncaptured < 255 then s.counters.uncaptured + 1 else 255 } }))

/-- JOIN at an OFFLINE port of a RUNNING unit moves it to ONLINE; at an ONLINE port with no JOIN-ACK waiting it changes
nothing; in both cases JOIN-ACK is placed, here where the output queue has a place. -/
def Obligations.JoinPlacesJoinAck : Prop :=
  ∀ (a : Agent) (s : State), s.atRest → s.running = true →
    ((s.port a).state = .offline ∨ (s.port a).state = .online) → (s.port a).waiters = [] →
    (s.port a).output.length < 16 →
    exec (.join a) s = .next (s.setPort a { s.port a with state := .online, output := (s.port a).output ++ [.joinAck] })

/-- LEAVE at an ONLINE port that still holds lines moves it to DRAINING, and the DRAIN criterion joins the criteria list,
which clears drain requested. ADMISSION_EXAMINE at a DRAINING port answers its head REFUSE LEAVING, here where the output
queue has a place: the refusal is placed, the head leaves, its label is released. -/
def Obligations.LeavingPortsDrainAndRefuse : Prop :=
  (∀ (a : Agent) (s : State), s.atRest → s.running = true → (s.port a).state = .online → (s.port a).holding ≠ 0 →
      s.noHeadWaits → s.hasCriterion (.drain a) = false →
      exec (.leave a) s = .next (({ s with
        sweep := { s.sweep with
          criteria := s.sweep.criteria ++ [{ kind := .drain a, joinSet := s.sweep.cursor, remaining := 2048
                                             skip := s.sweep.state == .processing || s.sweep.state == .claiming }]
          state := if s.sweep.state = SweepState.idle then .processing else s.sweep.state
          way := if s.sweep.state = SweepState.idle then 0 else s.sweep.way } } : State).setPort a
        { s.port a with state := .draining, drainRequested := false })) ∧
  (∀ (a : Agent) (q : Request) (rest : List Request) (s : State), s.atRest → s.running = true →
      (s.port a).state = .draining → (s.port a).requests = q :: rest → (s.port a).head ≠ .refusing →
      (s.port a).waiters = [] → (s.port a).output.length < 16 → (s.port a).holding ≠ 0 →
      (∀ b, b ≠ a → (s.port b).headWaits = false) →
      exec (.admissionExamine a) s = .next (s.setPort a { s.port a with
        requests := rest, head := .fresh, output := (s.port a).output ++ [.refuse q.label q.line .leaving]
        labels := (s.port a).labels.filter (fun l => l != q.label) }))

/-- OUTPUT_MESSAGE_SENT takes the head of the output queue of a port whose link is up, here where no producer waits and no
departure is finished by it; while the link is down nothing is sent. At a DRAINING port whose last unmet condition for
departure is a free place, the place it gives ends the departure: the port goes OFFLINE with LEAVE-DONE in the place. -/
def Obligations.OutputHeadIsSentAndEndsADeparture : Prop :=
  ∀ (a : Agent) (s : State), s.atRest →
    (∀ m rest, (s.port a).link = true → (s.port a).output = m :: rest → (s.port a).waiters = [] →
      (s.port a).state ≠ .draining → exec (.outputMessageSent a) s = .next (s.setPort a { s.port a with output := rest })) ∧
    ((s.port a).link = false → exec (.outputMessageSent a) s = .next s) ∧
    (∀ m rest, (s.port a).link = true → (s.port a).output = m :: rest → rest.length = 15 →
      (s.port a).state = .draining → (s.port a).holding = 0 → (s.port a).labels = [] → (s.port a).recalls = [] →
      (s.port a).responses = [] → (s.port a).waiters = [] → s.hasCriterion (.drain a) = false →
      exec (.outputMessageSent a) s = .next (s.setPort a { s.port a with
        state := .offline, drainRequested := false, output := rest ++ [.leaveDone] }))

/-! ### The arbiters -/

/-- ADMISSION_EXAMINE of a head whose line is busy with an entry that holds a place, and on which the agent has nothing
outstanding, puts the request at the tail of that entry's deferred list; the round-robin position does not move. At the
completion of an entry the head of its deferred list takes the entry over, here at MEM_DONE GOOD of its write with the
reply placed: the use number rises by one, the rest of the list stays, the fields are the request's, and its opening work
is done (log 11), here that of a READ-SHARED of a SHARED record, whose memory read goes out. -/
def Obligations.DeferredRequestsWaitAndAreHandedOver : Prop :=
  (∀ (a : Agent) (q : Request) (rest : List Request) (e : EntryNo) (s : State), s.atRest → s.running = true →
    (s.port a).state = .online → (s.port a).requests = q :: rest → q.agent = a → (s.port a).head ≠ .refusing →
    (s.port a).guards q.line = false → s.busy q.line = some e → (s.entry e).outstanding a = false →
    (s.entry e).holdsPlace = true → (∀ b, b ≠ a → (s.port b).headWaits = false) →
    exec (.admissionExamine a) s = .next ((s.setPort a { s.port a with requests := rest, head := .fresh }).setEntry e
      { s.entry e with deferred := (s.entry e).deferred ++ [q] })) ∧
  (∀ (i : MemTagNo) (q : Request) (rest : List Request) (e : EntryNo) (l : Line) (w : WayNo) (h : AgentSet) (left : Nat)
    (s : State), s.atRest → s.running = true → s.noHeadWaits → s.tableLawful →
    (s.tag i).op = some { claim := { claimant := .entry e, write := true, line := l }, issued := true, left := left } →
    (∀ j, j < i → (s.tag j).op ≠ none) → (∀ j o, j ≠ i → (s.tag j).op = some o → o.claim.claimant ≠ .entry e) →
    s.claimQueue = [] → (∀ b, (s.buffer b).state = .free) →
    s.entry e = { s.entry e with
      line := l, phase := .writingMemory, pending := Vector.replicate 6 none, deferred := q :: rest, recheck := false
      orphaned := false, reply := .placed, poisonOwed := false, rebuild := false, breaking := false, saves := false } →
    ((s.entry e).kind = .req .readShared ∨ (s.entry e).kind = .req .uncachedRead) → q.kind = .readShared →
    s.calm (setOf l) → s.noneAwaiting (setOf l) →
    s.lineRec l = some (w, { state := .shared, holders := h, pin := none }) →
    regionCheck s.settings q.kind q.agent l = none →
    exec (.memDone (BitVec.ofNat 8 i.val) (s.tag i).use 0) s = .next (({ s with
      memSent := s.memSent ++ [.read i ((s.tag i).use + 1) l] } : State).setTag i
        (s.grantedTag i { claimant := .entry e, write := false, line := l }) |>.setEntry e
      { Entry.free ((s.entry e).use + 1) with
        kind := .req .readShared, origin := some (q.agent, q.label), line := l, phase := .readingMemory, first := q.first
        deferred := rest, copy := some { state := .shared, holders := h, pin := none }
        mayWrite := writeRight s.settings q.agent l }))

/-- ADMISSION_EXAMINE of a head for an idle line, with an agent-pool entry and a place to be had, gives the request the
lowest-numbered free entry in STARTING with its use number one higher, moves the round-robin position to the agent, and
then the entry's opening work is done (log 11). -/
def Obligations.AdmissionAllocatesAnEntry : Prop :=
  ∀ (a : Agent) (q : Request) (rest : List Request) (e : EntryNo) (s : State), s.atRest → s.running = true →
    (s.port a).state = .online → (s.port a).requests = q :: rest → (s.port a).head ≠ .refusing →
    (s.port a).guards q.line = false → s.busy q.line = none → s.freeEntry agentPool = some e → s.placesHeld < 20 →
    exec (.admissionExamine a) s = .next (State.finish { s with
      ports := s.ports.set a { s.port a with requests := rest, head := .fresh }
      entries := s.entries.set e { Entry.free ((s.entry e).use + 1) with
        kind := .req q.kind, origin := some (q.agent, q.label), line := q.line, phase := .starting
        buffer := if q.kind = .uncachedWrite then q.data else 0
        mask := if q.kind = .uncachedWrite then q.mask else 0
        first := q.first }
      position := a
      work := [.start e, .admission, .admission] })

/-- A request admitted to an entry whose region check fails is refused at once, with the reason of the first check it
fails: REFUSE is placed, the label released, and the entry is FREE again with its use number one higher. -/
def Obligations.RegionRefusalEndsTheRequest : Prop :=
  ∀ (a : Agent) (q : Request) (rest : List Request) (e : EntryNo) (r : Reason) (s : State),
    s.atRest → s.running = true → (s.port a).state = .online → (s.port a).requests = q :: rest → q.agent = a →
    (s.port a).head ≠ .refusing → (s.port a).guards q.line = false → (s.port a).waiters = [] →
    (s.port a).output.length < 16 → (∀ b, b ≠ a → (s.port b).headWaits = false) → s.busy q.line = none →
    s.freeEntry agentPool = some e → s.placesHeld < 20 → s.awaiting = [] → s.memOp e = none →
    s.owingBuffer q.line = none → regionCheck s.settings q.kind a q.line = some r →
    exec (.admissionExamine a) s = .next (({ s with
      position := a
      entries := s.entries.set e (Entry.free ((s.entry e).use + 1)) } : State).setPort a { s.port a with
      requests := rest, head := .fresh, output := (s.port a).output ++ [.refuse q.label q.line r]
      labels := (s.port a).labels.filter (fun l => l != q.label) })

/-- The region check: the first of the four checks that fails gives the reason, and the kinds need the rights of the table
of R156. -/
def Obligations.RegionCheckTakesTheFirstFailure : Prop :=
  ∀ (t : Settings) (k : ReqKind) (a : Agent) (l : Line),
    (inRange t l = false → regionCheck t k a l = some .range) ∧
    (inRange t l = true → readRight t a l = false → regionCheck t k a l = some .protect) ∧
    (inRange t l = true → readRight t a l = true → writeRight t a l = false →
      (k = .readOwn ∨ k = .upgrade ∨ k = .lockedRead ∨ k = .uncachedWrite) → regionCheck t k a l = some .protect) ∧
    (inRange t l = true → readRight t a l = true → cacheable t l = false → k = .readShared →
      regionCheck t k a l = some .notCacheable) ∧
    (inRange t l = true → readRight t a l = true → writeRight t a l = true → cacheable t l = false →
      (k = .readOwn ∨ k = .upgrade ∨ k = .lockedRead) → regionCheck t k a l = some .notCacheable) ∧
    (inRange t l = true → readRight t a l = true → k = .uncachedRead → regionCheck t k a l = none) ∧
    (inRange t l = true → readRight t a l = true → k = .readShared → cacheable t l = true →
      regionCheck t k a l = none) ∧
    (inRange t l = true → readRight t a l = true → writeRight t a l = true →
      (cacheable t l = true ∨ k = .uncachedWrite) → regionCheck t k a l = none)

/-- INTERNAL_POOL_GRANT takes the oldest REBUILD claim first. On an idle line the lowest-numbered free internal entry is
allocated to it in STARTING with its use number one higher, and its opening work is done (log 11); on a busy line the
claim is withdrawn. With no internal entry free nothing changes. That one row handles one claim, and the arbiter goes on
to the next in a further row, is the model's reading, log 14. -/
def Obligations.InternalPoolGrantsARebuild : Prop :=
  ∀ (e : EntryNo) (c : RebuildClaim) (rest : List RebuildClaim) (s : State), s.atRest → s.running = true →
    s.rebuildClaims = c :: rest →
    (s.freeEntry internalPool = some e → s.busy c.line = none →
      exec .internalPoolGrant s = .next (State.finish { s with
        rebuildClaims := rest
        entries := s.entries.set e { Entry.free ((s.entry e).use + 1) with
          kind := .rebuild, line := c.line, phase := .starting }
        work := [.start e, .admission] })) ∧
    (∀ b, s.freeEntry internalPool = some e → s.busy c.line = some b →
      exec .internalPoolGrant s = .next { s with rebuildClaims := rest }) ∧
    (s.freeEntry internalPool = none → exec .internalPoolGrant s = .next s)

/-! ### Way allocation -/

/-- A READ-SHARED, READ-OWN, UPGRADE or LOCKED-READ admitted for an absent line of a calm set, its checks passed, asks for
a way. The free-way search names the lowest-numbered way that is enabled, free and no entry's reserved way: the entry
holds it, is in READING-MEMORY, and its read goes out. Otherwise it joins the awaiting list, in AWAITING-WAY: with a
RETIRE claim for a named victim, without one on the answer wait. On none the request is answered REFUSE NO-WAY, and the
entry is FREE. -/
def Obligations.AnAbsentLineAsksForAWay : Prop :=
  (∀ (s : State) (n : SetNo) (w : WayNo), s.freeSearch n = some w ↔
    ((s.mark n w).disable = false ∧ s.wayTag n w = none ∧ s.isReserved n w = false) ∧
    ∀ v, v < w → (s.mark n v).disable = true ∨ s.wayTag n v ≠ none ∨ s.isReserved n v = true) ∧
  (∀ (a : Agent) (q : Request) (rest : List Request) (e : EntryNo) (s : State), s.admits a q rest e →
    (q.kind = .readShared ∨ q.kind = .readOwn ∨ q.kind = .upgrade ∨ (q.kind = .lockedRead ∧ s.pinCount < 4)) →
    regionCheck s.settings q.kind a q.line = none → s.calm (setOf q.line) → s.lookup q.line = none →
    s.memOp e = none → (∀ m ∈ s.awaiting, m.entry ≠ e) →
    let fresh : Entry := { Entry.free ((s.entry e).use + 1) with
      kind := .req (if q.kind = .upgrade then .readOwn else q.kind), origin := some (a, q.label), line := q.line
      first := if q.kind = .upgrade then 0 else q.first, mayWrite := writeRight s.settings a q.line
      sole := q.kind == .readShared && s.settings.soleReader && writeRight s.settings a q.line
      pinCounted := q.kind == .lockedRead }
    let popped := { s.port a with requests := rest, head := .fresh }
    let with_ := fun (x : Entry) => { s with
      position := a, ports := s.ports.set a popped, entries := s.entries.set e x }
    (∀ w i, s.freeSearch (setOf q.line) = some w → s.tagReady q.line i →
      exec (.admissionExamine a) s = .next (({ with_ { fresh with reserved := some w, phase := .readingMemory } with
        memSent := s.memSent ++ [.read i ((s.tag i).use + 1) q.line] } : State).setTag i {
          use := (s.tag i).use + 1
          op := some { claim := { claimant := .entry e, write := false, line := q.line }, issued := true
                       left := s.settings.memoryTimeout.toNat } })) ∧
    (∀ w l, s.freeSearch (setOf q.line) = none → s.nameVictim (setOf q.line) = .victim w l →
      exec (.admissionExamine a) s = .next { with_ { fresh with phase := .awaitingWay } with
        awaiting := s.awaiting ++ [{ entry := e, stand := .claimWaiting l w }] }) ∧
    (s.freeSearch (setOf q.line) = none → s.nameVictim (setOf q.line) = .wait →
      exec (.admissionExamine a) s = .next { with_ { fresh with phase := .awaitingWay } with
        awaiting := s.awaiting ++ [{ entry := e, stand := .noClaim }] }) ∧
    (s.freeSearch (setOf q.line) = none → s.nameVictim (setOf q.line) = .none → s.noneAwaiting (setOf q.line) →
      s.owingBuffer q.line = none → (s.port a).waiters = [] → (s.port a).output.length < 16 →
      exec (.admissionExamine a) s = .next ((with_ (Entry.free ((s.entry e).use + 1))).setPort a { popped with
        output := (s.port a).output ++ [.refuse q.label q.line .noWay]
        labels := (s.port a).labels.filter (fun k => k != q.label) })))

/-- INTERNAL_POOL_GRANT of a RETIRE claim, with no REBUILD claim before it, takes the claim of the member that began
waiting first: on an idle line a RETIRE entry is allocated with that member as dependent, whose stand becomes retire
active, and its opening work is done (log 11). That one row handles one claim, whatever claims and entries remain, is
the model's reading, log 14. A member of a set's list gets the way that WAY_ENABLE makes free, and the dependent of a
RETIRE gets the way that the RETIRE holds at its completion, here at MEM_DONE GOOD of its write: each then leaves the
list, is in READING-MEMORY, and its read goes out. -/
def Obligations.RetirementsAndWakesGiveAWay : Prop :=
  (∀ (e d : EntryNo) (l : Line) (w : WayNo) (before after : List Awaiting) (s : State), s.atRest → s.running = true →
    s.rebuildClaims = [] → s.freeEntry internalPool = some e → (s.entry d).phase = .awaitingWay →
    s.awaiting = before ++ { entry := d, stand := .claimWaiting l w } :: after →
    (∀ m ∈ before, ∀ k v, m.stand ≠ .claimWaiting k v) → (∀ m ∈ before ++ after, m.entry ≠ d) → s.busy l = none →
    exec .internalPoolGrant s = .next (State.finish { s with
      entries := s.entries.set e { Entry.free ((s.entry e).use + 1) with
        kind := .retire, line := l, phase := .starting, dependent := some d, victim := some w }
      awaiting := before ++ { entry := d, stand := .retireActive e } :: after
      work := [.start e, .admission] })) ∧
  (∀ (set : BitVec 16) (way : Byte) (n : SetNo) (w : WayNo) (d : EntryNo) (stand : Stand) (i : MemTagNo) (k : ReqKind)
    (s : State), s.frameReady → s.running = true → set.toNat = n.toNat → way.toNat = w.val → s.soundSet n →
    s.arrayLawful → (s.mark n w).disable = true → s.isReserved n w = false → s.freeSearch n = none →
    s.awaiting = [{ entry := d, stand := stand }] → (stand = .noClaim ∨ ∃ l v, stand = .claimWaiting l v) →
    setOf (s.entry d).line = n → s.entry d = { s.entry d with
      kind := .req k, phase := .awaitingWay, reserved := none, data := .none, reply := .none, orphaned := false
      poisonOwed := false, rebuild := false, saves := false } →
    (k = .readShared ∨ k = .readOwn ∨ k = .lockedRead) → s.memOp d = none → s.tagReady (s.entry d).line i →
    ∃ t, exec (.wayEnable set way) s = .next t ∧
      t.mark n w = { s.mark n w with strike := false, disable := false } ∧
      (∀ m v, (m, v) ≠ (n, w) → t.mark m v = s.mark m v) ∧
      t.entry d = { s.entry d with reserved := some w, phase := .readingMemory } ∧
      (∀ f, f ≠ d → t.entry f = s.entry f) ∧
      t.tag i = {
        use := (s.tag i).use + 1
        op := some { claim := { claimant := .entry d, write := false, line := (s.entry d).line }, issued := true
                     left := s.settings.memoryTimeout.toNat } } ∧
      (∀ j, j ≠ i → t.tag j = s.tag j) ∧
      t = State.answered { s with
        marks := t.marks, entries := t.entries, awaiting := [], tags := t.tags
        memSent := s.memSent ++ [.read i ((s.tag i).use + 1) (s.entry d).line] }
        .wayEnable { status := .ok, data := [] }) ∧
  (∀ (i : MemTagNo) (e d : EntryNo) (w v : WayNo) (k : ReqKind) (data : LineData) (left : Nat) (s : State),
    s.atRest → s.running = true → s.noHeadWaits →
    (s.tag i).op = some { claim := { claimant := .entry e, write := true, line := (s.entry e).line }, issued := true
                          left := left } →
    (∀ j, j < i → (s.tag j).op ≠ none) →
    (∀ j o, j ≠ i → (s.tag j).op = some o → o.claim.claimant ≠ .entry e ∧ o.claim.claimant ≠ .entry d) →
    s.claimQueue = [] → (∀ b, (s.buffer b).state = .free) →
    s.entry e = { Entry.free (s.entry e).use with
      kind := .retire, line := (s.entry e).line, phase := .writingMemory, data := .fromHolder, buffer := data
      dependent := some d, reserved := some w, victim := some v, wrote := true } →
    s.awaiting = [{ entry := d, stand := .retireActive e }] → setOf (s.entry d).line = setOf (s.entry e).line →
    s.entry d = { s.entry d with
      kind := .req k, phase := .awaitingWay, reserved := none, data := .none, reply := .none, orphaned := false
      poisonOwed := false, rebuild := false, saves := false } →
    (k = .readShared ∨ k = .readOwn ∨ k = .lockedRead) →
    ∃ t, exec (.memDone (BitVec.ofNat 8 i.val) (s.tag i).use 0) s = .next t ∧
      t.entry e = Entry.free (s.entry e).use ∧
      t.entry d = { s.entry d with reserved := some w, phase := .readingMemory } ∧
      (∀ f, f ≠ e → f ≠ d → t.entry f = s.entry f) ∧
      t.tag i = {
        use := (s.tag i).use + 1
        op := some { claim := { claimant := .entry d, write := false, line := (s.entry d).line }, issued := true
                     left := s.settings.memoryTimeout.toNat } } ∧
      (∀ j, j ≠ i → t.tag j = s.tag j) ∧
      t = { s with
        entries := t.entries, awaiting := [], tags := t.tags
        memSent := s.memSent ++ [.read i ((s.tag i).use + 1) (s.entry d).line] })

/-! ### The response handler -/

/-- RESPONSE_HANDLER_RECALL_REPLY takes a stale reply: discarded, counted, reported as PROTOCOL STALE-REPLY with the
agent, the entry number carried and, if that entry is active, its line. -/
def Obligations.StaleReplyIsCounted : Prop :=
  ∀ (a : Agent) (entry : Byte) (use : UseNo) (m : Resp) (s : State), s.atRest → s.noHeadWaits →
    (s.port a).state = .online → s.takesHead a m → s.matchReply a entry use = none →
    ((∃ held, m = .recallAck entry use held) ∨ ∃ d kept, m = .recallData entry use d kept) →
    exec (.responseHandlerRecallReply a) s = .next (({ s with counters := { s.counters with
        stale := if s.counters.stale < 65535 then s.counters.stale + 1 else 65535 } }.setPort a
        { s.port a with responses := (s.port a).responses.tail }).report
      { kind := .protocol, sub := some .staleReply, agent := some a, line := s.namedLine entry, set := none, way := none
        entry := some entry, time := s.unitTime })

/-- RESPONSE_HANDLER_RECALL_REPLY takes a matched RECALL-ACK to an INVALIDATE of a READ-OWN that waits for its memory
read: the agent leaves the pending recalls and the record, which keeps its other sharers, its holding count falls by one,
the way moves to the front, and every other set, port and entry stays. -/
def Obligations.InvalidateAckRemovesASharer : Prop :=
  ∀ (b : Agent) (entry : Byte) (use : UseNo) (held : Bool) (e : EntryNo) (w : WayNo) (h : AgentSet) (s : State),
    s.atRest → s.noHeadWaits → s.recordsLawful → (s.port b).state = .online →
    s.takesHead b (.recallAck entry use held) → s.matchReply b entry use = some e →
    (s.entry e).pending[b] = some { kind := .invalidate, placed := true } → (s.entry e).kind = .req .readOwn →
    (s.entry e).phase = .readingMemory → (s.entry e).data = .none → (s.entry e).reply = .none →
    (s.entry e).orphaned = false → (s.entry e).poisonOwed = false → (s.entry e).rebuild = false →
    s.memOp e = some false → s.busy (s.entry e).line = some e → s.calm (setOf (s.entry e).line) →
    s.lineRec (s.entry e).line = some (w, { state := .shared, holders := h, pin := none }) → AgentSet.has h b →
    AgentSet.remove h b ≠ 0 →
    ∃ t, exec (.responseHandlerRecallReply b) s = .next t ∧
      t.recAt (setOf (s.entry e).line) w = { state := .shared, holders := AgentSet.remove h b, pin := none } ∧
      (t.aset (setOf (s.entry e).line)).order.value =
        w :: (s.aset (setOf (s.entry e).line)).order.value.filter (fun v => v != w) ∧
      (∀ v, v ≠ w → (t.aset (setOf (s.entry e).line)).ways[v] = (s.aset (setOf (s.entry e).line)).ways[v]) ∧
      (∀ n, n ≠ setOf (s.entry e).line → t.aset n = s.aset n) ∧
      t.entry e = { s.entry e with
        pending := (s.entry e).pending.set b none
        copy := some { state := .shared, holders := AgentSet.remove h b, pin := none } } ∧
      (∀ f, f ≠ e → t.entry f = s.entry f) ∧
      t.port b = { s.port b with responses := (s.port b).responses.tail, holding := (s.port b).holding - 1 } ∧
      (∀ c, c ≠ b → t.port c = s.port c) ∧
      t = { s with sets := t.sets, ports := t.ports, entries := t.entries }

/-- RESPONSE_HANDLER_WRITEBACK takes a WRITEBACK for an idle line that its sender holds exclusively: the record is freed,
the holding count falls by one, the lowest-numbered FREE buffer takes line, agent and data, and its memory write goes out
under the lowest-numbered FREE tag. No acknowledgement is placed. -/
def Obligations.WritebackTakesABuffer : Prop :=
  ∀ (a : Agent) (l : Line) (d : LineData) (w : WayNo) (p : Option Agent) (b : BufferNo) (i : MemTagNo)
    (s : State),
    s.atRest → s.noHeadWaits → s.recordsLawful → (s.port a).state = .online → s.takesHead a (.writeback l d) →
    s.busy l = none → s.calm (setOf l) → s.noneAwaiting (setOf l) →
    s.lineRec l = some (w, { state := .exclusive, holders := AgentSet.only a, pin := p }) →
    s.freeBufferNo = some b → s.claimQueue = [] → (s.tag i).op = none → (∀ j, j < i → (s.tag j).op ≠ none) →
    (∀ c, (s.buffer c).state = .writing → (s.buffer c).line ≠ l) →
    ∃ t, exec (.responseHandlerWriteback a) s = .next t ∧
      t.lookup l = none ∧
      (t.aset (setOf l)).order.value = (s.aset (setOf l)).order.value.filter (fun v => v != w) ∧
      (∀ v, v ≠ w → (t.aset (setOf l)).ways[v] = (s.aset (setOf l)).ways[v]) ∧
      (∀ n, n ≠ setOf l → t.aset n = s.aset n) ∧
      t.port a = { s.port a with responses := (s.port a).responses.tail, holding := (s.port a).holding - 1 } ∧
      (∀ c, c ≠ a → t.port c = s.port c) ∧
      t.buffer b = { state := .writing, line := l, agent := a, late := false, data := d, ackDone := false } ∧
      (∀ c, c ≠ b → t.buffer c = s.buffer c) ∧
      t.tag i = {
        use := (s.tag i).use + 1
        op := some { claim := { claimant := .buffer b, write := true, line := l }, issued := true
                     left := s.settings.memoryTimeout.toNat } } ∧
      (∀ j, j ≠ i → t.tag j = s.tag j) ∧
      t.memSent = s.memSent ++ [.write i ((s.tag i).use + 1) l d] ∧
      t = { s with sets := t.sets, ports := t.ports, buffers := t.buffers, tags := t.tags, memSent := t.memSent }

/-- RESPONSE_HANDLER_WRITEBACK takes a WRITEBACK from an agent that the record does not list, on an idle line: WB-ACK is
placed, the data is discarded, PROTOCOL UNEXPECTED is reported, and the record stays. -/
def Obligations.WritebackFromANonHolder : Prop :=
  ∀ (a : Agent) (l : Line) (d : LineData) (s : State), s.atRest → s.noHeadWaits → (s.port a).state = .online →
    s.takesHead a (.writeback l d) → s.busy l = none → s.calm (setOf l) → s.listed l a = false →
    (s.port a).waiters = [] → (s.port a).output.length < 16 →
    exec (.responseHandlerWriteback a) s = .next ((s.setPort a { s.port a with
        responses := (s.port a).responses.tail, output := (s.port a).output ++ [.wbAck l] }).report
      { kind := .protocol, sub := some .unexpected, agent := some a, line := some l, set := none, way := none
        entry := none, time := s.unitTime })

/-- RESPONSE_HANDLER_DROP on an idle line. From an agent the record does not list: discarded and counted as a late drop,
with no fault. From one sharer of several: it leaves the record and its holding count falls by one, and the recency order
and every other set stay. -/
def Obligations.DropOnAnIdleLine : Prop :=
  ∀ (a : Agent) (l : Line) (s : State), s.atRest → s.noHeadWaits → (s.port a).state = .online →
    s.takesHead a (.drop l) → s.busy l = none → s.calm (setOf l) →
    (s.listed l a = false → exec (.responseHandlerDrop a) s = .next ({ s with counters := { s.counters with
        lateDrop := if s.counters.lateDrop < 65535 then s.counters.lateDrop + 1 else 65535 } }.setPort a
      { s.port a with responses := (s.port a).responses.tail })) ∧
    (∀ w h, s.recordsLawful → s.lineRec l = some (w, { state := .shared, holders := h, pin := none }) →
      AgentSet.has h a → AgentSet.remove h a ≠ 0 →
      ∃ t, exec (.responseHandlerDrop a) s = .next t ∧
        t.recAt (setOf l) w = { state := .shared, holders := AgentSet.remove h a, pin := none } ∧
        (t.aset (setOf l)).order = (s.aset (setOf l)).order ∧
        (∀ v, v ≠ w → (t.aset (setOf l)).ways[v] = (s.aset (setOf l)).ways[v]) ∧
        (∀ n, n ≠ setOf l → t.aset n = s.aset n) ∧
        t.port a = { s.port a with responses := (s.port a).responses.tail, holding := (s.port a).holding - 1 } ∧
        (∀ c, c ≠ a → t.port c = s.port c) ∧
        t = { s with sets := t.sets, ports := t.ports })

/-- RESPONSE_HANDLER_UNPIN takes an UNPIN. Without data, on an idle line of a calm set, it is late: UNPIN-ACK LATE is
placed and nothing else changes. Against its agent's PINNED entry, without data, the pin is cleared, the agent keeps the
line with its count, UNPIN-ACK OK is placed and the entry, with nothing outstanding, becomes FREE. With data the line is
returned: the record is freed with its way held by the entry, the count falls by one, UNPIN-ACK OK is placed, and the
data goes out to memory. PIN_TIMER_EXPIRY clears the pin, the agent keeps the line, PIN-BROKEN is placed and the entry
becomes FREE. That the way then moves to the front, as at a claim of an agent kind, is the model's reading, log 41. -/
def Obligations.UnpinAndPinExpiryEndThePin : Prop :=
  (∀ (a : Agent) (l : Line) (s : State), s.atRest → s.noHeadWaits → (s.port a).state = .online →
    s.takesHead a (.unpin l none) → (s.port a).waiters = [] → (s.port a).output.length < 16 → s.busy l = none →
    s.calm (setOf l) → exec (.responseHandlerUnpin a) s = .next (s.setPort a { s.port a with
      responses := (s.port a).responses.tail, output := (s.port a).output ++ [.unpinAck l true] })) ∧
  (∀ (a : Agent) (l : Line) (e : EntryNo) (w : WayNo) (label : Label) (s : State), s.atRest → s.running = true →
    s.noHeadWaits → s.recordsLawful → s.calm (setOf l) → s.noneAwaiting (setOf l) → s.busy l = some e →
    s.entry e = { s.entry e with
      kind := .req .lockedRead, origin := some (a, label), line := l, phase := .pinned, reply := .placed
      orphaned := false, pending := Vector.replicate 6 none, deferred := [], recheck := false, rebuild := false
      poisonOwed := false, breaking := false, saves := false } →
    s.memOp e = none → s.owingBuffer l = none →
    s.lineRec l = some (w, { state := .exclusive, holders := AgentSet.only a, pin := some a }) →
    (s.port a).state = .online → (s.port a).waiters = [] → (s.port a).output.length < 16 →
    let rest := fun (t : State) =>
      (∀ v, v ≠ w → (t.aset (setOf l)).ways[v] = (s.aset (setOf l)).ways[v]) ∧
      (∀ n, n ≠ setOf l → t.aset n = s.aset n) ∧ (∀ f, f ≠ e → t.entry f = s.entry f) ∧
      (∀ c, c ≠ a → t.port c = s.port c)
    (s.takesHead a (.unpin l none) → ∃ t, exec (.responseHandlerUnpin a) s = .next t ∧ rest t ∧
      t.recAt (setOf l) w = { state := .exclusive, holders := AgentSet.only a, pin := none } ∧
      (t.aset (setOf l)).order = (s.aset (setOf l)).order ∧ t.entry e = Entry.free (s.entry e).use ∧
      t.port a = { s.port a with
        responses := (s.port a).responses.tail, output := (s.port a).output ++ [.unpinAck l false] } ∧
      t = { s with sets := t.sets, ports := t.ports, entries := t.entries }) ∧
    (∀ d i, s.takesHead a (.unpin l (some d)) → (s.entry e).wrote = false → (s.entry e).mask = 0 → s.tagReady l i →
      ∃ t, exec (.responseHandlerUnpin a) s = .next t ∧ rest t ∧ t.lookup l = none ∧
      (t.aset (setOf l)).order.value = (s.aset (setOf l)).order.value.filter (fun v => v != w) ∧
      t.entry e = { s.entry e with
        phase := .writingMemory, pinTimer := none, pinCounted := false, data := .fromWriteback, buffer := d
        reserved := some w, copy := none, wrote := true } ∧
      t.port a = { s.port a with
        responses := (s.port a).responses.tail, output := (s.port a).output ++ [.unpinAck l false]
        holding := (s.port a).holding - 1 } ∧
      t.tag i = s.grantedTag i { claimant := .entry e, write := true, line := l } ∧ (∀ j, j ≠ i → t.tag j = s.tag j) ∧
      t = { s with sets := t.sets, ports := t.ports, entries := t.entries, tags := t.tags
                   memSent := s.memSent ++ [.write i ((s.tag i).use + 1) l d] }) ∧
    (∀ left, (s.entry e).pinTimer = some left → ∃ t, exec (.pinTimerExpiry e) s = .next t ∧ rest t ∧
      t.recAt (setOf l) w = { state := .exclusive, holders := AgentSet.only a, pin := none } ∧
      (t.aset (setOf l)).order.value = w :: (s.aset (setOf l)).order.value.filter (fun v => v != w) ∧
      t.entry e = Entry.free (s.entry e).use ∧
      t.port a = { s.port a with output := (s.port a).output ++ [.pinBroken l] } ∧
      t = { s with sets := t.sets, ports := t.ports, entries := t.entries }))

/-- RESPONSE_HANDLER_WRITEBACK takes a WRITEBACK of the exclusive holder of a line busy with an entry whose RETURN to
that holder is unanswered: the entry absorbs it. The data enters the entry's buffer, the record is freed with its way
held by the entry, the holding count falls by one, WB-ACK is placed at once and no writeback buffer is taken; the RETURN
stays owed. A READ-OWN or LOCKED-READ, which passes the data on, writes nothing to memory. A RETIRE or SWEEP-RECALL,
which leaves the line unheld, claims the memory write of the data at that event: here it goes out, and the entry is in
WRITING-MEMORY. -/
def Obligations.AbsorbedWritebacksAreKeptOrWritten : Prop :=
  ∀ (a : Agent) (l : Line) (d : LineData) (e : EntryNo) (w : WayNo) (s : State), s.atRest → s.noHeadWaits →
    s.recordsLawful → (s.port a).state = .online → s.takesHead a (.writeback l d) → (s.port a).waiters = [] →
    (s.port a).output.length < 16 → s.calm (setOf l) → s.noneAwaiting (setOf l) → s.busy l = some e →
    s.entry e = { s.entry e with
      phase := .recalling, data := .none, mask := 0, reply := .none, orphaned := false, wrote := false
      poisonOwed := false, rebuild := false, refused := false, saves := false } →
    (s.entry e).pending[a] = some { kind := .return, placed := true } → s.memOp e = none →
    s.lineRec l = some (w, { state := .exclusive, holders := AgentSet.only a, pin := none }) →
    let absorbed : Entry := { s.entry e with buffer := d, data := .fromWriteback, reserved := some w, copy := none }
    let taken := fun (t : State) =>
      t.lookup l = none ∧ (t.aset (setOf l)).order.value = (s.aset (setOf l)).order.value.filter (fun v => v != w) ∧
      (∀ v, v ≠ w → (t.aset (setOf l)).ways[v] = (s.aset (setOf l)).ways[v]) ∧
      (∀ n, n ≠ setOf l → t.aset n = s.aset n) ∧ (∀ f, f ≠ e → t.entry f = s.entry f) ∧
      t.port a = { s.port a with
        responses := (s.port a).responses.tail, output := (s.port a).output ++ [.wbAck l]
        holding := (s.port a).holding - 1 } ∧
      (∀ c, c ≠ a → t.port c = s.port c)
    (((s.entry e).kind = .req .readOwn ∨ (s.entry e).kind = .req .lockedRead) →
      ∃ t, exec (.responseHandlerWriteback a) s = .next t ∧ taken t ∧ t.entry e = absorbed ∧
        t = { s with sets := t.sets, ports := t.ports, entries := t.entries }) ∧
    (∀ i, ((s.entry e).kind = .retire ∨ (s.entry e).kind = .sweepRecall) → s.tagReady l i →
      ∃ t, exec (.responseHandlerWriteback a) s = .next t ∧ taken t ∧
        t.entry e = { absorbed with phase := .writingMemory, wrote := true } ∧
        t.tag i = s.grantedTag i { claimant := .entry e, write := true, line := l } ∧
        (∀ j, j ≠ i → t.tag j = s.tag j) ∧
        t = { s with sets := t.sets, ports := t.ports, entries := t.entries, tags := t.tags
                     memSent := s.memSent ++ [.write i ((s.tag i).use + 1) l d] })

/-! ### The memory port -/

/-- A memory reply that arrives outside RUNNING, or fails a condition of R144, and one of no known kind, is late: it is
counted and changes nothing else. -/
def Obligations.LateMemoryRepliesAreCounted : Prop :=
  ∀ (tag : Byte) (use : UseNo) (status : Byte) (d : LineData) (kind : Byte) (s : State), s.atRest →
    let late := { s with counters := { s.counters with
      lateMem := if s.counters.lateMem < 65535 then s.counters.lateMem + 1 else 65535 } }
    ((s.running = false ∨ ∀ i o, i.val = tag.toNat → (s.tag i).op = some o →
        (s.tag i).use ≠ use ∨ o.issued = false ∨ o.claim.write = true) →
      exec (.memData tag use status d) s = .next late) ∧
    ((s.running = false ∨ ∀ i o, i.val = tag.toNat → (s.tag i).op = some o →
        (s.tag i).use ≠ use ∨ o.issued = false ∨ o.claim.write = false) →
      exec (.memDone tag use status) s = .next late) ∧
    exec (.unknownMemoryReply kind) s = .next late

/-- How codes and line fields are read. A memory reply of no known kind, and one whose tag byte is above 7, is late:
counted, with no other effect. A MEM-DATA whose status is neither GOOD nor CORRECTED is taken as UNCORRECTABLE, a
MEM-DONE whose status is not GOOD as FAILED. Bits 26 to 31 of the line field of an agent message change nothing. -/
def Obligations.RepliesAndLineFieldsAreReadByTheirCodes : Prop :=
  (∀ (tag : Byte) (use : UseNo) (status : Byte) (d : LineData) (kind : Byte) (s : State), s.atRest →
    let late := { s with counters := { s.counters with
      lateMem := if s.counters.lateMem < 65535 then s.counters.lateMem + 1 else 65535 } }
    exec (.unknownMemoryReply kind) s = .next late ∧
    (7 < tag.toNat → exec (.memData tag use status d) s = .next late ∧ exec (.memDone tag use status) s = .next late)) ∧
  (∀ (tag : Byte) (use : UseNo) (status : Byte) (d : LineData) (s : State),
    (status ≠ 0 → status ≠ 1 → exec (.memData tag use status d) s = exec (.memData tag use 2 d) s) ∧
    (status ≠ 0 → exec (.memDone tag use status) s = exec (.memDone tag use 3) s)) ∧
  (∀ (a : Agent) (k : Label) (f : Beat) (d : LineData) (m : ByteMask) (u : Option LineData) (v : LineField) (s : State),
    let line := v &&& 0x03FFFFFF
    exec (.readShared a k v f) s = exec (.readShared a k line f) s ∧
    exec (.readOwn a k v f) s = exec (.readOwn a k line f) s ∧ exec (.upgrade a k v) s = exec (.upgrade a k line) s ∧
    exec (.uncachedRead a k v f) s = exec (.uncachedRead a k line f) s ∧
    exec (.uncachedWrite a k v d m) s = exec (.uncachedWrite a k line d m) s ∧
    exec (.lockedRead a k v f) s = exec (.lockedRead a k line f) s ∧
    exec (.writeback a v d) s = exec (.writeback a line d) s ∧ exec (.drop a v) s = exec (.drop a line) s ∧
    exec (.unpin a v u) s = exec (.unpin a line u) s)

/-- MEM_DATA GOOD for a READ-SHARED of an unheld line, with the way in hand and the port able to take the grant: the line
is installed SHARED held by the requester alone, the way at the front, the holding count one higher; GRANT-SHARED is
placed with the four beats from the request's first beat; the label is released, the tag FREE, and the entry FREE. -/
def Obligations.ReadSharedIsGrantedOnItsData : Prop :=
  ∀ (i : MemTagNo) (d : LineData) (e : EntryNo) (a : Agent) (label : Label) (l : Line) (w : WayNo) (f : Beat)
    (left : Nat) (right : Bool) (s : State), s.atRest → s.running = true → s.recordsLawful →
    (s.tag i).op = some { claim := { claimant := .entry e, write := false, line := l }, issued := true, left := left } →
    s.entry e = { Entry.free (s.entry e).use with
      kind := .req .readShared, origin := some (a, label), line := l, phase := .readingMemory, first := f
      reserved := some w, mayWrite := right } →
    s.busy l = some e → s.lookup l = none → s.enabled (setOf l) w → s.wayTag (setOf l) w = none → s.calm (setOf l) →
    (s.port a).state = .online → (s.port a).waiters = [] → (s.port a).output.length < 16 → s.noHeadWaits →
    s.awaiting = [] → s.claimQueue = [] → s.owingBuffer l = none →
    (∀ j o, j ≠ i → (s.tag j).op = some o → o.claim.claimant ≠ .entry e) →
    ∃ t, exec (.memData (BitVec.ofNat 8 i.val) (s.tag i).use 0 d) s = .next t ∧
      t.lineRec l = some (w, { state := .shared, holders := AgentSet.only a, pin := none }) ∧
      (t.aset (setOf l)).order.value = w :: (s.aset (setOf l)).order.value.filter (fun v => v != w) ∧
      (∀ v, v ≠ w → (t.aset (setOf l)).ways[v] = (s.aset (setOf l)).ways[v]) ∧
      (∀ n, n ≠ setOf l → t.aset n = s.aset n) ∧
      t.port a = { s.port a with
        holding := (s.port a).holding + 1, labels := (s.port a).labels.filter (fun k => k != label)
        output := (s.port a).output ++ [.grantShared label l [beatOf d f, beatOf d (f + 1), beatOf d (f + 2), beatOf d (f + 3)]] } ∧
      (∀ c, c ≠ a → t.port c = s.port c) ∧
      t.entry e = Entry.free (s.entry e).use ∧ (∀ g, g ≠ e → t.entry g = s.entry g) ∧
      t.tag i = { s.tag i with op := none } ∧ (∀ j, j ≠ i → t.tag j = s.tag j) ∧
      t = { s with sets := t.sets, ports := t.ports, entries := t.entries, tags := t.tags }

/-- MEM_DONE GOOD for a writeback buffer's write, with nothing held behind it: WB-ACK goes to the buffer's agent, the
buffer and the tag become FREE. -/
def Obligations.MemDoneFreesTheBuffer : Prop :=
  ∀ (i : MemTagNo) (b : BufferNo) (left : Nat) (s : State), s.atRest → s.running = true →
    (s.tag i).op = some { claim := { claimant := .buffer b, write := true, line := (s.buffer b).line }, issued := true
                          left := left } →
    (∀ j o, (s.tag j).op = some o → o.issued = true) → s.claimQueue = [] → s.bufferWaiters = [] →
    (s.buffer b).state = .writing → (s.buffer b).late = false → (s.port (s.buffer b).agent).state = .online →
    (s.port (s.buffer b).agent).waiters = [] → (s.port (s.buffer b).agent).output.length < 16 →
    exec (.memDone (BitVec.ofNat 8 i.val) (s.tag i).use 0) s =
      .next (((s.setTag i { s.tag i with op := none }).setBuffer b WbBuffer.free).setPort (s.buffer b).agent
        { s.port (s.buffer b).agent with
          output := (s.port (s.buffer b).agent).output ++ [.wbAck (s.buffer b).line] })

/-- A memory write that ends FAILED, by MEM_DONE: MEMORY-WRITE-FAULT is reported and the tag is FREE. A writeback
buffer's write on a busy line leaves the buffer OWING, with its WB-ACK placed. A read of that line HELD behind it is
ended as a read fault: here its UNCACHED-READ is answered REFUSE MEMORY-FAULT and completes, so that the POISON owed is
made, in the lowest-numbered available way, and the buffer is FREE. An UNCACHED-WRITE's write of a line that nobody
holds is answered REFUSE MEMORY-FAULT and the line is POISONED at once; where no way can be had it stays unheld, with a
second report. A READ-SHARED's write after its grant owes the POISON and recalls every sharer with INVALIDATE; with the
last answer the record is POISONED in place, each sharer's count falls by one, and the entry is FREE. -/
def Obligations.WriteFaultsOweOrPoison : Prop :=
  (∀ (i : MemTagNo) (status : Byte) (l : Line) (left : Nat) (by_ : Claimant) (s : State), s.atRest → s.running = true →
    status ≠ 0 → s.claimQueue = [] → s.owingBuffer l = none →
    (s.tag i).op = some { claim := { claimant := by_, write := true, line := l }, issued := true, left := left } →
    let n := setOf l
    let failed := exec (.memDone (BitVec.ofNat 8 i.val) (s.tag i).use status) s
    let fault := fun (a : Agent) (entry : Option Byte) (t : State) => t.report
      { kind := .memoryWriteFault, sub := none, agent := some a, line := some l, set := some n, way := s.lookup l
        entry := entry, time := s.unitTime }
    let freed := fun (t : State) => t.setTag i { s.tag i with op := none }
    let refused := fun (c : Agent) (label : Label) (t : State) => t.setPort c { t.port c with
      labels := (t.port c).labels.filter (fun k => k != label)
      output := (t.port c).output ++ [.refuse label l .memoryFault] }
    let others := fun (v : WayNo) (e : EntryNo) (t : State) =>
      (∀ u, u ≠ v → (t.aset n).ways[u] = (s.aset n).ways[u]) ∧ (∀ k, k ≠ n → t.aset k = s.aset k) ∧
      t.entry e = Entry.free (s.entry e).use ∧ (∀ f, f ≠ e → t.entry f = s.entry f)
    let poisoned := fun (v : WayNo) (e : EntryNo) (t : State) => others v e t ∧
      t.lineRec l = some (v, { state := .poisoned, holders := 0, pin := none }) ∧
      (t.aset n).order.value = v :: (s.aset n).order.value.filter (fun u => u != v)
    let quiet := s.recordsLawful ∧ s.noHeadWaits ∧ s.calm n ∧ s.noneAwaiting n
    let only := fun (e : EntryNo) (j : MemTagNo) =>
      ∀ k o, k ≠ j → (s.tag k).op = some o → o.claim.claimant ≠ .entry e
    (∀ b, by_ = .buffer b → (s.buffer b).state = .writing → (s.buffer b).line = l → (s.buffer b).late = false →
      (s.port (s.buffer b).agent).ready →
      let a := (s.buffer b).agent
      let acked := s.setPort a { s.port a with output := (s.port a).output ++ [.wbAck l] }
      (∀ f, s.busy l = some f → (∀ j o, (s.tag j).op = some o → o.issued = true ∨ o.claim.line ≠ l) →
        failed = .next (fault a none (freed (acked.setBuffer b { s.buffer b with state := .owing, ackDone := true })))) ∧
      (∀ e j v c label first right k, quiet → s.busy l = some e → s.lookup l = none → s.freeSearch n = some v →
        s.entry e = { Entry.free (s.entry e).use with
          kind := .req .uncachedRead, origin := some (c, label), line := l, phase := .readingMemory, first := first
          mayWrite := right } →
        (s.tag j).op = some { claim := { claimant := .entry e, write := false, line := l }, issued := false, left := k } →
        (∀ m o, m ≠ j → (s.tag m).op = some o → o.issued = true ∨ o.claim.line ≠ l) → only e j → s.bufferWaiters = [] →
        (s.port c).state = .online → (s.port c).waiters = [] → (s.port c).output.length < 15 →
        ∃ t, failed = .next t ∧ poisoned v e t ∧
          t = fault a none (({ refused c label acked with sets := t.sets, entries := t.entries } : State).setBuffer b
            WbBuffer.free |> freed |>.setTag j { s.tag j with op := none }))) ∧
    (∀ e c label, by_ = .entry e → quiet → s.busy l = some e → s.lookup l = none → only e i →
      s.entry e = { s.entry e with
        kind := .req .uncachedWrite, origin := some (c, label), line := l, phase := .writingMemory
        pending := Vector.replicate 6 none, data := .merged, deferred := [], reserved := none, recheck := false
        orphaned := false, reply := .none, poisonOwed := false, rebuild := false, breaking := false, saves := false } →
      (s.port c).state = .online → (s.port c).waiters = [] → (s.port c).output.length < 16 →
      (∀ v, s.freeSearch n = some v → ∃ t, failed = .next t ∧ poisoned v e t ∧
        t = fault c (some (entryByte e)) (freed { refused c label s with sets := t.sets, entries := t.entries })) ∧
      (s.freeSearch n = none → failed = .next ((fault c (some (entryByte e))
        ((freed (refused c label s)).setEntry e (Entry.free (s.entry e).use))).report
        { kind := .memoryWriteFault, sub := none, agent := none, line := some l, set := some n, way := none
          entry := none, time := s.unitTime }))) ∧
    (∀ e c label w h, by_ = .entry e → quiet → s.busy l = some e → only e i →
      s.lineRec l = some (w, { state := .shared, holders := h, pin := none }) →
      s.entry e = { s.entry e with
        kind := .req .readShared, origin := some (c, label), line := l, phase := .writingMemory
        pending := Vector.replicate 6 none, orphaned := false, reply := .placed, rebuild := false } →
      (∀ x, AgentSet.has h x → (s.port x).ready) →
      ∃ t, failed = .next t ∧
        (∀ x, AgentSet.has h x → t.port x = s.recalled x l .invalidate e (s.entry e).use ∧
          (t.entry e).pending[x] = some { kind := .invalidate, placed := true }) ∧
        (∀ x, AgentSet.has h x = false → t.port x = s.port x ∧ (t.entry e).pending[x] = none) ∧
        t.entry e = { s.entry e with
          phase := .recalling, poisonOwed := true, faultRecalls := h, pending := (t.entry e).pending } ∧
        (∀ f, f ≠ e → t.entry f = s.entry f) ∧
        t = fault c (some (entryByte e)) (freed { s with ports := t.ports, entries := t.entries }))) ∧
  (∀ (b : Agent) (held : Bool) (e : EntryNo) (l : Line) (w : WayNo) (h : AgentSet) (s : State), s.atRest →
    s.recordsLawful → s.noHeadWaits → s.calm (setOf l) → s.noneAwaiting (setOf l) → s.busy l = some e →
    s.memOp e = none → s.owingBuffer l = none → s.takesHead b (.recallAck (entryByte e) (s.entry e).use held) →
    s.lineRec l = some (w, { state := .shared, holders := h, pin := none }) →
    s.entry e = { s.entry e with
      kind := .req .readShared, line := l, phase := .recalling, recheck := false, orphaned := false, deferred := []
      pending := (Vector.replicate 6 none).set b (some { kind := .invalidate, placed := true }), reserved := none
      reply := .placed, poisonOwed := true, rebuild := false, breaking := false, saves := false } →
    AgentSet.has (s.entry e).faultRecalls b →
    (s.port b).state = .online → (∀ x, AgentSet.has h x → (s.port x).state = .online) →
    let asked := { s.port b with responses := (s.port b).responses.tail }
    ∃ t, exec (.responseHandlerRecallReply b) s = .next t ∧
      t.lineRec l = some (w, { state := .poisoned, holders := 0, pin := none }) ∧
      (t.aset (setOf l)).order = (s.aset (setOf l)).order ∧
      (∀ v, v ≠ w → (t.aset (setOf l)).ways[v] = (s.aset (setOf l)).ways[v]) ∧
      (∀ n, n ≠ setOf l → t.aset n = s.aset n) ∧
      (∀ x, t.port x = { (if x = b then asked else s.port x) with
        holding := (s.port x).holding - (if AgentSet.has h x then 1 else 0) }) ∧
      t.entry e = Entry.free (s.entry e).use ∧ (∀ f, f ≠ e → t.entry f = s.entry f) ∧
      t = { s with sets := t.sets, ports := t.ports, entries := t.entries })

/-- MEMORY_TIMER_EXPIRY of an UNCACHED-READ's read: MEMORY-TIMEOUT is reported with the line, its set, the entry and the
agent, the tag is FREE, the request is answered REFUSE MEMORY-FAULT, and the entry is FREE. -/
def Obligations.MemoryTimeoutRefusesTheRead : Prop :=
  ∀ (i : MemTagNo) (e : EntryNo) (a : Agent) (label : Label) (l : Line) (f : Beat) (left : Nat) (right : Bool)
    (s : State), s.atRest → s.running = true →
    (s.tag i).op = some { claim := { claimant := .entry e, write := false, line := l }, issued := true, left := left } →
    s.entry e = { Entry.free (s.entry e).use with
      kind := .req .uncachedRead, origin := some (a, label), line := l, phase := .readingMemory, first := f
      mayWrite := right } →
    (s.port a).state = .online → (s.port a).waiters = [] → (s.port a).output.length < 16 → s.noHeadWaits →
    s.awaiting = [] → s.claimQueue = [] → s.owingBuffer l = none →
    (∀ j o, j ≠ i → (s.tag j).op = some o → o.claim.claimant ≠ .entry e) →
    exec (.memoryTimerExpiry i) s = .next ((((s.setTag i { s.tag i with op := none }).setEntry e
        (Entry.free (s.entry e).use)).setPort a { s.port a with
          labels := (s.port a).labels.filter (fun k => k != label)
          output := (s.port a).output ++ [.refuse label l .memoryFault] }).report
      { kind := .memoryTimeout, sub := none, agent := some a, line := some l, set := some (setOf l), way := none
        entry := some (entryByte e), time := s.unitTime })

/-! ### Scrubber and sweep -/

/-- SCRUB_INTERVAL_EXPIRY of a sound set: the cursor moves on, a move from 2047 to 0 raises the pass counter, the timer
starts again, and nothing else changes. Refreshing the scrubber starts its timer at the interval, lets it run on, or
stops it: it runs exactly while the unit is RUNNING, SCRUB-ENABLE is set and the interval is not 0. -/
def Obligations.ScrubberReadsASetAndRunsWhileEnabled : Prop :=
  (∀ s : State, s.atRest → s.running = true → s.scrub.timer.isSome → s.settings.scrubEnable = true →
    s.settings.scrubInterval ≠ 0 → s.calm s.scrub.cursor →
    exec .scrubIntervalExpiry s = .next { s with scrub := {
      cursor := s.scrub.cursor + 1
      passes := if s.scrub.cursor = 2047 then s.scrub.passes + 1 else s.scrub.passes
      timer := some s.settings.scrubInterval.toNat } }) ∧
  (∀ s : State,
    ((s.running = true ∧ s.settings.scrubEnable = true ∧ s.settings.scrubInterval ≠ 0) →
      s.refreshScrub = { s with scrub := { s.scrub with
        timer := some (s.scrub.timer.getD s.settings.scrubInterval.toNat) } }) ∧
    (¬ (s.running = true ∧ s.settings.scrubEnable = true ∧ s.settings.scrubInterval ≠ 0) →
      s.refreshScrub = { s with scrub := { s.scrub with timer := none } }))

/-- SWEEP_READ of a way before the last. In a calm set a free or disabled way, and an idle conforming record, need
nothing: the engine goes to the next way. A busy line's entry has recheck set. A nonconforming record of an idle line
makes a SWEEP-RECALL claim with the recalls it calls for, and the engine enters CLAIMING. A listed agent whose port is
FAILED is removed without recall, its count falling by one: a sharer of several leaves the record, the only sharer frees
it, and the exclusive holder leaves it POISONED; a record that then conforms needs nothing. INTERNAL_POOL_GRANT of the
SWEEP-RECALL claim, with no other claim before it and one claim a row (log 14): on an idle line a SWEEP-RECALL entry
does its opening work (log 11): it judges the record afresh, recalls each agent that falls under a case, or is FREE
again where none does, and the engine goes on at once; on a busy line recheck is set on its entry. SWEEP_GAP_EXPIRY
returns the engine from GAP to PROCESSING at the cursor's set, and changes nothing else. -/
def Obligations.SweepReadsAWayAndGapEnds : Prop :=
  (∀ s : State, s.atRest → s.running = true → s.sweep.state = .processing → s.calm s.sweep.cursor → s.sweep.way ≠ 7 →
    let moved := { s with sweep := { s.sweep with way := s.sweep.way + 1 } }
    (s.wayLine s.sweep.cursor s.sweep.way = none → exec .sweepRead s = .next moved) ∧
    (∀ l e, s.wayLine s.sweep.cursor s.sweep.way = some l → s.busy l = some e →
      exec .sweepRead s = .next (moved.setEntry e { s.entry e with recheck := true })) ∧
    (∀ l, s.wayLine s.sweep.cursor s.sweep.way = some l → s.busy l = none → s.judgeLine l = [] →
      exec .sweepRead s = .next moved) ∧
    (∀ l, s.wayLine s.sweep.cursor s.sweep.way = some l → s.busy l = none → s.judgeLine l ≠ [] →
      exec .sweepRead s = .next { s with sweep := { s.sweep with
        state := .claiming, claim := some { line := l, recalls := s.judgeLine l } } })) ∧
  (∀ (a : Agent) (l : Line) (h : AgentSet) (s : State), s.atRest → s.running = true → s.recordsLawful →
    s.sweep.state = .processing → s.soundSet s.sweep.cursor → s.noLost s.sweep.cursor → s.sweep.way ≠ 7 →
    s.noneAwaiting s.sweep.cursor → s.wayLine s.sweep.cursor s.sweep.way = some l → s.busy l = none →
    (s.port a).state = .failed → (s.recAt s.sweep.cursor s.sweep.way).holders = h → AgentSet.has h a →
    (∀ c, c ≠ a → AgentSet.has h c → (s.port c).state ≠ .failed) →
    let n := s.sweep.cursor
    let w := s.sweep.way
    let left : Rec := { state := .shared, holders := AgentSet.remove h a, pin := none }
    let stripped := fun (t : State) =>
      (∀ v, v ≠ w → (t.aset n).ways[v] = (s.aset n).ways[v]) ∧ (∀ k, k ≠ n → t.aset k = s.aset k) ∧
      t.port a = { s.port a with holding := (s.port a).holding - 1 } ∧ (∀ c, c ≠ a → t.port c = s.port c) ∧
      t = { s with sets := t.sets, ports := t.ports, sweep := { s.sweep with way := w + 1 } }
    ((s.recAt n w).state = .shared → h ≠ AgentSet.only a → s.judge l left = [] →
      ∃ t, exec .sweepRead s = .next t ∧ stripped t ∧ t.lineRec l = some (w, left) ∧
        (t.aset n).order = (s.aset n).order) ∧
    ((s.recAt n w).state = .shared → h = AgentSet.only a →
      ∃ t, exec .sweepRead s = .next t ∧ stripped t ∧ t.lookup l = none ∧
        (t.aset n).order.value = (s.aset n).order.value.filter (fun v => v != w)) ∧
    ((s.recAt n w).state = .exclusive →
      ∃ t, exec .sweepRead s = .next t ∧ stripped t ∧
        t.lineRec l = some (w, { state := .poisoned, holders := 0, pin := none }) ∧
        (t.aset n).order = (s.aset n).order)) ∧
  (∀ (e : EntryNo) (l : Line) (js : List (Agent × RecallKind)) (s : State), s.atRest → s.running = true →
    s.noHeadWaits → s.rebuildClaims = [] → (∀ m ∈ s.awaiting, ∀ k v, m.stand ≠ .claimWaiting k v) →
    s.sweep.claim = some { line := l, recalls := js } → s.sweep.way ≠ 7 → s.freeEntry internalPool = some e →
    (∀ m ∈ s.awaiting, m.entry ≠ e) →
    let moved := { s with sweep := { s.sweep with state := .processing, way := s.sweep.way + 1, claim := none } }
    let u := (s.entry e).use + 1
    (∀ b, s.busy l = some b → exec .internalPoolGrant s = .next (moved.setEntry b { s.entry b with recheck := true })) ∧
    (s.busy l = none → s.calm (setOf l) → s.judgeLine l = [] → s.memOp e = none → s.noneAwaiting (setOf l) →
      s.owingBuffer l = none → exec .internalPoolGrant s = .next (moved.setEntry e (Entry.free u))) ∧
    (∀ w r, s.busy l = none → s.calm (setOf l) → s.lineRec l = some (w, r) → s.judge l r ≠ [] → s.memOp e = none →
      (∀ c k, (c, k) ∈ s.judge l r → (s.port c).ready) →
      ∃ t, exec .internalPoolGrant s = .next t ∧
        (∀ c k, (c, k) ∈ s.judge l r →
          t.port c = s.recalled c l k e u ∧ (t.entry e).pending[c] = some { kind := k, placed := true }) ∧
        (∀ c, (∀ k, (c, k) ∉ s.judge l r) → t.port c = s.port c ∧ (t.entry e).pending[c] = none) ∧
        t.entry e = { Entry.free u with
          kind := .sweepRecall, line := l, phase := .recalling, pending := (t.entry e).pending, copy := some r } ∧
        (∀ f, f ≠ e → t.entry f = s.entry f) ∧ t = { moved with ports := t.ports, entries := t.entries })) ∧
  (∀ s : State, s.atRest → s.running = true → s.sweep.state = .gap →
    exec .sweepGapExpiry s = .next { s with sweep := { s.sweep with state := .processing, gapLeft := none } })

/-- The judgement of R165: a listed agent of a record is recalled where the line has no cacheable region or the agent no
read right, under REGION, or under its DRAIN, by RETURN if the record is EXCLUSIVE and by INVALIDATE if SHARED;
otherwise by SHARE where, under REGION, the record is EXCLUSIVE and the agent has no write right; an absent line
conforms. SWEEP_READ of way 7 with nothing to do there finishes the set: each criterion is counted down unless it joined
in that set; at 0 REGION leaves, DRAIN leaves unless its port is DRAINING and still holds lines, STRIP leaves where its
port holds none, and one that does not leave is restarted. A STRIP that leaves sends its FAILED port OFFLINE where
auto-offline is pending. The cursor moves to way 0 of the next set; an empty list makes the engine IDLE with SWEEP-IDLE
pending, the last set of a segment puts it in GAP. -/
def Obligations.SweepJudgesRecordsAndFinishesSets : Prop :=
  (∀ (s : State) (l : Line) (r : Rec) (y : Agent) (k : RecallKind),
    let out := if r.state = .exclusive then RecallKind.return else .invalidate
    let thrown := (s.hasCriterion .region = true ∧ (inRange s.settings l = false ∨ cacheable s.settings l = false ∨
      readRight s.settings y l = false)) ∨ s.hasCriterion (.drain y) = true
    ((y, k) ∈ s.judge l r ↔ AgentSet.has r.holders y = true ∧
      ((thrown ∧ k = out) ∨ (¬ thrown ∧ s.hasCriterion .region = true ∧ r.state = .exclusive ∧
        writeRight s.settings y l = false ∧ k = .share))) ∧
    (s.lineRec l = none → s.judgeLine l = []) ∧ (∀ w, s.lineRec l = some (w, r) → s.judgeLine l = s.judge l r)) ∧
  (∀ s : State, s.atRest → s.running = true → s.sweep.state = .processing → s.sweep.way = 7 →
    s.soundSet s.sweep.cursor → s.noLost s.sweep.cursor →
    (s.wayLine s.sweep.cursor 7 = none ∨ ∃ l, s.wayLine s.sweep.cursor 7 = some l ∧ s.busy l = none ∧
      s.judgeLine l = [] ∧ s.failedListed l none = []) →
    let next := s.sweep.cursor + 1
    let again := fun (c : Criterion) => some { c with joinSet := next, remaining := 2048, skip := false }
    let after := fun (c : Criterion) =>
      if c.skip then (if c.remaining = 0 then
          (match c.kind with
           | .region => none
           | .drain a => if (s.port a).state = .draining ∧ (s.port a).holding ≠ 0 then again c else none
           | .strip a => if (s.port a).holding = 0 then none else again c)
        else some { c with skip := false })
      else if c.remaining - 1 = 0 then
        (match c.kind with
         | .region => none
         | .drain a => if (s.port a).state = .draining ∧ (s.port a).holding ≠ 0 then again c else none
         | .strip a => if (s.port a).holding = 0 then none else again c)
      else some { c with remaining := c.remaining - 1 }
    let kept := s.sweep.criteria.filterMap after
    ∃ t, exec .sweepRead s = .next t ∧
      (∀ a, (∃ c ∈ s.sweep.criteria, c.kind = .strip a ∧ after c = none) → (s.port a).state = .failed →
        (s.port a).autoOffline = true →
        t.port a = { s.port a with state := .offline, autoOffline := false, holding := 0 }) ∧
      (∀ a, ((∀ c ∈ s.sweep.criteria, c.kind = .strip a → after c ≠ none) ∨ (s.port a).state ≠ .failed ∨
        (s.port a).autoOffline = false) → t.port a = s.port a) ∧
      (kept = [] → t.sweep = { state := .idle, cursor := next, way := 0, criteria := [], gapLeft := none, claim := none } ∧
        t.alertPending = s.alertPending ||| (1#12 <<< 8)) ∧
      (kept ≠ [] → s.sweep.cursor.toNat % 64 = 63 → s.settings.sweepGap ≠ 0 → t.alertPending = s.alertPending ∧
        t.sweep = { s.sweep with state := .gap, cursor := next, way := 0, criteria := kept
                                 gapLeft := some s.settings.sweepGap.toNat }) ∧
      (kept ≠ [] → (s.sweep.cursor.toNat % 64 ≠ 63 ∨ s.settings.sweepGap = 0) → t.alertPending = s.alertPending ∧
        t.sweep = { s.sweep with state := .processing, cursor := next, way := 0, criteria := kept }) ∧
      t = { s with ports := t.ports, sweep := t.sweep, alertPending := t.alertPending })

/-- A damaged word met by a scrub read of its set; in all clauses but the last every other word there is good, and the
scrubber moves on as ever. One flipped bit of an in-use way's state part or of the set header, and any damage of one tag
copy, is a soft fault: the word is rewritten as written before (both tag copies together), the soft counter rises, and
at or above the threshold SOFT-THRESHOLD goes pending. More flips of the header make the order the in-use ways
ascending; of an idle line's state part they set lost and strike, and due where strike was set, with a HARD-CHECK report
and a REBUILD claim; of a busy line's they are repaired from its entry's copy, with strike and the report. Each raises
the hard counter. More flips in both tag copies put the unit in LOST with TAG-LOST reported and all work dropped: that
the read ends there, with the cursor where it is and no other word of the set repaired or counted, is the model's
reading, log 25. Nothing else changes. -/
def Obligations.DamagedWordsAreRepairedOrLost : Prop :=
  ∀ (w : WayNo) (s : State), s.scrubReady → s.recordsLawful → s.noLost s.scrub.cursor →
    let n := s.scrub.cursor
    let y := (s.aset n).ways[w]
    let soft := if s.counters.soft < 65535 then s.counters.soft + 1 else 65535
    let hard := if s.counters.hard < 255 then s.counters.hard + 1 else 255
    let moved : Scrub := {
      cursor := n + 1, passes := if n = 2047 then s.scrub.passes + 1 else s.scrub.passes
      timer := some s.settings.scrubInterval.toNat }
    let others := ∀ v : WayNo, v ≠ w → ((s.aset n).ways[v]).sound = true
    let softened := fun (t : State) => { t with
      scrub := moved, counters := { t.counters with soft := soft }
      alertPending := if s.settings.softThreshold.toNat ≤ soft then t.alertPending ||| (1#12 <<< 10) else t.alertPending }
    let checked := fun (l : Line) (entry : Option Byte) (t : State) =>
      ({ t with scrub := moved, counters := { t.counters with hard := hard } } : State).report
        { kind := .hardCheck, sub := none, agent := none, line := some l, set := some n, way := some w, entry := entry
          time := s.unitTime }
    (oneFlip y.state.flips → y.tag1.flips = 0 → y.tag2.flips = 0 → (s.wayTag n w).isSome → others →
      (s.aset n).order.flips = 0 → ∃ t, exec .scrubIntervalExpiry s = .next t ∧
        t.aset n = { s.aset n with ways := (s.aset n).ways.set w { y with state := ⟨y.state.value, 0⟩ } } ∧
        (∀ k, k ≠ n → t.aset k = s.aset k) ∧ t = softened { s with sets := t.sets }) ∧
    (((y.tag1.flips ≠ 0 ∧ y.tag2.flips = 0) ∨ (y.tag1.flips = 0 ∧ y.tag2.flips ≠ 0)) →
      y.state.flips = 0 → (s.mark n w).disable = false → others → (s.aset n).order.flips = 0 →
      ∃ t, exec .scrubIntervalExpiry s = .next t ∧
        t.aset n = { s.aset n with
          ways := (s.aset n).ways.set w { y with tag1 := ⟨y.tag1.value, 0⟩, tag2 := ⟨y.tag1.value, 0⟩ } } ∧
        (∀ k, k ≠ n → t.aset k = s.aset k) ∧ t = softened { s with sets := t.sets }) ∧
    (y.sound = true → others → oneFlip (s.aset n).order.flips → ∃ t, exec .scrubIntervalExpiry s = .next t ∧
        t.aset n = { s.aset n with order := ⟨(s.aset n).order.value, 0⟩ } ∧
        (∀ k, k ≠ n → t.aset k = s.aset k) ∧ t = softened { s with sets := t.sets }) ∧
    (y.sound = true → others → manyFlips (s.aset n).order.flips → ∃ t, exec .scrubIntervalExpiry s = .next t ∧
        t.aset n = { s.aset n with order := ⟨ways.filter (fun v => (s.wayTag n v).isSome), 0⟩ } ∧
        (∀ k, k ≠ n → t.aset k = s.aset k) ∧
        t = { s with sets := t.sets, scrub := moved, counters := { s.counters with hard := hard } }) ∧
    (∀ l, manyFlips y.state.flips → y.tag1.flips = 0 → y.tag2.flips = 0 → s.wayLine n w = some l → others →
      (s.aset n).order.flips = 0 → s.busy l = none → (∀ c ∈ s.rebuildClaims, ¬ (c.set = n ∧ c.way = w)) →
      ∃ t, exec .scrubIntervalExpiry s = .next t ∧
        t.mark n w = { strike := true, disable := (s.mark n w).disable, lost := true
                       due := (s.mark n w).due || (s.mark n w).strike } ∧
        (∀ k v, (k, v) ≠ (n, w) → t.mark k v = s.mark k v) ∧
        t = checked l none { s with
          marks := t.marks, rebuildClaims := s.rebuildClaims ++ [{ line := l, set := n, way := w }] }) ∧
    (∀ l e r, manyFlips y.state.flips → y.tag1.flips = 0 → y.tag2.flips = 0 → s.wayLine n w = some l → others →
      (s.aset n).order.flips = 0 → s.busy l = some e → (s.entry e).phase ≠ .starting → (s.entry e).rebuild = false →
      (s.entry e).copy = some r → ∃ t, exec .scrubIntervalExpiry s = .next t ∧
        t.aset n = { s.aset n with ways := (s.aset n).ways.set w { y with state := ⟨r, 0⟩ } } ∧
        (∀ k, k ≠ n → t.aset k = s.aset k) ∧ t.mark n w = { s.mark n w with strike := true } ∧
        (∀ k v, (k, v) ≠ (n, w) → t.mark k v = s.mark k v) ∧
        t = checked l (some (BitVec.ofNat 8 e.val)) { s with sets := t.sets, marks := t.marks }) ∧
    (manyFlips y.tag1.flips → manyFlips y.tag2.flips → (s.mark n w).disable = false →
      (∀ v : WayNo, v < w → ((s.aset n).ways[v]).sound = true) → ∃ t, exec .scrubIntervalExpiry s = .next t ∧
        (∀ e, t.entry e = Entry.free (s.entry e).use) ∧ (∀ i, t.tag i = { s.tag i with op := none }) ∧
        (∀ b, t.buffer b = WbBuffer.free) ∧
        (∀ a, ((s.port a).state = .offline ∨ (s.port a).state = .failed) → t.port a = s.port a) ∧
        (∀ a, ((s.port a).state = .online ∨ (s.port a).state = .draining) → t.port a =
          { link := (s.port a).link, state := .offline, requests := [], head := .fresh, responses := []
            output := if (s.port a).link then [.portDown] else [], waiters := [], labels := [], recalls := []
            holding := (s.port a).holding, autoOffline := false, drainRequested := false }) ∧
        t = State.report { s with
          unitState := .lost, ports := t.ports, entries := t.entries, rebuildClaims := [], awaiting := []
          buffers := t.buffers, bufferWaiters := [], tags := t.tags, claimQueue := []
          sweep := { state := .idle, cursor := 0, way := 0, criteria := [], gapLeft := none, claim := none }
          scrub := { s.scrub with timer := none }, alertPending := s.alertPending ||| (1#12 <<< 11) }
          { kind := .tagLost, sub := none, agent := none, line := none, set := some n, way := some w, entry := none
            time := s.unitTime })

/-- The rebuild of a record whose state part is lost. INTERNAL_POOL_GRANT of its REBUILD claim on an idle line, one
claim a row (log 14), allocates a REBUILD entry and does its opening work (log 11): it holds the lost way, notes the
agents whose ports are FAILED, and recalls every ONLINE and DRAINING port with RETURN. The last answer ends it where no
data came in: FREE where it, or an earlier one, was given by a holder, otherwise POISON. Data is written to memory
first, and the rebuild ends with that write: FREE at MEM_DONE GOOD, POISON at FAILED. An agent that settles has its
count lowered by one then, one noted FAILED at the end. The way's lost mark is cleared; a way due for disabling is freed
and disabled with WAY-DISABLED pending, and a POISON is then made in the lowest-numbered available way. The entry is
FREE. -/
def Obligations.RebuildsBroadcastAndEnd : Prop :=
  ∀ (e : EntryNo) (l : Line) (w : WayNo) (s : State), s.atRest → s.running = true → s.noHeadWaits →
    s.tagsSound (setOf l) → s.lookup l = some w → s.isLost (setOf l) w = true →
    let n := setOf l
    let x := s.entry e
    (∀ c rest, s.rebuildClaims = c :: rest → c.line = l → s.freeEntry internalPool = some e → s.busy l = none →
      s.memOp e = none → (∃ a, (s.port a).attached = true) → (∀ a, (s.port a).attached = true → (s.port a).ready) →
      ∃ t, exec .internalPoolGrant s = .next t ∧
        (∀ a, (s.port a).attached = true → t.port a = s.recalled a l .return e (x.use + 1) ∧
          (t.entry e).pending[a] = some { kind := .return, placed := true }) ∧
        (∀ a, (s.port a).attached = false → t.port a = s.port a ∧ (t.entry e).pending[a] = none) ∧
        (∀ a : Agent, (t.entry e).notes[a] = if (s.port a).state = .failed then .failed else .neither) ∧
        t.entry e = { Entry.free (x.use + 1) with
          kind := .rebuild, line := l, phase := .recalling, pending := (t.entry e).pending, reserved := some w
          notes := (t.entry e).notes, rebuild := true } ∧
        (∀ f, f ≠ e → t.entry f = s.entry f) ∧
        t = { s with rebuildClaims := rest, ports := t.ports, entries := t.entries }) ∧
    (s.recordsLawful → s.busy l = some e → s.owingBuffer l = none → s.noneAwaiting n →
      x = { x with
        kind := .rebuild, origin := none, mask := 0, deferred := [], reserved := some w, recheck := false, reply := .none
        poisonOwed := false, rebuild := true, breaking := false } →
      (∀ a : Agent, x.notes[a] = .failed → (s.port a).state ≠ .draining) →
      let due := (s.mark n w).due
      let possible := fun (good : Bool) => good = true ∨ due = false ∨ (s.freeSearch n).isSome = true
      let noted := fun (a : Agent) => if x.notes[a] = .failed then 1 else 0
      let ended := fun (good : Bool) (t : State) =>
        t.entry e = Entry.free x.use ∧ (∀ f, f ≠ e → t.entry f = s.entry f) ∧ (∀ k, k ≠ n → t.aset k = s.aset k) ∧
        (∀ k v, (k, v) ≠ (n, w) → t.mark k v = s.mark k v) ∧
        t.mark n w = { strike := (s.mark n w).strike, disable := due, lost := false, due := false } ∧
        (good = true → t.lookup l = none ∧ (∀ v, v ≠ w → (t.aset n).ways[v] = (s.aset n).ways[v]) ∧
          (t.aset n).order.value = (s.aset n).order.value.filter (fun v => v != w)) ∧
        (good = false → due = false → (t.aset n).order = (s.aset n).order ∧
          t.lineRec l = some (w, { state := .poisoned, holders := 0, pin := none }) ∧
          (∀ v, v ≠ w → (t.aset n).ways[v] = (s.aset n).ways[v])) ∧
        (∀ u, good = false → due = true → s.freeSearch n = some u →
          t.lineRec l = some (u, { state := .poisoned, holders := 0, pin := none }) ∧
          (t.aset n).order.value = u :: (s.aset n).order.value.filter (fun v => v != w) ∧
          (∀ v, v ≠ w → v ≠ u → (t.aset n).ways[v] = (s.aset n).ways[v]))
      let disabled := if due then s.alertPending ||| (1#12 <<< 9) else s.alertPending
      (∀ b : Agent, x.phase = .recalling → x.data = .none → x.wrote = false → s.memOp e = none →
        x.pending = (Vector.replicate 6 none).set b (some { kind := .return, placed := true }) →
        x.notes[b] ≠ .failed → (s.port b).state = .online →
        let settled := fun (held : Bool) => if held = true ∧ x.notes[b] ≠ .settled then 1 else 0
        let asked := { s.port b with responses := (s.port b).responses.tail }
        (∀ held, s.takesHead b (.recallAck (entryByte e) x.use held) →
          let good := held || agents.any (fun a => x.notes[a] == .settled)
          possible good → ∃ t, exec (.responseHandlerRecallReply b) s = .next t ∧ ended good t ∧
            t.port b = { asked with holding := (s.port b).holding - settled held } ∧
            (∀ a, a ≠ b → t.port a = { s.port a with holding := (s.port a).holding - noted a }) ∧
            t = { s with sets := t.sets, marks := t.marks, ports := t.ports, entries := t.entries
                         alertPending := disabled }) ∧
        (∀ d i, s.takesHead b (.recallData (entryByte e) x.use d false) → s.tagReady l i →
          exec (.responseHandlerRecallReply b) s = .next ((({ s with
            memSent := s.memSent ++ [.write i ((s.tag i).use + 1) l d] } : State).setTag i
              (s.grantedTag i { claimant := .entry e, write := true, line := l })).setEntry e { x with
                phase := .writingMemory, pending := Vector.replicate 6 none, data := .fromHolder, buffer := d
                notes := x.notes.set b .settled, wrote := true } |>.setPort b { asked with
                  holding := (s.port b).holding - settled true }))) ∧
      (∀ (i : MemTagNo) (left : Nat) (status : Byte), x.phase = .writingMemory → x.pending = Vector.replicate 6 none →
        (s.tag i).op = some { claim := { claimant := .entry e, write := true, line := l }, issued := true, left := left } →
        (∀ j o, j ≠ i → (s.tag j).op = some o → o.claim.claimant ≠ .entry e) → s.claimQueue = [] →
        possible (status == 0) →
        ∃ t, exec (.memDone (BitVec.ofNat 8 i.val) (s.tag i).use status) s = .next t ∧ ended (status == 0) t ∧
          (∀ a, t.port a = { s.port a with holding := (s.port a).holding - noted a }) ∧
          t.tag i = { s.tag i with op := none } ∧ (∀ j, j ≠ i → t.tag j = s.tag j) ∧
          let done := { s with sets := t.sets, marks := t.marks, ports := t.ports, entries := t.entries, tags := t.tags
                               alertPending := disabled }
          t = if status = 0 then done else done.report
            { kind := .memoryWriteFault, sub := none, agent := none, line := some l, set := some n, way := some w
              entry := some (entryByte e), time := s.unitTime }))

/-! ### Maintenance frames -/

/-- While a command executes, every other maintenance command and every unknown command byte is answered BUSY and not
taken; the executing command runs on with its answer discarded (for an unknown byte the model's reading, log 29).
FRAME_ABORTED answers nothing and lets a started command run on with its answer discarded. UNKNOWN_COMMAND is BAD-ARG at
once. COMMAND_EXECUTION_END hands status and data to the frame, or drops them where the frame has ended. Nothing else
changes. -/
def Obligations.FrameEvents : Prop :=
  (∀ (c : Instr) (x : Execution) (s : State), s.resetPin = false → s.executing = some x →
      ((∃ k, c.maintenance = some k) ∨ c = .commandWhileBusy ∨ ∃ b, c = .unknownCommand b) →
      exec c s = .next { s with answer := some { status := .busy, data := [] }
                                executing := some { x with discard := true } }) ∧
  (∀ (b : Byte) (s : State), s.resetPin = false →
      (s.executing = none → exec .frameAborted s = .next { s with answer := none }) ∧
      (∀ x, s.executing = some x →
        exec .frameAborted s = .next { s with answer := none, executing := some { x with discard := true } }) ∧
      (s.executing = none →
        exec (.unknownCommand b) s = .next { s with answer := some { status := .badArg, data := [] } }) ∧
      (∀ x, s.executing = some x → x.discard = false →
        exec .commandExecutionEnd s = .next { s with executing := none, answer := some x.answer }) ∧
      (∀ x, s.executing = some x → x.discard = true →
        exec .commandExecutionEnd s = .next { s with executing := none }))

/-- READ_WORD of an index to 27 answers OK with the word's four bytes, most significant first, in every unit state; any
other index is BAD-ARG; nothing else changes. Then what each of the 28 words holds, bit field by bit field, with every
bit that the table of R192 does not give reading 0, and the ALERT output: asserted exactly while some cause is both
pending and enabled. -/
def Obligations.RegisterWordsAreReadAsTheyStand : Prop :=
  (∀ (index : Byte) (s : State), s.frameReady →
      (index.toNat ≤ 27 → exec (.readWord index) s = .next (s.answered .readWord { status := .ok, data :=
        [(s.word index.toNat).extractLsb' 24 8, (s.word index.toNat).extractLsb' 16 8,
         (s.word index.toNat).extractLsb' 8 8, (s.word index.toNat).extractLsb' 0 8] })) ∧
      (27 < index.toNat → exec (.readWord index) s = .next (s.answered .readWord { status := .badArg, data := [] }))) ∧
  (∀ s : State,
    s.word 0 = (match s.unitState with | .initializing => 0 | .running => 1 | .lost => 2) ∧
    s.word 1 = s.alertPending.setWidth 32 ∧ s.word 2 = s.settings.alertEnable.setWidth 32 ∧
    s.word 3 = (if s.settings.soleReader then 1 else 0) + (if s.settings.scrubEnable then 2 else 0) ∧
    s.word 4 = s.settings.recallTimeout.setWidth 32 ∧ s.word 5 = s.settings.memoryTimeout.setWidth 32 ∧
    s.word 6 = s.settings.pinTimeout.setWidth 32 ∧ s.word 7 = s.settings.scrubInterval.setWidth 32 ∧
    s.word 8 = s.settings.sweepGap.setWidth 32 ∧ s.word 9 = s.settings.softThreshold.setWidth 32 ∧
    (∀ a : Agent, (s.word (10 + a.val)).getLsbD 2 = (s.port a).link ∧
      (s.word (10 + a.val)).getLsbD 3 = (s.port a).autoOffline ∧
      (s.word (10 + a.val)).getLsbD 4 = (s.port a).drainRequested ∧
      ((s.word (10 + a.val)).extractLsb' 0 2).toNat =
        (match (s.port a).state with | .offline => 0 | .online => 1 | .draining => 2 | .failed => 3) ∧
      (s.word (10 + a.val)).extractLsb' 5 11 = 0 ∧
      ((s.port a).holding ≤ 16384 → ((s.word (10 + a.val)).extractLsb' 16 15).toNat = (s.port a).holding ∧
        (s.word (10 + a.val)).getLsbD 31 = false)) ∧
    s.word 16 = BitVec.ofNat 32 s.counters.soft ∧ s.word 17 = BitVec.ofNat 32 s.counters.hard ∧
    s.word 18 = BitVec.ofNat 32 s.counters.uncaptured ∧ s.word 19 = BitVec.ofNat 32 s.counters.lateDrop ∧
    s.word 20 = BitVec.ofNat 32 s.counters.stale ∧ s.word 21 = BitVec.ofNat 32 s.counters.lateMem ∧
    s.word 22 = BitVec.ofNat 32 s.counters.memCorrected ∧ s.word 23 = s.scrub.passes ∧
    (s.word 24).getLsbD 0 = (s.sweep.state != .idle) ∧ (s.word 24).extractLsb' 1 11 = s.sweep.cursor ∧
    (s.word 24).getLsbD 12 = s.hasCriterion .region ∧ (s.word 24).extractLsb' 13 3 = 0 ∧
    (∀ a : Agent, (s.word 24).getLsbD (16 + a.val) = s.hasCriterion (.strip a) ∧
      (s.word 24).getLsbD (24 + a.val) = s.hasCriterion (.drain a)) ∧
    (s.word 24).extractLsb' 22 2 = 0 ∧ (s.word 24).extractLsb' 30 2 = 0 ∧
    ((s.word 25).extractLsb' 0 5).toNat =
      (entryNos.filter (fun e => decide (e.val < 20) && (s.entry e).phase != .free)).length ∧
    (s.word 25).extractLsb' 5 3 = 0 ∧
    ((s.word 25).extractLsb' 8 3).toNat =
      (entryNos.filter (fun e => decide (20 ≤ e.val) && (s.entry e).phase != .free)).length ∧
    (s.word 25).extractLsb' 11 5 = 0 ∧
    ((s.word 25).extractLsb' 16 4).toNat = (bufferNos.filter (fun b => (s.buffer b).state != .free)).length ∧
    (s.word 25).extractLsb' 20 4 = 0 ∧
    (s.pinCount ≤ 4 → ((s.word 25).extractLsb' 24 3).toNat = s.pinCount ∧ (s.word 25).extractLsb' 27 5 = 0) ∧
    s.word 26 = BitVec.ofNat 32 s.disabledWays ∧ s.word 27 = s.unitTime ∧
    (s.alertOutput = true ↔ ∃ i, i < 12 ∧ s.alertPending.getLsbD i = true ∧ s.settings.alertEnable.getLsbD i = true))

/-- WRITE_WORD of a timer or setting word replaces the value where it is in range and is answered OK; out of range it is
BAD-ARG and the old value stays. A scrub interval also starts or stops the scrubber. A read-only word is NOT-ALLOWED and
an index past 27 BAD-ARG, with nothing changed. Writing the alert pending word clears each flag written as 1 and leaves
the others; the alert enable word and the configuration word are replaced; each is answered OK, and the configuration
starts or stops the scrubber. That the four rows that name words 1, 2 and 3 are WRITE_WORD of those words, a flag row
leaving the other flag as it stands, is the model's reading, log 35. -/
def Obligations.WordsAreWritten : Prop :=
  (∀ (index : Byte) (v : BitVec 32) (s : State), s.frameReady →
      let ok := fun (t : State) => t.answered .writeWord { status := .ok, data := [] }
      let bad := s.answered .writeWord { status := .badArg, data := [] }
      exec (.writeWord 4 v) s = .next (if 100 ≤ v.toNat ∧ v.toNat ≤ 65535
        then ok { s with settings := { s.settings with recallTimeout := v.setWidth 16 } } else bad) ∧
      exec (.writeWord 5 v) s = .next (if 50 ≤ v.toNat ∧ v.toNat ≤ 65535
        then ok { s with settings := { s.settings with memoryTimeout := v.setWidth 16 } } else bad) ∧
      exec (.writeWord 6 v) s = .next (if 10 ≤ v.toNat ∧ v.toNat ≤ 65535
        then ok { s with settings := { s.settings with pinTimeout := v.setWidth 16 } } else bad) ∧
      (v.toNat ≤ 65535 → exec (.writeWord 7 v) s =
        .next (ok ({ s with settings := { s.settings with scrubInterval := v.setWidth 16 } } : State).refreshScrub)) ∧
      exec (.writeWord 8 v) s = .next (if v.toNat ≤ 1000
        then ok { s with settings := { s.settings with sweepGap := v.setWidth 16 } } else bad) ∧
      exec (.writeWord 9 v) s = .next (if 1 ≤ v.toNat ∧ v.toNat ≤ 65535
        then ok { s with settings := { s.settings with softThreshold := v.setWidth 16 } } else bad) ∧
      (65535 < v.toNat → exec (.writeWord 7 v) s = .next bad) ∧
      ((index = 0 ∨ (10 ≤ index.toNat ∧ index.toNat ≤ 27)) →
        exec (.writeWord index v) s = .next (s.answered .writeWord { status := .notAllowed, data := [] })) ∧
      (27 < index.toNat → exec (.writeWord index v) s = .next bad)) ∧
  (∀ (v : BitVec 32) (on : Bool) (s : State), s.frameReady →
      let ok := fun (t : State) => t.answered .writeWord { status := .ok, data := [] }
      let config := fun (sole scrub : Bool) =>
        ({ s with settings := { s.settings with soleReader := sole, scrubEnable := scrub } } : State).refreshScrub
      exec (.writeAlertPending v) s = .next (ok { s with alertPending := s.alertPending &&& ~~~(v.setWidth 12) }) ∧
      exec (.writeAlertEnable v) s =
        .next (ok { s with settings := { s.settings with alertEnable := v.setWidth 12 } }) ∧
      exec (.scrubEnable on) s = .next (ok (config s.settings.soleReader on)) ∧
      exec (.soleReaderExclusive on) s = .next (ok (config on s.settings.scrubEnable)) ∧
      exec (.writeWord 1 v) s = exec (.writeAlertPending v) s ∧ exec (.writeWord 2 v) s = exec (.writeAlertEnable v) s ∧
      exec (.writeWord 3 v) s = .next (ok (config (v.getLsbD 0) (v.getLsbD 1))))

/-- INSPECT of a way of a calm set answers OK and changes nothing: a free way, a disabled way, or an in-use way with its
record, tag and the entry of a busy line; every reply ends with the set's recency order. -/
def Obligations.InspectShowsAWay : Prop :=
  ∀ (set : BitVec 16) (way : Byte) (n : SetNo) (w : WayNo) (s : State), s.frameReady → s.running = true →
    set.toNat = n.toNat → way.toNat = w.val → s.calm n →
    let marks := (BitVec.ofBool (s.mark n w).strike).setWidth 8 ||| ((BitVec.ofBool (s.mark n w).disable).setWidth 8 <<< 1) |||
      ((BitVec.ofBool (s.mark n w).lost).setWidth 8 <<< 2) ||| ((BitVec.ofBool (s.mark n w).due).setWidth 8 <<< 3)
    let reply := fun (l : List Byte) =>
      s.answered .inspect { status := .ok, data := l ++ orderBytes (s.aset n).order.value }
    ((s.mark n w).disable = true → exec (.inspect set way) s = .next (reply [2, 0, 0, 0, 0, 0, marks, 0])) ∧
    ((s.mark n w).disable = false → s.wayTag n w = none →
      exec (.inspect set way) s = .next (reply [0, 0, 0, 0, 0, 0, marks, 0])) ∧
    (∀ t, s.wayTag n w = some t → exec (.inspect set way) s = .next (reply
      [1, (match (s.recAt n w).state with | .shared => 0 | .exclusive => 1 | .poisoned => 2),
       (s.recAt n w).holders.setWidth 8,
       (match (s.recAt n w).pin with | some a => 0x80 ||| BitVec.ofNat 8 a.val | none => 0),
       (t.extractLsb' 8 7).setWidth 8, t.extractLsb' 0 8, marks,
       (match s.busy (lineOf n t) with | some e => 0x80 ||| BitVec.ofNat 8 e.val | none => 0)]))

/-- INSPECT and WAY_ENABLE with a set past 2047 or a way past 7, PORT_RESET of an agent past 5, REGION_READ and
REGION_WRITE of a slot past 15, CLEAR_POISON of a line past 0x3FFFFFF, and INJECT with any argument out of range (a bit
past 21 in a tag copy, past 17 in a state part, past 34 in a set header; two bits that are one) are BAD-ARG and change
nothing; that they are so outside RUNNING too is the model's reading, log 27. With their arguments in range, INSPECT,
WAY_ENABLE, PORT_RESET, CLEAR_POISON and INJECT are refused outside RUNNING with nothing changed: BUSY in INITIALIZING,
LOST in LOST. -/
def Obligations.RefusedCommandsChangeNothing : Prop :=
  ∀ (c : Instr) (k : MaintCmd) (s : State), s.frameReady → c.maintenance = some k →
    let bits := fun (p : Byte) => if p = 2 then 18 else if p = 3 then 35 else 22
    (((∃ n w, (c = .inspect n w ∨ c = .wayEnable n w) ∧ (2048 ≤ n.toNat ∨ 8 ≤ w.toNat)) ∨
      (∃ a, c = .portReset a ∧ 6 ≤ a.toNat) ∨ (∃ g, c = .regionRead g ∧ 16 ≤ g.toNat) ∨
      (∃ g d, c = .regionWrite g d ∧ 16 ≤ g.toNat) ∨ (∃ l, c = .clearPoison l ∧ 67108864 ≤ l.toNat) ∨
      (∃ n w p m i j, c = .inject n w p m i j ∧ (2048 ≤ n.toNat ∨ 8 ≤ w.toNat ∨ 4 ≤ p.toNat ∨ m = 0 ∨ 3 ≤ m.toNat ∨
        bits p ≤ i.toNat ∨ (m = 2 ∧ (bits p ≤ j.toNat ∨ i = j))))) →
      exec c s = .next (s.answered k { status := .badArg, data := [] })) ∧
    (s.running = false →
      ((∃ n w, (c = .inspect n w ∨ c = .wayEnable n w) ∧ n.toNat < 2048 ∧ w.toNat < 8) ∨
      (∃ a, c = .portReset a ∧ a.toNat < 6) ∨ (∃ l, c = .clearPoison l ∧ l.toNat < 67108864) ∨
      (∃ n w p m i j, c = .inject n w p m i j ∧ n.toNat < 2048 ∧ w.toNat < 8 ∧ p.toNat < 4 ∧ i.toNat < bits p ∧
        (m = 1 ∨ (m = 2 ∧ j.toNat < bits p ∧ i ≠ j)))) →
      exec c s = .next (s.answered k { status := if s.unitState = .lost then .lost else .busy, data := [] }))

/-! ### Regions -/

/-- REGION_READ returns the slot's descriptor as it stands, enabled or not, in every unit state, and changes nothing; a
slot past 15 is BAD-ARG; after power-on a slot reads back disabled, base 0, size 1, both sets empty, not cacheable; after
a REGION-WRITE answered BAD-ARG or OVERLAP the slot keeps its old descriptor. -/
def Obligations.RegionReadReturnsTheSlot : Prop :=
  ∀ (slot : Byte) (d : BitVec 64) (s : State), s.frameReady →
    (∀ g : SlotNo, slot.toNat = g.val → exec (.regionRead slot) s = .next (s.answered .regionRead { status := .ok, data :=
      [(if (s.region g).enabled then 1 else 0) + (if (s.region g).cacheable then 2 else 0),
       BitVec.ofNat 8 ((s.region g).base / 256), BitVec.ofNat 8 (s.region g).base,
       BitVec.ofNat 8 ((s.region g).size / 65536), BitVec.ofNat 8 ((s.region g).size / 256),
       BitVec.ofNat 8 (s.region g).size, (s.region g).readSet.setWidth 8, (s.region g).writeSet.setWidth 8] })) ∧
    (16 ≤ slot.toNat →
      exec (.regionRead slot) s = .next (s.answered .regionRead { status := .badArg, data := [] })) ∧
    (slot.toNat < 16 → s.settings.regions = State.reset.settings.regions → exec (.regionRead slot) s =
      .next (s.answered .regionRead { status := .ok, data := [0, 0, 0, 0, 0, 1, 0, 0] })) ∧
    (∀ t x, exec (.regionWrite slot d) s = .next t → t.executing = some x →
      (x.answer.status = .badArg ∨ x.answer.status = .overlap) → ∀ g, t.region g = s.region g)

/-- REGION_WRITE is BAD-ARG, and changes nothing, for a slot past 15, a size outside 1 to 65,536, a base plus size above
65,536, or a write set with an agent outside the read set, enabled or not; any other descriptor goes on to the overlap
test. A disabled one is then stored as written. An enabled region with an empty read set is in range, and its requests
are refused PROTECT. -/
def Obligations.RegionWriteChecksItsArguments : Prop :=
  (∀ (slot : Byte) (d : BitVec 64) (s : State), s.frameReady →
    ((16 ≤ slot.toNat ∨ (regionOfBytes d).size = 0 ∨ 65536 < (regionOfBytes d).size ∨ 65536 ≤ (regionOfBytes d).base ∨
        65536 < (regionOfBytes d).base + (regionOfBytes d).size ∨
        ∃ a : Agent, AgentSet.has (regionOfBytes d).writeSet a = true ∧ AgentSet.has (regionOfBytes d).readSet a = false) →
      exec (.regionWrite slot d) s = .next (s.answered .regionWrite { status := .badArg, data := [] })) ∧
    (∀ g : SlotNo, slot.toNat = g.val → 1 ≤ (regionOfBytes d).size → (regionOfBytes d).size ≤ 65536 →
      (regionOfBytes d).base + (regionOfBytes d).size ≤ 65536 →
      (∀ a : Agent, AgentSet.has (regionOfBytes d).writeSet a = true → AgentSet.has (regionOfBytes d).readSet a = true) →
      (s.overlapsOther g (regionOfBytes d) = true →
        exec (.regionWrite slot d) s = .next (s.answered .regionWrite { status := .overlap, data := [] })) ∧
      (s.overlapsOther g (regionOfBytes d) = false → ∃ t, exec (.regionWrite slot d) s = .next t ∧
        t.region g = regionOfBytes d ∧ t.executing =
          some { command := .regionWrite, answer := { status := .ok, data := [] }, discard := false }) ∧
      ((regionOfBytes d).enabled = false → s.overlapsOther g (regionOfBytes d) = false))) ∧
  (∀ (t : Settings) (l : Line) (r : Region) (k : ReqKind) (a : Agent), regionOf t l = some r → r.readSet = 0 →
    inRange t l = true ∧ regionCheck t k a l = some .protect)

/-- Two regions, of a size that is not 0, overlap when they have a unit in common, which adjacent regions have not. An
enabled descriptor is compared with every other slot that is enabled, not with its own, and an overlap is answered
OVERLAP and changes nothing; a disabled descriptor is compared with none. -/
def Obligations.EnabledRegionsDoNotOverlap : Prop :=
  (∀ r q : Region, 1 ≤ r.size → 1 ≤ q.size →
    (r.overlaps q = true ↔ ∃ u, r.base ≤ u ∧ u < r.base + r.size ∧ q.base ≤ u ∧ u < q.base + q.size)) ∧
  (∀ r q : Region, r.base + r.size = q.base → r.overlaps q = false) ∧
  (∀ (slot : Byte) (d : BitVec 64) (g h : SlotNo) (s : State), s.frameReady → slot.toNat = g.val →
    (regionOfBytes d).sound → (regionOfBytes d).enabled = true → h ≠ g → (s.region h).enabled = true →
    (regionOfBytes d).overlaps (s.region h) = true →
    exec (.regionWrite slot d) s = .next (s.answered .regionWrite { status := .overlap, data := [] })) ∧
  (∀ (slot : Byte) (d : BitVec 64) (g : SlotNo) (s : State), s.frameReady → slot.toNat = g.val →
    (regionOfBytes d).sound →
    ((regionOfBytes d).enabled = false ∨
      ∀ h : SlotNo, h ≠ g → (s.region h).enabled = true → (regionOfBytes d).overlaps (s.region h) = false) →
    ∃ t, exec (.regionWrite slot d) s = .next t ∧ t.region g = regionOfBytes d ∧ (∀ h, h ≠ g → t.region h = s.region h) ∧
      t.executing = some { command := .regionWrite, answer := { status := .ok, data := [] }, discard := false })

/-- A REGION_WRITE taken in RUNNING replaces the descriptor, sets recheck on every active entry, and has the REGION
criterion join at the tail, or restart in its place, with the cursor's set and 2048 sets; every other criterion stays, no
second REGION criterion comes to stand, and an idle engine enters PROCESSING at way 0. Taken outside RUNNING it replaces
the descriptor and does nothing further. It is answered OK. -/
def Obligations.RegionWriteIsTaken : Prop :=
  ∀ (slot : Byte) (d : BitVec 64) (g : SlotNo) (s : State), s.frameReady → slot.toNat = g.val →
    (regionOfBytes d).sound → s.overlapsOther g (regionOfBytes d) = false →
    let stored := { s with settings := { s.settings with regions := s.settings.regions.set g (regionOfBytes d) } }
    let joined : Criterion := { kind := .region, joinSet := s.sweep.cursor, remaining := 2048
                                skip := s.sweep.state == .processing || s.sweep.state == .claiming }
    (s.running = false → exec (.regionWrite slot d) s =
      .next (State.answered stored .regionWrite { status := .ok, data := [] })) ∧
    (s.running = true → ∃ t, exec (.regionWrite slot d) s = .next t ∧
      (∀ e, (s.entry e).phase ≠ .free → t.entry e = { s.entry e with recheck := true }) ∧
      (∀ e, (s.entry e).phase = .free → t.entry e = s.entry e) ∧
      t.sweep = { s.sweep with
        criteria := if s.hasCriterion .region then s.sweep.criteria.map (fun d => if d.kind = .region then joined else d)
          else s.sweep.criteria ++ [joined]
        state := if s.sweep.state = .idle then .processing else s.sweep.state
        way := if s.sweep.state = .idle then 0 else s.sweep.way } ∧
      t.sweep.criteria.filter (fun d => d.kind != .region) = s.sweep.criteria.filter (fun d => d.kind != .region) ∧
      ((s.sweep.criteria.filter (fun d => d.kind == .region)).length ≤ 1 →
        t.sweep.criteria.filter (fun d => d.kind == .region) = [joined]) ∧
      t = State.answered { stored with entries := t.entries, sweep := t.sweep } .regionWrite { status := .ok, data := [] })

/-! ### The other maintenance commands -/

/-- PORT_RESET in RUNNING is answered OK. An OFFLINE port's output queue is emptied. A FAILED port whose STRIP criterion
is in the list has auto-offline pending set; without it the port goes OFFLINE with its holding count 0. An ONLINE or
DRAINING port fails, with AGENT-FAILED and auto-offline pending. -/
def Obligations.PortResetActsByPortState : Prop :=
  ∀ (agent : Byte) (a : Agent) (s : State), s.frameReady → s.running = true → agent.toNat = a.val →
    let ok := fun (t : State) => t.answered .portReset { status := .ok, data := [] }
    ((s.port a).state = .offline →
      exec (.portReset agent) s = .next (ok (s.setPort a { s.port a with output := [] }))) ∧
    ((s.port a).state = .failed → s.hasCriterion (.strip a) = true →
      exec (.portReset agent) s = .next (ok (s.setPort a { s.port a with autoOffline := true }))) ∧
    ((s.port a).state = .failed → s.hasCriterion (.strip a) = false →
      exec (.portReset agent) s = .next (ok (s.setPort a { s.port a with
        state := .offline, autoOffline := false, holding := 0 }))) ∧
    (((s.port a).state = .online ∨ (s.port a).state = .draining) → ∃ t, exec (.portReset agent) s = .next t ∧
      (t.port a).state = .failed ∧ (t.port a).autoOffline = true ∧ t.alertPending.getLsbD (2 + a.val) = true ∧
      t.settings = s.settings ∧ t.executing = some { command := .portReset, answer := { status := .ok, data := [] }, discard := false })

/-- CLEAR_UNIT, in any unit state, frees every entry, tag, buffer and claim, empties the sweep, sends every port that is
not OFFLINE offline with PORT-DOWN where its link is up, and starts the clear walk at set 0 with the holding counts 0.
The array, marks, settings, counters, capture record, alerts and unit time are kept. -/
def Obligations.ClearUnitDropsAllWork : Prop :=
  ∀ s : State, s.frameReady → ∃ t, exec .clearUnit s = .next t ∧
    t.unitState = .initializing ∧ t.walk = 0 ∧
    (∀ e, t.entry e = Entry.free (s.entry e).use) ∧ (∀ i, t.tag i = { s.tag i with op := none }) ∧
    (∀ b, t.buffer b = WbBuffer.free) ∧
    t.sweep = { state := .idle, cursor := 0, way := 0, criteria := [], gapLeft := none, claim := none } ∧
    t.scrub = { s.scrub with timer := none } ∧
    (∀ a, (s.port a).state = .offline → t.port a = { s.port a with holding := 0 }) ∧
    (∀ a, (s.port a).state ≠ .offline → t.port a =
      { link := (s.port a).link, state := .offline, requests := [], head := .fresh, responses := []
        output := if (s.port a).link then [.portDown] else [], waiters := [], labels := [], recalls := [], holding := 0
        autoOffline := false, drainRequested := false }) ∧
    t = State.answered { s with
      unitState := .initializing, walk := 0, ports := t.ports, entries := t.entries, rebuildClaims := [], awaiting := []
      buffers := t.buffers, bufferWaiters := [], tags := t.tags, claimQueue := [], sweep := t.sweep, scrub := t.scrub }
      .clearUnit { status := .ok, data := [] }

/-- INJECT of one bit of a state part flips that stored bit and no other, leaves the stored value, clears SCRUB-ENABLE and
so stops the scrubber, and is answered OK; every other way and set stays. -/
def Obligations.InjectFlipsAStoredBit : Prop :=
  ∀ (set : BitVec 16) (way i j : Byte) (n : SetNo) (w : WayNo) (s : State), s.frameReady → s.running = true →
    s.arrayLawful → set.toNat = n.toNat → way.toNat = w.val → i.toNat < 18 →
    ∃ t, exec (.inject set way 2 1 i j) s = .next t ∧
      (t.aset n).ways[w] = { (s.aset n).ways[w] with
        state := ⟨((s.aset n).ways[w]).state.value, ((s.aset n).ways[w]).state.flips ^^^ (1#18 <<< i.toNat)⟩ } ∧
      (∀ v : WayNo, v ≠ w → (t.aset n).ways[v] = (s.aset n).ways[v]) ∧ (t.aset n).order = (s.aset n).order ∧
      (∀ k, k ≠ n → t.aset k = s.aset k) ∧
      t = State.answered { s with
        sets := t.sets, settings := { s.settings with scrubEnable := false }, scrub := { s.scrub with timer := none } }
        .inject { status := .ok, data := [] }

/-- CLEAR_POISON in RUNNING over a calm set. A busy line: BUSY, no effect. An idle line with a POISONED record: OK, the
record is freed and its way leaves the recency order. An idle line absent or in another state: NOT-ALLOWED, no effect. -/
def Obligations.ClearPoisonFreesTheRecord : Prop :=
  ∀ (line : BitVec 32) (l : Line) (s : State), s.frameReady → s.running = true → line.toNat = l.toNat →
    s.calm (setOf l) →
    (∀ e, s.busy l = some e →
      exec (.clearPoison line) s = .next (s.answered .clearPoison { status := .busy, data := [] })) ∧
    (s.busy l = none → (s.lineRec l = none ∨ ∃ w r, s.lineRec l = some (w, r) ∧ r.state ≠ .poisoned) →
      exec (.clearPoison line) s = .next (s.answered .clearPoison { status := .notAllowed, data := [] })) ∧
    (∀ w, s.busy l = none → s.recordsLawful → s.noneAwaiting (setOf l) →
      s.lineRec l = some (w, { state := .poisoned, holders := 0, pin := none }) →
      ∃ t, exec (.clearPoison line) s = .next t ∧ t.lookup l = none ∧
        (t.aset (setOf l)).order.value = (s.aset (setOf l)).order.value.filter (fun v => v != w) ∧
        (∀ v : WayNo, v ≠ w → (t.aset (setOf l)).ways[v] = (s.aset (setOf l)).ways[v]) ∧
        (∀ k, k ≠ setOf l → t.aset k = s.aset k) ∧
        t = State.answered { s with sets := t.sets } .clearPoison { status := .ok, data := [] })

/-- WAY_ENABLE in RUNNING of a way of a sound set: NOT-ALLOWED where the way is in use or reserved; otherwise its strike
and disable marks are cleared, its other marks stay, and the answer is OK. -/
def Obligations.WayEnableClearsTheMarks : Prop :=
  ∀ (set : BitVec 16) (way : Byte) (n : SetNo) (w : WayNo) (s : State), s.frameReady → s.running = true →
    set.toNat = n.toNat → way.toNat = w.val → s.soundSet n →
    (((s.wayTag n w).isSome ∨ s.isReserved n w = true) → exec (.wayEnable set way) s =
      .next (s.answered .wayEnable { status := .notAllowed, data := [] })) ∧
    (s.wayTag n w = none → s.isReserved n w = false → s.arrayLawful → s.noneAwaiting n →
      ∃ t, exec (.wayEnable set way) s = .next t ∧
        t.mark n w = { s.mark n w with strike := false, disable := false } ∧
        (∀ k v, (k, v) ≠ (n, w) → t.mark k v = s.mark k v) ∧
        t = State.answered { s with marks := t.marks } .wayEnable { status := .ok, data := [] })

/-- CAPTURE_READ answers OK with the record and the uncaptured count in the 17-byte layout, in every unit state, and
then clears both; nothing else changes. Fields that are absent read 0, and with no record the first 16 bytes are 0 (the
model's choice, log 59). That bit 2 is set, with the way byte 0, for a report with a set and no way is the model's
choice too, log 26. -/
def Obligations.CaptureReadReturnsAndClears : Prop :=
  ∀ s : State, s.frameReady →
    let cleared := { s with capture := none, counters := { s.counters with uncaptured := 0 } }
    let count := BitVec.ofNat 8 s.counters.uncaptured
    (s.capture = none → exec .captureRead s = .next (State.answered cleared .captureRead
      { status := .ok, data := List.replicate 16 0 ++ [count] })) ∧
    (∀ r, s.capture = some r →
      let line := (r.line.getD 0).setWidth 32
      let set := (r.set.getD 0).setWidth 16
      exec .captureRead s = .next (State.answered cleared .captureRead { status := .ok, data :=
        [0x80 ||| (match r.kind with
          | .hardCheck => 1 | .tagLost => 2 | .recallTimeout => 3 | .linkDown => 4 | .memoryReadFault => 5
          | .memoryWriteFault => 6 | .memoryTimeout => 7 | .protocol => 8),
         (match r.sub with
          | none => 0 | some .labelInUse => 1 | some .staleReply => 2 | some .unexpected => 3 | some .held => 4
          | some .queueFull => 5),
         (if r.agent.isSome then 1 else 0) + (if r.line.isSome then 2 else 0) + (if r.set.isSome then 4 else 0) +
           (if r.entry.isSome then 8 else 0),
         (match r.agent with | some a => BitVec.ofNat 8 a.val | none => 0),
         line.extractLsb' 24 8, line.extractLsb' 16 8, line.extractLsb' 8 8, line.extractLsb' 0 8,
         set.extractLsb' 8 8, set.extractLsb' 0 8,
         (match r.way with | some w => BitVec.ofNat 8 w.val | none => 0), r.entry.getD 0,
         r.time.extractLsb' 24 8, r.time.extractLsb' 16 8, r.time.extractLsb' 8 8, r.time.extractLsb' 0 8, count] }))

/-! ### Lines and the laws -/

/-- The set of a line is (line mod 2048) XOR ((line div 2048) mod 2048) and its tag line div 2048; set and tag together
give the line back, and a set and a tag name one line, which falls in that set with that tag. -/
def Obligations.SetAndTagNameOneLine : Prop :=
  (∀ l : Line, (setOf l).toNat = (l.toNat % 2048) ^^^ ((l.toNat / 2048) % 2048) ∧ (tagOf l).toNat = l.toNat / 2048 ∧
    lineOf (setOf l) (tagOf l) = l) ∧
  (∀ (n : SetNo) (t : RecTag), setOf (lineOf n t) = n ∧ tagOf (lineOf n t) = t ∧
    (lineOf n t).toNat = t.toNat * 2048 + (n.toNat ^^^ (t.toNat % 2048)))

/-- The laws hold at reset: lawful records, bounded queues and counters, settings in range, lawful transaction table. -/
def Obligations.ResetKeepsTheLaws : Prop :=
  State.reset.recordsLawful ∧ State.reset.portsBounded ∧ State.reset.countersBounded ∧ State.reset.settings.lawful ∧
  State.reset.tableLawful

/-- Every step keeps the records lawful: states, holders and pins as R4 and R5 allow, no line in two ways of its set, the
recency order the in-use ways once each, disabled ways free, both stores in canonical form. -/
def Obligations.EveryStepKeepsTheRecordsLawful : Prop :=
  ∀ s t : State, s.recordsLawful → step s = .next t → t.recordsLawful

/-- Every step keeps the queues within their sizes, the requests in a port's queue its own agent's, the labels of a port
distinct, the counters within their ranges, and the uncaptured count 0 while the capture record is free. -/
def Obligations.EveryStepKeepsTheQueuesBounded : Prop :=
  ∀ s t : State, s.portsBounded → s.countersBounded → step s = .next t → t.portsBounded ∧ t.countersBounded

/-- Every step keeps the settings in their ranges and the enabled regions sound and without overlap. -/
def Obligations.EveryStepKeepsTheSettingsLawful : Prop :=
  ∀ s t : State, s.settings.lawful → step s = .next t → t.settings.lawful

/-- Every step keeps the transaction table lawful: at most one active entry for a line, deferred requests only for the
entry's line and at most one of each agent, so at most six, nothing that waits to be written while an entry is PINNED, at
most 4 pins, at most 20 places of the agent allowance. -/
def Obligations.EveryStepKeepsTheTableLawful : Prop :=
  ∀ s t : State, s.tableLawful → step s = .next t →
    t.tableLawful ∧
    (∀ e f : EntryNo, (t.entry e).phase ≠ .free → (t.entry f).phase ≠ .free → (t.entry e).line = (t.entry f).line → e = f) ∧
    (∀ e : EntryNo, (t.entry e).deferred.length ≤ 6 ∧ ((t.entry e).phase = .pinned → (t.entry e).saves = false)) ∧
    t.pinCount ≤ 4 ∧ t.placesHeld ≤ 20
end

