-- ==== Sys2Proof/Laws/State.lean ====
section
/-! SUPPORT. What each named update of State leaves as it was, field by field, and what it reads back. -/

namespace Sys2Proof.Machine

variable (s : State)

/-! ### setPort -/

@[simp] theorem State.setPort_resetPin (a : Agent) (p : Port) : (s.setPort a p).resetPin = s.resetPin := rfl
@[simp] theorem State.setPort_physLink (a : Agent) (p : Port) : (s.setPort a p).physLink = s.physLink := rfl
@[simp] theorem State.setPort_unitState (a : Agent) (p : Port) : (s.setPort a p).unitState = s.unitState := rfl
@[simp] theorem State.setPort_walk (a : Agent) (p : Port) : (s.setPort a p).walk = s.walk := rfl
@[simp] theorem State.setPort_sets (a : Agent) (p : Port) : (s.setPort a p).sets = s.sets := rfl
@[simp] theorem State.setPort_marks (a : Agent) (p : Port) : (s.setPort a p).marks = s.marks := rfl
@[simp] theorem State.setPort_entries (a : Agent) (p : Port) : (s.setPort a p).entries = s.entries := rfl
@[simp] theorem State.setPort_position (a : Agent) (p : Port) : (s.setPort a p).position = s.position := rfl
@[simp] theorem State.setPort_rebuildClaims (a : Agent) (p : Port) : (s.setPort a p).rebuildClaims = s.rebuildClaims := rfl
@[simp] theorem State.setPort_awaiting (a : Agent) (p : Port) : (s.setPort a p).awaiting = s.awaiting := rfl
@[simp] theorem State.setPort_buffers (a : Agent) (p : Port) : (s.setPort a p).buffers = s.buffers := rfl
@[simp] theorem State.setPort_bufferWaiters (a : Agent) (p : Port) : (s.setPort a p).bufferWaiters = s.bufferWaiters := rfl
@[simp] theorem State.setPort_tags (a : Agent) (p : Port) : (s.setPort a p).tags = s.tags := rfl
@[simp] theorem State.setPort_claimQueue (a : Agent) (p : Port) : (s.setPort a p).claimQueue = s.claimQueue := rfl
@[simp] theorem State.setPort_memSent (a : Agent) (p : Port) : (s.setPort a p).memSent = s.memSent := rfl
@[simp] theorem State.setPort_settings (a : Agent) (p : Port) : (s.setPort a p).settings = s.settings := rfl
@[simp] theorem State.setPort_sweep (a : Agent) (p : Port) : (s.setPort a p).sweep = s.sweep := rfl
@[simp] theorem State.setPort_scrub (a : Agent) (p : Port) : (s.setPort a p).scrub = s.scrub := rfl
@[simp] theorem State.setPort_capture (a : Agent) (p : Port) : (s.setPort a p).capture = s.capture := rfl
@[simp] theorem State.setPort_counters (a : Agent) (p : Port) : (s.setPort a p).counters = s.counters := rfl
@[simp] theorem State.setPort_alertPending (a : Agent) (p : Port) : (s.setPort a p).alertPending = s.alertPending := rfl
@[simp] theorem State.setPort_unitTime (a : Agent) (p : Port) : (s.setPort a p).unitTime = s.unitTime := rfl
@[simp] theorem State.setPort_executing (a : Agent) (p : Port) : (s.setPort a p).executing = s.executing := rfl
@[simp] theorem State.setPort_answer (a : Agent) (p : Port) : (s.setPort a p).answer = s.answer := rfl
@[simp] theorem State.setPort_work (a : Agent) (p : Port) : (s.setPort a p).work = s.work := rfl
@[simp] theorem State.setPort_pending (a : Agent) (p : Port) : (s.setPort a p).pending = s.pending := rfl
@[simp] theorem State.setPort_entry (a : Agent) (p : Port) (i : EntryNo) : (s.setPort a p).entry i = s.entry i := rfl
@[simp] theorem State.setPort_buffer (a : Agent) (p : Port) (i : BufferNo) : (s.setPort a p).buffer i = s.buffer i := rfl
@[simp] theorem State.setPort_tag (a : Agent) (p : Port) (i : MemTagNo) : (s.setPort a p).tag i = s.tag i := rfl
@[simp] theorem State.setPort_aset (a : Agent) (p : Port) (i : SetNo) : (s.setPort a p).aset i = s.aset i := rfl
@[simp] theorem State.setPort_mark (a : Agent) (p : Port) (i : SetNo) (j : WayNo) : (s.setPort a p).mark i j = s.mark i j := rfl
@[simp] theorem State.setPort_running (a : Agent) (p : Port) : (s.setPort a p).running = s.running := rfl

/-! ### setEntry -/

@[simp] theorem State.setEntry_resetPin (e : EntryNo) (x : Entry) : (s.setEntry e x).resetPin = s.resetPin := rfl
@[simp] theorem State.setEntry_physLink (e : EntryNo) (x : Entry) : (s.setEntry e x).physLink = s.physLink := rfl
@[simp] theorem State.setEntry_unitState (e : EntryNo) (x : Entry) : (s.setEntry e x).unitState = s.unitState := rfl
@[simp] theorem State.setEntry_walk (e : EntryNo) (x : Entry) : (s.setEntry e x).walk = s.walk := rfl
@[simp] theorem State.setEntry_sets (e : EntryNo) (x : Entry) : (s.setEntry e x).sets = s.sets := rfl
@[simp] theorem State.setEntry_marks (e : EntryNo) (x : Entry) : (s.setEntry e x).marks = s.marks := rfl
@[simp] theorem State.setEntry_ports (e : EntryNo) (x : Entry) : (s.setEntry e x).ports = s.ports := rfl
@[simp] theorem State.setEntry_position (e : EntryNo) (x : Entry) : (s.setEntry e x).position = s.position := rfl
@[simp] theorem State.setEntry_rebuildClaims (e : EntryNo) (x : Entry) : (s.setEntry e x).rebuildClaims = s.rebuildClaims := rfl
@[simp] theorem State.setEntry_awaiting (e : EntryNo) (x : Entry) : (s.setEntry e x).awaiting = s.awaiting := rfl
@[simp] theorem State.setEntry_buffers (e : EntryNo) (x : Entry) : (s.setEntry e x).buffers = s.buffers := rfl
@[simp] theorem State.setEntry_bufferWaiters (e : EntryNo) (x : Entry) : (s.setEntry e x).bufferWaiters = s.bufferWaiters := rfl
@[simp] theorem State.setEntry_tags (e : EntryNo) (x : Entry) : (s.setEntry e x).tags = s.tags := rfl
@[simp] theorem State.setEntry_claimQueue (e : EntryNo) (x : Entry) : (s.setEntry e x).claimQueue = s.claimQueue := rfl
@[simp] theorem State.setEntry_memSent (e : EntryNo) (x : Entry) : (s.setEntry e x).memSent = s.memSent := rfl
@[simp] theorem State.setEntry_settings (e : EntryNo) (x : Entry) : (s.setEntry e x).settings = s.settings := rfl
@[simp] theorem State.setEntry_sweep (e : EntryNo) (x : Entry) : (s.setEntry e x).sweep = s.sweep := rfl
@[simp] theorem State.setEntry_scrub (e : EntryNo) (x : Entry) : (s.setEntry e x).scrub = s.scrub := rfl
@[simp] theorem State.setEntry_capture (e : EntryNo) (x : Entry) : (s.setEntry e x).capture = s.capture := rfl
@[simp] theorem State.setEntry_counters (e : EntryNo) (x : Entry) : (s.setEntry e x).counters = s.counters := rfl
@[simp] theorem State.setEntry_alertPending (e : EntryNo) (x : Entry) : (s.setEntry e x).alertPending = s.alertPending := rfl
@[simp] theorem State.setEntry_unitTime (e : EntryNo) (x : Entry) : (s.setEntry e x).unitTime = s.unitTime := rfl
@[simp] theorem State.setEntry_executing (e : EntryNo) (x : Entry) : (s.setEntry e x).executing = s.executing := rfl
@[simp] theorem State.setEntry_answer (e : EntryNo) (x : Entry) : (s.setEntry e x).answer = s.answer := rfl
@[simp] theorem State.setEntry_work (e : EntryNo) (x : Entry) : (s.setEntry e x).work = s.work := rfl
@[simp] theorem State.setEntry_pending (e : EntryNo) (x : Entry) : (s.setEntry e x).pending = s.pending := rfl
@[simp] theorem State.setEntry_port (e : EntryNo) (x : Entry) (i : Agent) : (s.setEntry e x).port i = s.port i := rfl
@[simp] theorem State.setEntry_buffer (e : EntryNo) (x : Entry) (i : BufferNo) : (s.setEntry e x).buffer i = s.buffer i := rfl
@[simp] theorem State.setEntry_tag (e : EntryNo) (x : Entry) (i : MemTagNo) : (s.setEntry e x).tag i = s.tag i := rfl
@[simp] theorem State.setEntry_aset (e : EntryNo) (x : Entry) (i : SetNo) : (s.setEntry e x).aset i = s.aset i := rfl
@[simp] theorem State.setEntry_mark (e : EntryNo) (x : Entry) (i : SetNo) (j : WayNo) : (s.setEntry e x).mark i j = s.mark i j := rfl
@[simp] theorem State.setEntry_running (e : EntryNo) (x : Entry) : (s.setEntry e x).running = s.running := rfl

/-! ### setBuffer -/

@[simp] theorem State.setBuffer_resetPin (b : BufferNo) (x : WbBuffer) : (s.setBuffer b x).resetPin = s.resetPin := rfl
@[simp] theorem State.setBuffer_physLink (b : BufferNo) (x : WbBuffer) : (s.setBuffer b x).physLink = s.physLink := rfl
@[simp] theorem State.setBuffer_unitState (b : BufferNo) (x : WbBuffer) : (s.setBuffer b x).unitState = s.unitState := rfl
@[simp] theorem State.setBuffer_walk (b : BufferNo) (x : WbBuffer) : (s.setBuffer b x).walk = s.walk := rfl
@[simp] theorem State.setBuffer_sets (b : BufferNo) (x : WbBuffer) : (s.setBuffer b x).sets = s.sets := rfl
@[simp] theorem State.setBuffer_marks (b : BufferNo) (x : WbBuffer) : (s.setBuffer b x).marks = s.marks := rfl
@[simp] theorem State.setBuffer_ports (b : BufferNo) (x : WbBuffer) : (s.setBuffer b x).ports = s.ports := rfl
@[simp] theorem State.setBuffer_entries (b : BufferNo) (x : WbBuffer) : (s.setBuffer b x).entries = s.entries := rfl
@[simp] theorem State.setBuffer_position (b : BufferNo) (x : WbBuffer) : (s.setBuffer b x).position = s.position := rfl
@[simp] theorem State.setBuffer_rebuildClaims (b : BufferNo) (x : WbBuffer) : (s.setBuffer b x).rebuildClaims = s.rebuildClaims := rfl
@[simp] theorem State.setBuffer_awaiting (b : BufferNo) (x : WbBuffer) : (s.setBuffer b x).awaiting = s.awaiting := rfl
@[simp] theorem State.setBuffer_bufferWaiters (b : BufferNo) (x : WbBuffer) : (s.setBuffer b x).bufferWaiters = s.bufferWaiters := rfl
@[simp] theorem State.setBuffer_tags (b : BufferNo) (x : WbBuffer) : (s.setBuffer b x).tags = s.tags := rfl
@[simp] theorem State.setBuffer_claimQueue (b : BufferNo) (x : WbBuffer) : (s.setBuffer b x).claimQueue = s.claimQueue := rfl
@[simp] theorem State.setBuffer_memSent (b : BufferNo) (x : WbBuffer) : (s.setBuffer b x).memSent = s.memSent := rfl
@[simp] theorem State.setBuffer_settings (b : BufferNo) (x : WbBuffer) : (s.setBuffer b x).settings = s.settings := rfl
@[simp] theorem State.setBuffer_sweep (b : BufferNo) (x : WbBuffer) : (s.setBuffer b x).sweep = s.sweep := rfl
@[simp] theorem State.setBuffer_scrub (b : BufferNo) (x : WbBuffer) : (s.setBuffer b x).scrub = s.scrub := rfl
@[simp] theorem State.setBuffer_capture (b : BufferNo) (x : WbBuffer) : (s.setBuffer b x).capture = s.capture := rfl
@[simp] theorem State.setBuffer_counters (b : BufferNo) (x : WbBuffer) : (s.setBuffer b x).counters = s.counters := rfl
@[simp] theorem State.setBuffer_alertPending (b : BufferNo) (x : WbBuffer) : (s.setBuffer b x).alertPending = s.alertPending := rfl
@[simp] theorem State.setBuffer_unitTime (b : BufferNo) (x : WbBuffer) : (s.setBuffer b x).unitTime = s.unitTime := rfl
@[simp] theorem State.setBuffer_executing (b : BufferNo) (x : WbBuffer) : (s.setBuffer b x).executing = s.executing := rfl
@[simp] theorem State.setBuffer_answer (b : BufferNo) (x : WbBuffer) : (s.setBuffer b x).answer = s.answer := rfl
@[simp] theorem State.setBuffer_work (b : BufferNo) (x : WbBuffer) : (s.setBuffer b x).work = s.work := rfl
@[simp] theorem State.setBuffer_pending (b : BufferNo) (x : WbBuffer) : (s.setBuffer b x).pending = s.pending := rfl
@[simp] theorem State.setBuffer_port (b : BufferNo) (x : WbBuffer) (i : Agent) : (s.setBuffer b x).port i = s.port i := rfl
@[simp] theorem State.setBuffer_entry (b : BufferNo) (x : WbBuffer) (i : EntryNo) : (s.setBuffer b x).entry i = s.entry i := rfl
@[simp] theorem State.setBuffer_tag (b : BufferNo) (x : WbBuffer) (i : MemTagNo) : (s.setBuffer b x).tag i = s.tag i := rfl
@[simp] theorem State.setBuffer_aset (b : BufferNo) (x : WbBuffer) (i : SetNo) : (s.setBuffer b x).aset i = s.aset i := rfl
@[simp] theorem State.setBuffer_mark (b : BufferNo) (x : WbBuffer) (i : SetNo) (j : WayNo) : (s.setBuffer b x).mark i j = s.mark i j := rfl
@[simp] theorem State.setBuffer_running (b : BufferNo) (x : WbBuffer) : (s.setBuffer b x).running = s.running := rfl

/-! ### setTag -/

@[simp] theorem State.setTag_resetPin (t : MemTagNo) (x : MemTag) : (s.setTag t x).resetPin = s.resetPin := rfl
@[simp] theorem State.setTag_physLink (t : MemTagNo) (x : MemTag) : (s.setTag t x).physLink = s.physLink := rfl
@[simp] theorem State.setTag_unitState (t : MemTagNo) (x : MemTag) : (s.setTag t x).unitState = s.unitState := rfl
@[simp] theorem State.setTag_walk (t : MemTagNo) (x : MemTag) : (s.setTag t x).walk = s.walk := rfl
@[simp] theorem State.setTag_sets (t : MemTagNo) (x : MemTag) : (s.setTag t x).sets = s.sets := rfl
@[simp] theorem State.setTag_marks (t : MemTagNo) (x : MemTag) : (s.setTag t x).marks = s.marks := rfl
@[simp] theorem State.setTag_ports (t : MemTagNo) (x : MemTag) : (s.setTag t x).ports = s.ports := rfl
@[simp] theorem State.setTag_entries (t : MemTagNo) (x : MemTag) : (s.setTag t x).entries = s.entries := rfl
@[simp] theorem State.setTag_position (t : MemTagNo) (x : MemTag) : (s.setTag t x).position = s.position := rfl
@[simp] theorem State.setTag_rebuildClaims (t : MemTagNo) (x : MemTag) : (s.setTag t x).rebuildClaims = s.rebuildClaims := rfl
@[simp] theorem State.setTag_awaiting (t : MemTagNo) (x : MemTag) : (s.setTag t x).awaiting = s.awaiting := rfl
@[simp] theorem State.setTag_buffers (t : MemTagNo) (x : MemTag) : (s.setTag t x).buffers = s.buffers := rfl
@[simp] theorem State.setTag_bufferWaiters (t : MemTagNo) (x : MemTag) : (s.setTag t x).bufferWaiters = s.bufferWaiters := rfl
@[simp] theorem State.setTag_claimQueue (t : MemTagNo) (x : MemTag) : (s.setTag t x).claimQueue = s.claimQueue := rfl
@[simp] theorem State.setTag_memSent (t : MemTagNo) (x : MemTag) : (s.setTag t x).memSent = s.memSent := rfl
@[simp] theorem State.setTag_settings (t : MemTagNo) (x : MemTag) : (s.setTag t x).settings = s.settings := rfl
@[simp] theorem State.setTag_sweep (t : MemTagNo) (x : MemTag) : (s.setTag t x).sweep = s.sweep := rfl
@[simp] theorem State.setTag_scrub (t : MemTagNo) (x : MemTag) : (s.setTag t x).scrub = s.scrub := rfl
@[simp] theorem State.setTag_capture (t : MemTagNo) (x : MemTag) : (s.setTag t x).capture = s.capture := rfl
@[simp] theorem State.setTag_counters (t : MemTagNo) (x : MemTag) : (s.setTag t x).counters = s.counters := rfl
@[simp] theorem State.setTag_alertPending (t : MemTagNo) (x : MemTag) : (s.setTag t x).alertPending = s.alertPending := rfl
@[simp] theorem State.setTag_unitTime (t : MemTagNo) (x : MemTag) : (s.setTag t x).unitTime = s.unitTime := rfl
@[simp] theorem State.setTag_executing (t : MemTagNo) (x : MemTag) : (s.setTag t x).executing = s.executing := rfl
@[simp] theorem State.setTag_answer (t : MemTagNo) (x : MemTag) : (s.setTag t x).answer = s.answer := rfl
@[simp] theorem State.setTag_work (t : MemTagNo) (x : MemTag) : (s.setTag t x).work = s.work := rfl
@[simp] theorem State.setTag_pending (t : MemTagNo) (x : MemTag) : (s.setTag t x).pending = s.pending := rfl
@[simp] theorem State.setTag_port (t : MemTagNo) (x : MemTag) (i : Agent) : (s.setTag t x).port i = s.port i := rfl
@[simp] theorem State.setTag_entry (t : MemTagNo) (x : MemTag) (i : EntryNo) : (s.setTag t x).entry i = s.entry i := rfl
@[simp] theorem State.setTag_buffer (t : MemTagNo) (x : MemTag) (i : BufferNo) : (s.setTag t x).buffer i = s.buffer i := rfl
@[simp] theorem State.setTag_aset (t : MemTagNo) (x : MemTag) (i : SetNo) : (s.setTag t x).aset i = s.aset i := rfl
@[simp] theorem State.setTag_mark (t : MemTagNo) (x : MemTag) (i : SetNo) (j : WayNo) : (s.setTag t x).mark i j = s.mark i j := rfl
@[simp] theorem State.setTag_running (t : MemTagNo) (x : MemTag) : (s.setTag t x).running = s.running := rfl

/-! ### putSet -/

@[simp] theorem State.putSet_resetPin (n : SetNo) (x : ASet) : (s.putSet n x).resetPin = s.resetPin := rfl
@[simp] theorem State.putSet_physLink (n : SetNo) (x : ASet) : (s.putSet n x).physLink = s.physLink := rfl
@[simp] theorem State.putSet_unitState (n : SetNo) (x : ASet) : (s.putSet n x).unitState = s.unitState := rfl
@[simp] theorem State.putSet_walk (n : SetNo) (x : ASet) : (s.putSet n x).walk = s.walk := rfl
@[simp] theorem State.putSet_marks (n : SetNo) (x : ASet) : (s.putSet n x).marks = s.marks := rfl
@[simp] theorem State.putSet_ports (n : SetNo) (x : ASet) : (s.putSet n x).ports = s.ports := rfl
@[simp] theorem State.putSet_entries (n : SetNo) (x : ASet) : (s.putSet n x).entries = s.entries := rfl
@[simp] theorem State.putSet_position (n : SetNo) (x : ASet) : (s.putSet n x).position = s.position := rfl
@[simp] theorem State.putSet_rebuildClaims (n : SetNo) (x : ASet) : (s.putSet n x).rebuildClaims = s.rebuildClaims := rfl
@[simp] theorem State.putSet_awaiting (n : SetNo) (x : ASet) : (s.putSet n x).awaiting = s.awaiting := rfl
@[simp] theorem State.putSet_buffers (n : SetNo) (x : ASet) : (s.putSet n x).buffers = s.buffers := rfl
@[simp] theorem State.putSet_bufferWaiters (n : SetNo) (x : ASet) : (s.putSet n x).bufferWaiters = s.bufferWaiters := rfl
@[simp] theorem State.putSet_tags (n : SetNo) (x : ASet) : (s.putSet n x).tags = s.tags := rfl
@[simp] theorem State.putSet_claimQueue (n : SetNo) (x : ASet) : (s.putSet n x).claimQueue = s.claimQueue := rfl
@[simp] theorem State.putSet_memSent (n : SetNo) (x : ASet) : (s.putSet n x).memSent = s.memSent := rfl
@[simp] theorem State.putSet_settings (n : SetNo) (x : ASet) : (s.putSet n x).settings = s.settings := rfl
@[simp] theorem State.putSet_sweep (n : SetNo) (x : ASet) : (s.putSet n x).sweep = s.sweep := rfl
@[simp] theorem State.putSet_scrub (n : SetNo) (x : ASet) : (s.putSet n x).scrub = s.scrub := rfl
@[simp] theorem State.putSet_capture (n : SetNo) (x : ASet) : (s.putSet n x).capture = s.capture := rfl
@[simp] theorem State.putSet_counters (n : SetNo) (x : ASet) : (s.putSet n x).counters = s.counters := rfl
@[simp] theorem State.putSet_alertPending (n : SetNo) (x : ASet) : (s.putSet n x).alertPending = s.alertPending := rfl
@[simp] theorem State.putSet_unitTime (n : SetNo) (x : ASet) : (s.putSet n x).unitTime = s.unitTime := rfl
@[simp] theorem State.putSet_executing (n : SetNo) (x : ASet) : (s.putSet n x).executing = s.executing := rfl
@[simp] theorem State.putSet_answer (n : SetNo) (x : ASet) : (s.putSet n x).answer = s.answer := rfl
@[simp] theorem State.putSet_work (n : SetNo) (x : ASet) : (s.putSet n x).work = s.work := rfl
@[simp] theorem State.putSet_pending (n : SetNo) (x : ASet) : (s.putSet n x).pending = s.pending := rfl
@[simp] theorem State.putSet_port (n : SetNo) (x : ASet) (i : Agent) : (s.putSet n x).port i = s.port i := rfl
@[simp] theorem State.putSet_entry (n : SetNo) (x : ASet) (i : EntryNo) : (s.putSet n x).entry i = s.entry i := rfl
@[simp] theorem State.putSet_buffer (n : SetNo) (x : ASet) (i : BufferNo) : (s.putSet n x).buffer i = s.buffer i := rfl
@[simp] theorem State.putSet_tag (n : SetNo) (x : ASet) (i : MemTagNo) : (s.putSet n x).tag i = s.tag i := rfl
@[simp] theorem State.putSet_mark (n : SetNo) (x : ASet) (i : SetNo) (j : WayNo) : (s.putSet n x).mark i j = s.mark i j := rfl
@[simp] theorem State.putSet_running (n : SetNo) (x : ASet) : (s.putSet n x).running = s.running := rfl

/-! ### putMark -/

@[simp] theorem State.putMark_resetPin (n : SetNo) (w : WayNo) (m : Marks) : (s.putMark n w m).resetPin = s.resetPin := rfl
@[simp] theorem State.putMark_physLink (n : SetNo) (w : WayNo) (m : Marks) : (s.putMark n w m).physLink = s.physLink := rfl
@[simp] theorem State.putMark_unitState (n : SetNo) (w : WayNo) (m : Marks) : (s.putMark n w m).unitState = s.unitState := rfl
@[simp] theorem State.putMark_walk (n : SetNo) (w : WayNo) (m : Marks) : (s.putMark n w m).walk = s.walk := rfl
@[simp] theorem State.putMark_sets (n : SetNo) (w : WayNo) (m : Marks) : (s.putMark n w m).sets = s.sets := rfl
@[simp] theorem State.putMark_ports (n : SetNo) (w : WayNo) (m : Marks) : (s.putMark n w m).ports = s.ports := rfl
@[simp] theorem State.putMark_entries (n : SetNo) (w : WayNo) (m : Marks) : (s.putMark n w m).entries = s.entries := rfl
@[simp] theorem State.putMark_position (n : SetNo) (w : WayNo) (m : Marks) : (s.putMark n w m).position = s.position := rfl
@[simp] theorem State.putMark_rebuildClaims (n : SetNo) (w : WayNo) (m : Marks) : (s.putMark n w m).rebuildClaims = s.rebuildClaims := rfl
@[simp] theorem State.putMark_awaiting (n : SetNo) (w : WayNo) (m : Marks) : (s.putMark n w m).awaiting = s.awaiting := rfl
@[simp] theorem State.putMark_buffers (n : SetNo) (w : WayNo) (m : Marks) : (s.putMark n w m).buffers = s.buffers := rfl
@[simp] theorem State.putMark_bufferWaiters (n : SetNo) (w : WayNo) (m : Marks) : (s.putMark n w m).bufferWaiters = s.bufferWaiters := rfl
@[simp] theorem State.putMark_tags (n : SetNo) (w : WayNo) (m : Marks) : (s.putMark n w m).tags = s.tags := rfl
@[simp] theorem State.putMark_claimQueue (n : SetNo) (w : WayNo) (m : Marks) : (s.putMark n w m).claimQueue = s.claimQueue := rfl
@[simp] theorem State.putMark_memSent (n : SetNo) (w : WayNo) (m : Marks) : (s.putMark n w m).memSent = s.memSent := rfl
@[simp] theorem State.putMark_settings (n : SetNo) (w : WayNo) (m : Marks) : (s.putMark n w m).settings = s.settings := rfl
@[simp] theorem State.putMark_sweep (n : SetNo) (w : WayNo) (m : Marks) : (s.putMark n w m).sweep = s.sweep := rfl
@[simp] theorem State.putMark_scrub (n : SetNo) (w : WayNo) (m : Marks) : (s.putMark n w m).scrub = s.scrub := rfl
@[simp] theorem State.putMark_capture (n : SetNo) (w : WayNo) (m : Marks) : (s.putMark n w m).capture = s.capture := rfl
@[simp] theorem State.putMark_counters (n : SetNo) (w : WayNo) (m : Marks) : (s.putMark n w m).counters = s.counters := rfl
@[simp] theorem State.putMark_alertPending (n : SetNo) (w : WayNo) (m : Marks) : (s.putMark n w m).alertPending = s.alertPending := rfl
@[simp] theorem State.putMark_unitTime (n : SetNo) (w : WayNo) (m : Marks) : (s.putMark n w m).unitTime = s.unitTime := rfl
@[simp] theorem State.putMark_executing (n : SetNo) (w : WayNo) (m : Marks) : (s.putMark n w m).executing = s.executing := rfl
@[simp] theorem State.putMark_answer (n : SetNo) (w : WayNo) (m : Marks) : (s.putMark n w m).answer = s.answer := rfl
@[simp] theorem State.putMark_work (n : SetNo) (w : WayNo) (m : Marks) : (s.putMark n w m).work = s.work := rfl
@[simp] theorem State.putMark_pending (n : SetNo) (w : WayNo) (m : Marks) : (s.putMark n w m).pending = s.pending := rfl
@[simp] theorem State.putMark_port (n : SetNo) (w : WayNo) (m : Marks) (i : Agent) : (s.putMark n w m).port i = s.port i := rfl
@[simp] theorem State.putMark_entry (n : SetNo) (w : WayNo) (m : Marks) (i : EntryNo) : (s.putMark n w m).entry i = s.entry i := rfl
@[simp] theorem State.putMark_buffer (n : SetNo) (w : WayNo) (m : Marks) (i : BufferNo) : (s.putMark n w m).buffer i = s.buffer i := rfl
@[simp] theorem State.putMark_tag (n : SetNo) (w : WayNo) (m : Marks) (i : MemTagNo) : (s.putMark n w m).tag i = s.tag i := rfl
@[simp] theorem State.putMark_aset (n : SetNo) (w : WayNo) (m : Marks) (i : SetNo) : (s.putMark n w m).aset i = s.aset i := rfl
@[simp] theorem State.putMark_running (n : SetNo) (w : WayNo) (m : Marks) : (s.putMark n w m).running = s.running := rfl

/-! ### push -/

@[simp] theorem State.push_resetPin (t : Task) : (s.push t).resetPin = s.resetPin := rfl
@[simp] theorem State.push_physLink (t : Task) : (s.push t).physLink = s.physLink := rfl
@[simp] theorem State.push_unitState (t : Task) : (s.push t).unitState = s.unitState := rfl
@[simp] theorem State.push_walk (t : Task) : (s.push t).walk = s.walk := rfl
@[simp] theorem State.push_sets (t : Task) : (s.push t).sets = s.sets := rfl
@[simp] theorem State.push_marks (t : Task) : (s.push t).marks = s.marks := rfl
@[simp] theorem State.push_ports (t : Task) : (s.push t).ports = s.ports := rfl
@[simp] theorem State.push_entries (t : Task) : (s.push t).entries = s.entries := rfl
@[simp] theorem State.push_position (t : Task) : (s.push t).position = s.position := rfl
@[simp] theorem State.push_rebuildClaims (t : Task) : (s.push t).rebuildClaims = s.rebuildClaims := rfl
@[simp] theorem State.push_awaiting (t : Task) : (s.push t).awaiting = s.awaiting := rfl
@[simp] theorem State.push_buffers (t : Task) : (s.push t).buffers = s.buffers := rfl
@[simp] theorem State.push_bufferWaiters (t : Task) : (s.push t).bufferWaiters = s.bufferWaiters := rfl
@[simp] theorem State.push_tags (t : Task) : (s.push t).tags = s.tags := rfl
@[simp] theorem State.push_claimQueue (t : Task) : (s.push t).claimQueue = s.claimQueue := rfl
@[simp] theorem State.push_memSent (t : Task) : (s.push t).memSent = s.memSent := rfl
@[simp] theorem State.push_settings (t : Task) : (s.push t).settings = s.settings := rfl
@[simp] theorem State.push_sweep (t : Task) : (s.push t).sweep = s.sweep := rfl
@[simp] theorem State.push_scrub (t : Task) : (s.push t).scrub = s.scrub := rfl
@[simp] theorem State.push_capture (t : Task) : (s.push t).capture = s.capture := rfl
@[simp] theorem State.push_counters (t : Task) : (s.push t).counters = s.counters := rfl
@[simp] theorem State.push_alertPending (t : Task) : (s.push t).alertPending = s.alertPending := rfl
@[simp] theorem State.push_unitTime (t : Task) : (s.push t).unitTime = s.unitTime := rfl
@[simp] theorem State.push_executing (t : Task) : (s.push t).executing = s.executing := rfl
@[simp] theorem State.push_answer (t : Task) : (s.push t).answer = s.answer := rfl
@[simp] theorem State.push_pending (t : Task) : (s.push t).pending = s.pending := rfl
@[simp] theorem State.push_port (t : Task) (i : Agent) : (s.push t).port i = s.port i := rfl
@[simp] theorem State.push_entry (t : Task) (i : EntryNo) : (s.push t).entry i = s.entry i := rfl
@[simp] theorem State.push_buffer (t : Task) (i : BufferNo) : (s.push t).buffer i = s.buffer i := rfl
@[simp] theorem State.push_tag (t : Task) (i : MemTagNo) : (s.push t).tag i = s.tag i := rfl
@[simp] theorem State.push_aset (t : Task) (i : SetNo) : (s.push t).aset i = s.aset i := rfl
@[simp] theorem State.push_mark (t : Task) (i : SetNo) (j : WayNo) : (s.push t).mark i j = s.mark i j := rfl
@[simp] theorem State.push_running (t : Task) : (s.push t).running = s.running := rfl

/-! ### raise -/

@[simp] theorem State.raise_resetPin (c : Nat) : (s.raise c).resetPin = s.resetPin := rfl
@[simp] theorem State.raise_physLink (c : Nat) : (s.raise c).physLink = s.physLink := rfl
@[simp] theorem State.raise_unitState (c : Nat) : (s.raise c).unitState = s.unitState := rfl
@[simp] theorem State.raise_walk (c : Nat) : (s.raise c).walk = s.walk := rfl
@[simp] theorem State.raise_sets (c : Nat) : (s.raise c).sets = s.sets := rfl
@[simp] theorem State.raise_marks (c : Nat) : (s.raise c).marks = s.marks := rfl
@[simp] theorem State.raise_ports (c : Nat) : (s.raise c).ports = s.ports := rfl
@[simp] theorem State.raise_entries (c : Nat) : (s.raise c).entries = s.entries := rfl
@[simp] theorem State.raise_position (c : Nat) : (s.raise c).position = s.position := rfl
@[simp] theorem State.raise_rebuildClaims (c : Nat) : (s.raise c).rebuildClaims = s.rebuildClaims := rfl
@[simp] theorem State.raise_awaiting (c : Nat) : (s.raise c).awaiting = s.awaiting := rfl
@[simp] theorem State.raise_buffers (c : Nat) : (s.raise c).buffers = s.buffers := rfl
@[simp] theorem State.raise_bufferWaiters (c : Nat) : (s.raise c).bufferWaiters = s.bufferWaiters := rfl
@[simp] theorem State.raise_tags (c : Nat) : (s.raise c).tags = s.tags := rfl
@[simp] theorem State.raise_claimQueue (c : Nat) : (s.raise c).claimQueue = s.claimQueue := rfl
@[simp] theorem State.raise_memSent (c : Nat) : (s.raise c).memSent = s.memSent := rfl
@[simp] theorem State.raise_settings (c : Nat) : (s.raise c).settings = s.settings := rfl
@[simp] theorem State.raise_sweep (c : Nat) : (s.raise c).sweep = s.sweep := rfl
@[simp] theorem State.raise_scrub (c : Nat) : (s.raise c).scrub = s.scrub := rfl
@[simp] theorem State.raise_capture (c : Nat) : (s.raise c).capture = s.capture := rfl
@[simp] theorem State.raise_counters (c : Nat) : (s.raise c).counters = s.counters := rfl
@[simp] theorem State.raise_unitTime (c : Nat) : (s.raise c).unitTime = s.unitTime := rfl
@[simp] theorem State.raise_executing (c : Nat) : (s.raise c).executing = s.executing := rfl
@[simp] theorem State.raise_answer (c : Nat) : (s.raise c).answer = s.answer := rfl
@[simp] theorem State.raise_work (c : Nat) : (s.raise c).work = s.work := rfl
@[simp] theorem State.raise_pending (c : Nat) : (s.raise c).pending = s.pending := rfl
@[simp] theorem State.raise_port (c : Nat) (i : Agent) : (s.raise c).port i = s.port i := rfl
@[simp] theorem State.raise_entry (c : Nat) (i : EntryNo) : (s.raise c).entry i = s.entry i := rfl
@[simp] theorem State.raise_buffer (c : Nat) (i : BufferNo) : (s.raise c).buffer i = s.buffer i := rfl
@[simp] theorem State.raise_tag (c : Nat) (i : MemTagNo) : (s.raise c).tag i = s.tag i := rfl
@[simp] theorem State.raise_aset (c : Nat) (i : SetNo) : (s.raise c).aset i = s.aset i := rfl
@[simp] theorem State.raise_mark (c : Nat) (i : SetNo) (j : WayNo) : (s.raise c).mark i j = s.mark i j := rfl
@[simp] theorem State.raise_running (c : Nat) : (s.raise c).running = s.running := rfl

theorem State.modPort_eq (a : Agent) (f : Port → Port) : s.modPort a f = s.setPort a (f (s.port a)) := rfl
theorem State.modEntry_eq (a : EntryNo) (f : Entry → Entry) :
    s.modEntry a f = s.setEntry a ((s.entry a).change f) := rfl

/-- An active entry takes its change. -/
theorem Entry.change_active {x : Entry} (h : x.phase ≠ .free) (f : Entry → Entry) : x.change f = f x := if_neg h

/-- A FREE entry takes no change. -/
theorem Entry.change_free {x : Entry} (h : x.phase = .free) (f : Entry → Entry) : x.change f = x := if_pos h

/-! ### modPort -/

@[simp] theorem State.modPort_resetPin (a : Agent) (g : Port → Port) : (s.modPort a g).resetPin = s.resetPin := rfl
@[simp] theorem State.modPort_physLink (a : Agent) (g : Port → Port) : (s.modPort a g).physLink = s.physLink := rfl
@[simp] theorem State.modPort_unitState (a : Agent) (g : Port → Port) : (s.modPort a g).unitState = s.unitState := rfl
@[simp] theorem State.modPort_walk (a : Agent) (g : Port → Port) : (s.modPort a g).walk = s.walk := rfl
@[simp] theorem State.modPort_sets (a : Agent) (g : Port → Port) : (s.modPort a g).sets = s.sets := rfl
@[simp] theorem State.modPort_marks (a : Agent) (g : Port → Port) : (s.modPort a g).marks = s.marks := rfl
@[simp] theorem State.modPort_entries (a : Agent) (g : Port → Port) : (s.modPort a g).entries = s.entries := rfl
@[simp] theorem State.modPort_position (a : Agent) (g : Port → Port) : (s.modPort a g).position = s.position := rfl
@[simp] theorem State.modPort_rebuildClaims (a : Agent) (g : Port → Port) : (s.modPort a g).rebuildClaims = s.rebuildClaims := rfl
@[simp] theorem State.modPort_awaiting (a : Agent) (g : Port → Port) : (s.modPort a g).awaiting = s.awaiting := rfl
@[simp] theorem State.modPort_buffers (a : Agent) (g : Port → Port) : (s.modPort a g).buffers = s.buffers := rfl
@[simp] theorem State.modPort_bufferWaiters (a : Agent) (g : Port → Port) : (s.modPort a g).bufferWaiters = s.bufferWaiters := rfl
@[simp] theorem State.modPort_tags (a : Agent) (g : Port → Port) : (s.modPort a g).tags = s.tags := rfl
@[simp] theorem State.modPort_claimQueue (a : Agent) (g : Port → Port) : (s.modPort a g).claimQueue = s.claimQueue := rfl
@[simp] theorem State.modPort_memSent (a : Agent) (g : Port → Port) : (s.modPort a g).memSent = s.memSent := rfl
@[simp] theorem State.modPort_settings (a : Agent) (g : Port → Port) : (s.modPort a g).settings = s.settings := rfl
@[simp] theorem State.modPort_sweep (a : Agent) (g : Port → Port) : (s.modPort a g).sweep = s.sweep := rfl
@[simp] theorem State.modPort_scrub (a : Agent) (g : Port → Port) : (s.modPort a g).scrub = s.scrub := rfl
@[simp] theorem State.modPort_capture (a : Agent) (g : Port → Port) : (s.modPort a g).capture = s.capture := rfl
@[simp] theorem State.modPort_counters (a : Agent) (g : Port → Port) : (s.modPort a g).counters = s.counters := rfl
@[simp] theorem State.modPort_alertPending (a : Agent) (g : Port → Port) : (s.modPort a g).alertPending = s.alertPending := rfl
@[simp] theorem State.modPort_unitTime (a : Agent) (g : Port → Port) : (s.modPort a g).unitTime = s.unitTime := rfl
@[simp] theorem State.modPort_executing (a : Agent) (g : Port → Port) : (s.modPort a g).executing = s.executing := rfl
@[simp] theorem State.modPort_answer (a : Agent) (g : Port → Port) : (s.modPort a g).answer = s.answer := rfl
@[simp] theorem State.modPort_work (a : Agent) (g : Port → Port) : (s.modPort a g).work = s.work := rfl
@[simp] theorem State.modPort_pending (a : Agent) (g : Port → Port) : (s.modPort a g).pending = s.pending := rfl
@[simp] theorem State.modPort_entry (a : Agent) (g : Port → Port) (i : EntryNo) : (s.modPort a g).entry i = s.entry i := rfl
@[simp] theorem State.modPort_buffer (a : Agent) (g : Port → Port) (i : BufferNo) : (s.modPort a g).buffer i = s.buffer i := rfl
@[simp] theorem State.modPort_tag (a : Agent) (g : Port → Port) (i : MemTagNo) : (s.modPort a g).tag i = s.tag i := rfl
@[simp] theorem State.modPort_aset (a : Agent) (g : Port → Port) (i : SetNo) : (s.modPort a g).aset i = s.aset i := rfl
@[simp] theorem State.modPort_mark (a : Agent) (g : Port → Port) (i : SetNo) (j : WayNo) : (s.modPort a g).mark i j = s.mark i j := rfl
@[simp] theorem State.modPort_running (a : Agent) (g : Port → Port) : (s.modPort a g).running = s.running := rfl

/-! ### modEntry -/

@[simp] theorem State.modEntry_resetPin (e : EntryNo) (g : Entry → Entry) : (s.modEntry e g).resetPin = s.resetPin := rfl
@[simp] theorem State.modEntry_physLink (e : EntryNo) (g : Entry → Entry) : (s.modEntry e g).physLink = s.physLink := rfl
@[simp] theorem State.modEntry_unitState (e : EntryNo) (g : Entry → Entry) : (s.modEntry e g).unitState = s.unitState := rfl
@[simp] theorem State.modEntry_walk (e : EntryNo) (g : Entry → Entry) : (s.modEntry e g).walk = s.walk := rfl
@[simp] theorem State.modEntry_sets (e : EntryNo) (g : Entry → Entry) : (s.modEntry e g).sets = s.sets := rfl
@[simp] theorem State.modEntry_marks (e : EntryNo) (g : Entry → Entry) : (s.modEntry e g).marks = s.marks := rfl
@[simp] theorem State.modEntry_ports (e : EntryNo) (g : Entry → Entry) : (s.modEntry e g).ports = s.ports := rfl
@[simp] theorem State.modEntry_position (e : EntryNo) (g : Entry → Entry) : (s.modEntry e g).position = s.position := rfl
@[simp] theorem State.modEntry_rebuildClaims (e : EntryNo) (g : Entry → Entry) : (s.modEntry e g).rebuildClaims = s.rebuildClaims := rfl
@[simp] theorem State.modEntry_awaiting (e : EntryNo) (g : Entry → Entry) : (s.modEntry e g).awaiting = s.awaiting := rfl
@[simp] theorem State.modEntry_buffers (e : EntryNo) (g : Entry → Entry) : (s.modEntry e g).buffers = s.buffers := rfl
@[simp] theorem State.modEntry_bufferWaiters (e : EntryNo) (g : Entry → Entry) : (s.modEntry e g).bufferWaiters = s.bufferWaiters := rfl
@[simp] theorem State.modEntry_tags (e : EntryNo) (g : Entry → Entry) : (s.modEntry e g).tags = s.tags := rfl
@[simp] theorem State.modEntry_claimQueue (e : EntryNo) (g : Entry → Entry) : (s.modEntry e g).claimQueue = s.claimQueue := rfl
@[simp] theorem State.modEntry_memSent (e : EntryNo) (g : Entry → Entry) : (s.modEntry e g).memSent = s.memSent := rfl
@[simp] theorem State.modEntry_settings (e : EntryNo) (g : Entry → Entry) : (s.modEntry e g).settings = s.settings := rfl
@[simp] theorem State.modEntry_sweep (e : EntryNo) (g : Entry → Entry) : (s.modEntry e g).sweep = s.sweep := rfl
@[simp] theorem State.modEntry_scrub (e : EntryNo) (g : Entry → Entry) : (s.modEntry e g).scrub = s.scrub := rfl
@[simp] theorem State.modEntry_capture (e : EntryNo) (g : Entry → Entry) : (s.modEntry e g).capture = s.capture := rfl
@[simp] theorem State.modEntry_counters (e : EntryNo) (g : Entry → Entry) : (s.modEntry e g).counters = s.counters := rfl
@[simp] theorem State.modEntry_alertPending (e : EntryNo) (g : Entry → Entry) : (s.modEntry e g).alertPending = s.alertPending := rfl
@[simp] theorem State.modEntry_unitTime (e : EntryNo) (g : Entry → Entry) : (s.modEntry e g).unitTime = s.unitTime := rfl
@[simp] theorem State.modEntry_executing (e : EntryNo) (g : Entry → Entry) : (s.modEntry e g).executing = s.executing := rfl
@[simp] theorem State.modEntry_answer (e : EntryNo) (g : Entry → Entry) : (s.modEntry e g).answer = s.answer := rfl
@[simp] theorem State.modEntry_work (e : EntryNo) (g : Entry → Entry) : (s.modEntry e g).work = s.work := rfl
@[simp] theorem State.modEntry_pending (e : EntryNo) (g : Entry → Entry) : (s.modEntry e g).pending = s.pending := rfl
@[simp] theorem State.modEntry_port (e : EntryNo) (g : Entry → Entry) (i : Agent) : (s.modEntry e g).port i = s.port i := rfl
@[simp] theorem State.modEntry_buffer (e : EntryNo) (g : Entry → Entry) (i : BufferNo) : (s.modEntry e g).buffer i = s.buffer i := rfl
@[simp] theorem State.modEntry_tag (e : EntryNo) (g : Entry → Entry) (i : MemTagNo) : (s.modEntry e g).tag i = s.tag i := rfl
@[simp] theorem State.modEntry_aset (e : EntryNo) (g : Entry → Entry) (i : SetNo) : (s.modEntry e g).aset i = s.aset i := rfl
@[simp] theorem State.modEntry_mark (e : EntryNo) (g : Entry → Entry) (i : SetNo) (j : WayNo) : (s.modEntry e g).mark i j = s.mark i j := rfl
@[simp] theorem State.modEntry_running (e : EntryNo) (g : Entry → Entry) : (s.modEntry e g).running = s.running := rfl

/-! ### Reading back what was written -/

theorem State.setPort_port (a b : Agent) (p : Port) : (s.setPort a p).port b = if a = b then p else s.port b := by
  simp only [State.port, State.setPort, Fin.getElem_fin, Vector.getElem_set, Fin.ext_iff]

@[simp] theorem State.setPort_port_same (a : Agent) (p : Port) : (s.setPort a p).port a = p := by
  simp [State.setPort_port]

@[simp] theorem State.setPort_port_ne {a b : Agent} (p : Port) (h : a ≠ b) : (s.setPort a p).port b = s.port b := by
  simp [State.setPort_port, h]

theorem State.modPort_port (a b : Agent) (f : Port → Port) :
    (s.modPort a f).port b = if a = b then f (s.port b) else s.port b := by
  rw [State.modPort_eq, State.setPort_port]; split <;> simp_all

@[simp] theorem State.modPort_port_same (a : Agent) (f : Port → Port) : (s.modPort a f).port a = f (s.port a) := by
  simp [State.modPort_port]

@[simp] theorem State.modPort_port_ne {a b : Agent} (f : Port → Port) (h : a ≠ b) :
    (s.modPort a f).port b = s.port b := by
  simp [State.modPort_port, h]

theorem State.setEntry_entry (e f : EntryNo) (x : Entry) :
    (s.setEntry e x).entry f = if e = f then x else s.entry f := by
  simp only [State.entry, State.setEntry, Fin.getElem_fin, Vector.getElem_set, Fin.ext_iff]

@[simp] theorem State.setEntry_entry_same (e : EntryNo) (x : Entry) : (s.setEntry e x).entry e = x := by
  simp [State.setEntry_entry]

@[simp] theorem State.setEntry_entry_ne {e f : EntryNo} (x : Entry) (h : e ≠ f) :
    (s.setEntry e x).entry f = s.entry f := by
  simp [State.setEntry_entry, h]

theorem State.modEntry_entry (e f : EntryNo) (g : Entry → Entry) :
    (s.modEntry e g).entry f = if e = f then (s.entry f).change g else s.entry f := by
  rw [State.modEntry_eq, State.setEntry_entry]; split <;> simp_all

@[simp] theorem State.modEntry_entry_same (e : EntryNo) (g : Entry → Entry) :
    (s.modEntry e g).entry e = (s.entry e).change g := by
  simp [State.modEntry_entry]

@[simp] theorem State.modEntry_entry_ne {e f : EntryNo} (g : Entry → Entry) (h : e ≠ f) :
    (s.modEntry e g).entry f = s.entry f := by
  simp [State.modEntry_entry, h]

theorem State.setBuffer_buffer (b c : BufferNo) (x : WbBuffer) :
    (s.setBuffer b x).buffer c = if b = c then x else s.buffer c := by
  simp only [State.buffer, State.setBuffer, Fin.getElem_fin, Vector.getElem_set, Fin.ext_iff]

@[simp] theorem State.setBuffer_buffer_same (b : BufferNo) (x : WbBuffer) : (s.setBuffer b x).buffer b = x := by
  simp [State.setBuffer_buffer]

theorem State.setTag_tag (t u : MemTagNo) (x : MemTag) : (s.setTag t x).tag u = if t = u then x else s.tag u := by
  simp only [State.tag, State.setTag, Fin.getElem_fin, Vector.getElem_set, Fin.ext_iff]

@[simp] theorem State.setTag_tag_same (t : MemTagNo) (x : MemTag) : (s.setTag t x).tag t = x := by
  simp [State.setTag_tag]

@[simp] theorem State.push_work (t : Task) : (s.push t).work = s.work ++ [t] := rfl

@[simp] theorem State.raise_alertPending (c : Nat) : (s.raise c).alertPending = s.alertPending ||| (1#12 <<< c) := rfl

end Sys2Proof.Machine
end

