-- ==== Sys2Proof/Laws/Stores.lean ====
section
/-! SUPPORT. The sparse stores: reading back a write, and the canonical form kept by every write. -/

namespace Sys2Proof.Machine

variable {β : Type} [DecidableEq β] {d : β}

/-- A looser lower bound is a lower bound. -/
theorem storeWfFrom_mono {b c : Nat} (h : c ≤ b) {m : List (Nat × β)} (w : storeWfFrom d b m) : storeWfFrom d c m := by
  cases m with
  | nil => rfl
  | cons p m =>
    obtain ⟨k, v⟩ := p
    simp only [storeWfFrom, Bool.and_eq_true, decide_eq_true_eq] at w ⊢
    exact ⟨⟨h.trans w.1.1, w.1.2⟩, w.2⟩

/-- A key below every listed key reads the default. -/
theorem storeGet_below {b k : Nat} (h : k < b) {m : List (Nat × β)} (w : storeWfFrom d b m) : storeGet d m k = d := by
  induction m generalizing b with
  | nil => rfl
  | cons p m ih =>
    obtain ⟨k', v⟩ := p
    simp only [storeWfFrom, Bool.and_eq_true, decide_eq_true_eq] at w
    rw [storeGet, if_neg (by omega)]
    exact ih (by omega) w.2

/-- A write keeps the canonical form above any bound that is at most its key. -/
theorem storeWfFrom_put {b k : Nat} (h : b ≤ k) (v : β) {m : List (Nat × β)} (w : storeWfFrom d b m) :
    storeWfFrom d b (storePut d m k v) := by
  induction m generalizing b with
  | nil => by_cases hv : v = d <;> simp [storePut, storeWfFrom, hv, h]
  | cons p m ih =>
    obtain ⟨k', v'⟩ := p
    have w' := w
    simp only [storeWfFrom, Bool.and_eq_true, decide_eq_true_eq] at w'
    obtain ⟨⟨hb, hv'⟩, wm⟩ := w'
    unfold storePut
    by_cases h1 : k < k'
    · by_cases hv : v = d
      · simp [h1, hv, w]
      · simp only [h1, hv, if_true, if_false, storeWfFrom, Bool.and_eq_true, decide_eq_true_eq]
        exact ⟨⟨h, hv⟩, ⟨by omega, hv'⟩, wm⟩
    · by_cases h2 : k = k'
      · by_cases hv : v = d
        · simp only [h2, hv, if_true, if_false, lt_irrefl]
          exact storeWfFrom_mono (by omega) wm
        · simp only [h2, hv, if_true, if_false, lt_irrefl, storeWfFrom, Bool.and_eq_true, decide_eq_true_eq]
          exact ⟨⟨hb, hv⟩, wm⟩
      · simp only [h1, h2, if_false, storeWfFrom, Bool.and_eq_true, decide_eq_true_eq]
        exact ⟨⟨hb, hv'⟩, ih (by omega) wm⟩

/-- A write keeps the canonical form. -/
theorem storeWf_put (k : Nat) (v : β) {m : List (Nat × β)} (w : storeWf d m) : storeWf d (storePut d m k v) :=
  storeWfFrom_put (Nat.zero_le k) v w

/-- What a canonical store reads after a write: the written value at its key, every other key as before. -/
theorem storeGet_put {m : List (Nat × β)} (w : storeWf d m) (k j : Nat) (v : β) :
    storeGet d (storePut d m k v) j = if k = j then v else storeGet d m j := by
  suffices H : ∀ b, storeWfFrom d b m → storeGet d (storePut d m k v) j = if k = j then v else storeGet d m j from H 0 w
  clear w
  intro b w
  induction m generalizing b with
  | nil =>
    by_cases hv : v = d <;> by_cases hk : k = j <;> simp [storePut, storeGet, hv, hk]
  | cons p m ih =>
    obtain ⟨k', v'⟩ := p
    have w' := w
    simp only [storeWfFrom, Bool.and_eq_true, decide_eq_true_eq] at w'
    obtain ⟨⟨hb, hv'⟩, wm⟩ := w'
    unfold storePut
    by_cases h1 : k < k'
    · by_cases hv : v = d
      · simp only [h1, hv, if_true]
        by_cases hk : k = j
        · subst hk
          rw [if_pos rfl, storeGet, if_neg (by omega)]
          exact storeGet_below (by omega) wm
        · rw [if_neg hk]
      · simp only [h1, hv, if_true, if_false, storeGet]
    · by_cases h2 : k = k'
      · subst h2
        by_cases hv : v = d
        · simp only [hv, if_true, if_false, lt_irrefl, storeGet]
          by_cases hk : k = j
          · subst hk
            rw [if_pos rfl]
            exact storeGet_below (by omega) wm
          · rw [if_neg hk, if_neg hk]
        · simp only [hv, if_true, if_false, lt_irrefl, storeGet]
          by_cases hk : k = j <;> simp [hk]
      · simp only [h1, h2, if_false, storeGet]
        by_cases hj : k' = j
        · rw [if_pos hj, if_pos hj, if_neg (by omega)]
        · rw [if_neg hj, if_neg hj]
          exact ih _ wm

end Sys2Proof.Machine
end

