-- ==== Sys2Proof/Laws/Array.lean ====
section
/-! SUPPORT. Reading back the record array after a write, and the law of the array kept by every write that the
operations make. -/

namespace Sys2Proof.Machine

/-! ### Reading back -/

theorem wayKey_inj {n k : SetNo} {w v : WayNo} : wayKey n w = wayKey k v ↔ n = k ∧ w = v := by
  constructor
  · intro h
    simp only [wayKey] at h
    have hw := w.isLt
    have hv := v.isLt
    exact ⟨BitVec.eq_of_toNat_eq (by omega), Fin.ext (by omega)⟩
  · rintro ⟨rfl, rfl⟩; rfl

theorem State.putSet_aset {s : State} (h : storeWf ASet.cleared s.sets) (n k : SetNo) (x : ASet) :
    (s.putSet n x).aset k = if n = k then x else s.aset k := by
  simp only [State.aset, State.putSet, storeGet_put h]
  by_cases hk : n = k
  · simp [hk]
  · rw [if_neg hk, if_neg (fun e => hk (BitVec.eq_of_toNat_eq e))]

theorem State.putMark_mark {s : State} (h : storeWf Marks.clear s.marks) (n k : SetNo) (w v : WayNo) (m : Marks) :
    (s.putMark n w m).mark k v = if n = k ∧ w = v then m else s.mark k v := by
  simp only [State.mark, State.putMark, storeGet_put h, wayKey_inj]

/-! ### Sets -/

/-- Replacing one way. -/
theorem ways_set (x : Vector Way 8) (w v : WayNo) (y : Way) : (x.set w y)[v] = if w = v then y else x[v] := by
  simp only [Fin.getElem_fin, Vector.getElem_set, Fin.ext_iff]

/-- A way replaced by one with the same tag value and a lawful state part. -/
theorem ASet.lawful_way {x : ASet} (h : x.lawful) (w : WayNo) (y : Way) (ht : y.tag1.value = x.ways[w].tag1.value)
    (hy : y.lawful) : ASet.lawful { x with ways := x.ways.set w y } := by
  obtain ⟨h1, h2, h3, h4⟩ := h
  have tag : ∀ v : WayNo, (x.ways.set w y)[v].tag1.value = x.ways[v].tag1.value := by
    intro v; rw [ways_set]; split
    · next e => rw [← e]; exact ht
    · rfl
  refine ⟨fun v => ?_, fun u v t hu hv => ?_, h3, fun v => ?_⟩
  · show ((x.ways.set w y)[v]).lawful
    rw [ways_set]; split
    · exact hy
    · exact h1 v
  · exact h2 u v t ((tag u).symm.trans hu) ((tag v).symm.trans hv)
  · show v ∈ x.order.value ↔ ((x.ways.set w y)[v].tag1.value).isSome
    rw [tag]; exact h4 v

/-- The recency order replaced by one that lists the in-use ways once each. -/
theorem ASet.lawful_order {x : ASet} (h : x.lawful) (l : Coded (List WayNo) 35) (hn : l.value.Nodup)
    (hm : ∀ w, w ∈ l.value ↔ w ∈ x.order.value) : ASet.lawful { x with order := l } :=
  ⟨h.1, h.2.1, hn, fun w => (hm w).trans (h.2.2.2 w)⟩

/-- A way's tag copies replaced with its place in the order: freed. -/
theorem ASet.lawful_free {x : ASet} (h : x.lawful) (w : WayNo) (y : Way) (ht : y.tag1.value = none)
    (hy : y.tag2.value = none) (l : Coded (List WayNo) 35) (hl : l.value = x.order.value.filter (fun v => v != w)) :
    ASet.lawful { ways := x.ways.set w y, order := l } := by
  obtain ⟨h1, h2, h3, h4⟩ := h
  refine ⟨fun v => ?_, fun u v t hu hv => ?_, ?_, fun v => ?_⟩
  · show ((x.ways.set w y)[v]).lawful
    rw [ways_set]; split
    · exact ⟨by rw [ht, hy], by simp [ht]⟩
    · exact h1 v
  · change ((x.ways.set w y)[u]).tag1.value = some t at hu
    change ((x.ways.set w y)[v]).tag1.value = some t at hv
    rw [ways_set] at hu hv
    split at hu
    · rw [ht] at hu; simp at hu
    · split at hv
      · rw [ht] at hv; simp at hv
      · exact h2 u v t hu hv
  · show l.value.Nodup
    rw [hl]; exact h3.filter _
  · show v ∈ l.value ↔ ((x.ways.set w y)[v].tag1.value).isSome
    rw [hl, ways_set, List.mem_filter]
    by_cases e : w = v
    · simp [e, ht]
    · rw [if_neg e, h4 v]
      simp [Ne.symm e]

/-- A way written in use for a line that no way of the set has, with the way at the front. -/
theorem ASet.lawful_install {x : ASet} (h : x.lawful) (w : WayNo) (y : Way) (t : RecTag)
    (ht : y.tag1.value = some t) (ht2 : y.tag2.value = some t) (hr : y.state.value.lawful)
    (hno : ∀ v : WayNo, v ≠ w → x.ways[v].tag1.value ≠ some t) (l : Coded (List WayNo) 35)
    (hl : l.value = w :: x.order.value.filter (fun v => v != w)) :
    ASet.lawful { ways := x.ways.set w y, order := l } := by
  obtain ⟨h1, h2, h3, h4⟩ := h
  refine ⟨fun v => ?_, fun u v t' hu hv => ?_, ?_, fun v => ?_⟩
  · show ((x.ways.set w y)[v]).lawful
    rw [ways_set]; split
    · exact ⟨by rw [ht, ht2], fun _ => hr⟩
    · exact h1 v
  · change ((x.ways.set w y)[u]).tag1.value = some t' at hu
    change ((x.ways.set w y)[v]).tag1.value = some t' at hv
    rw [ways_set] at hu hv
    split at hu
    · next e =>
      split at hv
      · next e' => exact e.symm.trans e'
      · next e' =>
        rw [ht] at hu
        exact absurd (hu ▸ hv) (hno v (Ne.symm e'))
    · next e =>
      split at hv
      · rw [ht] at hv
        exact absurd (hv ▸ hu) (hno u (Ne.symm e))
      · exact h2 u v t' hu hv
  · show l.value.Nodup
    rw [hl]
    refine List.nodup_cons.2 ⟨by simp, h3.filter _⟩
  · show v ∈ l.value ↔ ((x.ways.set w y)[v].tag1.value).isSome
    rw [hl, ways_set, List.mem_cons, List.mem_filter]
    by_cases e : w = v
    · simp [e, ht]
    · rw [if_neg e, h4 v]
      simp [Ne.symm e]

/-- A cleared set is lawful (R20). -/
theorem ASet.lawful_cleared : ASet.cleared.lawful := by
  have tag : ∀ w : WayNo, ASet.cleared.ways[w] = Way.cleared := by
    intro w; simp [ASet.cleared]
  refine ⟨fun w => ?_, fun v w t hv => ?_, List.nodup_nil, fun w => ?_⟩
  · rw [tag]; exact ⟨rfl, by simp [Way.cleared]⟩
  · rw [tag] at hv; simp [Way.cleared] at hv
  · rw [tag]; simp [Way.cleared, ASet.cleared]

/-! ### The array -/

theorem State.arrayLawful_putSet {s : State} (h : s.arrayLawful) {n : SetNo} {x : ASet} (hx : x.lawful)
    (hd : ∀ w : WayNo, (s.mark n w).disable → x.ways[w].tag1.value = none) : (s.putSet n x).arrayLawful := by
  obtain ⟨h1, h2, h3, h4⟩ := h
  refine ⟨fun k => ?_, fun k w hk => ?_, storeWf_put _ _ h3, h4⟩
  · rw [State.putSet_aset h3]; split
    · exact hx
    · exact h1 k
  · rw [State.putSet_aset h3]; split
    · next e => subst e; exact hd w hk
    · exact h2 k w hk

theorem State.arrayLawful_putMark {s : State} (h : s.arrayLawful) {n : SetNo} {w : WayNo} {m : Marks}
    (hd : m.disable → (s.aset n).ways[w].tag1.value = none) : (s.putMark n w m).arrayLawful := by
  obtain ⟨h1, h2, h3, h4⟩ := h
  refine ⟨h1, fun k v hk => ?_, h3, storeWf_put _ _ h4⟩
  rw [State.putMark_mark h4] at hk
  split at hk
  · next e => obtain ⟨rfl, rfl⟩ := e; exact hd hk
  · exact h2 k v hk

/-- Marks written with the disable mark as it stands. -/
theorem State.arrayLawful_putMark_same {s : State} (h : s.arrayLawful) {n : SetNo} {w : WayNo} {m : Marks}
    (hd : m.disable = (s.mark n w).disable) : (s.putMark n w m).arrayLawful :=
  State.arrayLawful_putMark h (fun hm => h.2.1 n w (hd ▸ hm))

/-- One way changed without changing its tag value. -/
theorem State.arrayLawful_modWay {s : State} (h : s.arrayLawful) {n : SetNo} {w : WayNo} {f : Way → Way}
    (ht : (f (s.aset n).ways[w]).tag1.value = (s.aset n).ways[w].tag1.value) (hf : (f (s.aset n).ways[w]).lawful) :
    (s.modWay n w f).arrayLawful := by
  refine State.arrayLawful_putSet h (ASet.lawful_way (h.1 n) w _ ht hf) (fun v hv => ?_)
  rw [ways_set]; split
  · next e => subst e; rw [ht]; exact h.2.1 n w hv
  · exact h.2.1 n v hv

/-- The set header rewritten with an order that lists the in-use ways once each. -/
theorem State.arrayLawful_writeOrder {s : State} (h : s.arrayLawful) {n : SetNo} {l : List WayNo} (hn : l.Nodup)
    (hm : ∀ w, w ∈ l ↔ w ∈ (s.aset n).order.value) : (s.writeOrder n l).arrayLawful :=
  State.arrayLawful_putSet h (ASet.lawful_order (h.1 n) _ hn hm) (fun v hv => h.2.1 n v hv)

/-- A way's tag is what its first copy holds, on a lawful array. -/
theorem Way.tag_lawful {y : Way} (h : y.lawful) : y.tag = y.tag1.value := by
  unfold Way.tag; split
  · exact h.1.symm
  · rfl

/-- What the array answers for a way: its stored tag, whether or not the way is disabled. -/
theorem State.wayTag_lawful {s : State} (h : s.arrayLawful) (n : SetNo) (w : WayNo) :
    s.wayTag n w = (s.aset n).ways[w].tag1.value := by
  unfold State.wayTag; split
  · exact Way.tag_lawful ((h.1 n).1 w)
  · next e =>
    simp only [State.enabled, Bool.not_eq_true', Bool.not_eq_false] at e
    exact (h.2.1 n w e).symm

theorem mem_ways (w : WayNo) : w ∈ ways := by revert w; decide

/-- The in-use ways are those of the recency order (R13). -/
theorem State.mem_inUseWays {s : State} (h : s.arrayLawful) (n : SetNo) (w : WayNo) :
    w ∈ s.inUseWays n ↔ w ∈ (s.aset n).order.value := by
  rw [State.inUseWays, List.mem_filter, State.wayTag_lawful h, (h.1 n).2.2.2 w]
  simp [mem_ways]

theorem State.inUseWays_nodup (s : State) (n : SetNo) : (s.inUseWays n).Nodup :=
  List.Nodup.filter _ (by decide)

/-- The record read from an in-use way is lawful. -/
theorem State.recAt_lawful {s : State} (h : s.arrayLawful) {n : SetNo} {w : WayNo} (hw : (s.wayTag n w).isSome) :
    (s.recAt n w).lawful := by
  rw [State.wayTag_lawful h] at hw
  exact ((h.1 n).1 w).2 hw

/-- The way a lookup finds is in use. -/
theorem State.lookup_inUse {s : State} {l : Line} {w : WayNo} (h : s.lookup l = some w) :
    s.wayTag (setOf l) w = some (tagOf l) := by
  have := List.find?_some h
  simpa using this

/-- No way has the tag of a line that a lookup finds absent. -/
theorem State.lookup_absent {s : State} {l : Line} (h : s.lookup l = none) (w : WayNo) :
    s.wayTag (setOf l) w ≠ some (tagOf l) := by
  have := List.find?_eq_none.1 h w (mem_ways w)
  simpa using this

theorem State.lineRec_some {s : State} {l : Line} {w : WayNo} {r : Rec} (h : s.lineRec l = some (w, r)) :
    s.lookup l = some w ∧ r = s.recAt (setOf l) w := by
  unfold State.lineRec at h
  rw [Option.map_eq_some_iff] at h
  obtain ⟨v, hv, e⟩ := h
  simp only [Prod.mk.injEq] at e
  obtain ⟨rfl, rfl⟩ := e
  exact ⟨hv, rfl⟩

theorem State.lineRec_none {s : State} {l : Line} (h : s.lineRec l = none) : s.lookup l = none := by
  simpa [State.lineRec] using h

theorem State.lineRec_lawful {s : State} (h : s.arrayLawful) {l : Line} {w : WayNo} {r : Rec}
    (hl : s.lineRec l = some (w, r)) : r.lawful := by
  obtain ⟨h1, rfl⟩ := State.lineRec_some hl
  exact State.recAt_lawful h (by rw [State.lookup_inUse h1]; rfl)

/-- The way a line's record stands in is listed in the recency order. -/
theorem State.lookup_ordered {s : State} (h : s.arrayLawful) {l : Line} {w : WayNo} (hl : s.lookup l = some w) :
    w ∈ (s.aset (setOf l)).order.value := by
  rw [(h.1 (setOf l)).2.2.2 w, ← State.wayTag_lawful h, State.lookup_inUse hl]; rfl

end Sys2Proof.Machine
end

