-- ==== Sys2Proof/Laws/Table.lean ====
section
/-! SUPPORT. The law of the transaction table: what an entry's write must show to keep it. -/

namespace Sys2Proof.Machine

/-- What a change of an active entry leaves as it was, so that the law of the table stays. -/
def Entry.steady (x y : Entry) : Prop :=
  y.line = x.line ∧ (y.kind.isAgent = true → x.kind.isAgent = true) ∧ y.deferred = x.deferred ∧
  (y.pinCounted = true → x.pinCounted = true) ∧ y.phase ≠ .free ∧
  (y.phase = .pinned ∧ y.saves = true → x.phase = .pinned ∧ x.saves = true)

theorem entryNos_nodup : entryNos.Nodup := by decide

theorem mem_entryNos (e : EntryNo) : e ∈ entryNos := by revert e; decide

/-- A count over a list without repetitions, where the predicate changes at one place only. -/
theorem countP_le_succ {α : Type} {p q : α → Bool} {a : α} {l : List α} (hl : l.Nodup)
    (h : ∀ x, x ≠ a → q x = true → p x = true) : l.countP q ≤ l.countP p + 1 := by
  induction l with
  | nil => simp
  | cons x l ih =>
    have hn := List.nodup_cons.mp hl
    rw [List.countP_cons, List.countP_cons]
    by_cases e : x = a
    · have k : l.countP q ≤ l.countP p :=
        List.countP_mono_left (fun y hy => h y (fun c => hn.1 (by rw [e, ← c]; exact hy)))
      split <;> split <;> omega
    · have k := ih hn.2
      by_cases c : q x = true
      · simp only [c, h x e c, if_true]; omega
      · rw [if_neg c]; omega

/-- A count of entries after one entry is written. -/
theorem count_setEntry {g : Entry → Bool} {s : State} {e : EntryNo} {x : Entry} {m : Nat}
    (h : (entryNos.filter (fun f => g (s.entry f))).length ≤ m)
    (hx : g x = true → g (s.entry e) = true ∨ (entryNos.filter (fun f => g (s.entry f))).length < m) :
    (entryNos.filter (fun f => g ((s.setEntry e x).entry f))).length ≤ m := by
  rw [← List.countP_eq_length_filter] at *
  by_cases c : g x = true ∧ g (s.entry e) ≠ true
  · have k := countP_le_succ (p := fun f => g (s.entry f)) (q := fun f => g ((s.setEntry e x).entry f)) (a := e)
      entryNos_nodup (fun f n hf => by rw [State.setEntry_entry_ne s x (Ne.symm n)] at hf; exact hf)
    rcases hx c.1 with d | d
    · exact absurd d c.2
    · omega
  · refine Nat.le_trans (List.countP_mono_left (fun f _ hf => ?_)) h
    rw [State.setEntry_entry] at hf
    split at hf
    · next n =>
      subst n
      by_cases d : g (s.entry e) = true
      · exact d
      · exact absurd ⟨hf, d⟩ c
    · exact hf

/-- The law of the table after one entry is written. -/
theorem State.tableLawful_setEntry {s : State} {e : EntryNo} {x : Entry} (h : s.tableLawful)
    (hl : x.phase ≠ .free → ∀ f, f ≠ e → (s.entry f).phase ≠ .free → (s.entry f).line ≠ x.line)
    (hd : x.lawful) (hp : x.pinCounted = true → (s.entry e).pinCounted = true ∨ s.pinCount < Config.pinLimit)
    (hh : x.holdsPlace = true → (s.entry e).holdsPlace = true ∨ s.placesHeld < Config.agentPlaces) :
    (s.setEntry e x).tableLawful := by
  obtain ⟨h1, h2, h3, h4⟩ := h
  refine ⟨fun f g hf hg hfg => ?_, fun f => ?_, count_setEntry (g := Entry.pinCounted) h3 hp,
    count_setEntry (g := Entry.holdsPlace) h4 hh⟩
  · by_cases a : e = f
    · subst a
      by_cases b : e = g
      · exact b
      · rw [State.setEntry_entry_same] at hf hfg
        rw [State.setEntry_entry_ne s x b] at hg hfg
        exact absurd hfg.symm (hl hf g (Ne.symm b) hg)
    · rw [State.setEntry_entry_ne s x a] at hf hfg
      by_cases b : e = g
      · subst b
        rw [State.setEntry_entry_same] at hg hfg
        exact absurd hfg (hl hg f (Ne.symm a) hf)
      · rw [State.setEntry_entry_ne s x b] at hg hfg
        exact h1 f g hf hg hfg
  · rw [State.setEntry_entry]; split
    · exact hd
    · exact h2 f

theorem Entry.steady.lawful {x y : Entry} (h : x.steady y) (d : x.lawful) : y.lawful := by
  obtain ⟨h1, _, h3, _, h5, h6⟩ := h
  obtain ⟨⟨d1, d2, _⟩, d4⟩ := d
  refine ⟨⟨by rw [h3]; exact d1, by rw [h3, h1]; exact d2, fun c => absurd c h5⟩, fun c => ?_⟩
  by_contra n
  obtain ⟨k1, k2⟩ := h6 ⟨c, by simpa using n⟩
  rw [d4 k1] at k2; cases k2

/-- An entry made in another phase than PINNED is lawful where its deferred list is. -/
theorem Entry.lawful_of {x : Entry} (d : x.deferredLawful) (h : x.phase ≠ .pinned) : x.lawful := ⟨d, fun c => absurd c h⟩

theorem Entry.steady.holdsPlace {x y : Entry} (h : x.steady y) (n : x.phase ≠ .free) (d : y.holdsPlace = true) :
    x.holdsPlace = true := by
  obtain ⟨_, h2, h3, _, _, _⟩ := h
  simp only [Entry.holdsPlace, h3, Bool.and_eq_true, Bool.or_eq_true] at *
  exact ⟨by simpa using n, d.2.imp h2 id⟩

/-- The law of the table after an active entry is changed in nothing the law speaks of. -/
theorem State.tableLawful_steady {s : State} {e : EntryNo} {x : Entry} (h : s.tableLawful)
    (n : (s.entry e).phase ≠ .free) (hx : (s.entry e).steady x) : (s.setEntry e x).tableLawful := by
  refine tableLawful_setEntry h (fun _ f k hf c => ?_) (hx.lawful (h.2.1 e)) (fun c => .inl (hx.2.2.2.1 c))
    (fun c => .inl (hx.holdsPlace n c))
  exact k (h.1 f e hf n (c.trans hx.1))

/-- Writing an entry as it stands changes nothing. -/
theorem State.setEntry_self (s : State) (e : EntryNo) : s.setEntry e (s.entry e) = s := by
  unfold State.setEntry State.entry
  simp [Vector.set_getElem_self]

/-- The law of the table after an active entry is changed in nothing the law speaks of; a FREE one takes no change. -/
theorem State.tableLawful_modEntry {s : State} {e : EntryNo} {f : Entry → Entry} (h : s.tableLawful)
    (hf : ∀ x : Entry, x.phase ≠ .free → x.steady (f x)) : (s.modEntry e f).tableLawful := by
  rw [State.modEntry_eq]
  by_cases n : (s.entry e).phase = .free
  · rw [Entry.change_free n, State.setEntry_self]; exact h
  · rw [Entry.change_active n]; exact tableLawful_steady h n (hf _ n)

/-- The law of the table after an entry becomes FREE. -/
theorem State.tableLawful_free {s : State} (h : s.tableLawful) (e : EntryNo) (u : UseNo) :
    (s.setEntry e (Entry.free u)).tableLawful :=
  tableLawful_setEntry h (fun c => absurd rfl c)
    (Entry.lawful_of ⟨by simp [Entry.free], by simp [Entry.free], fun _ => rfl⟩ (by simp [Entry.free])) (fun c => by simp [Entry.free] at c) (fun c => by simp [Entry.free, Entry.holdsPlace] at c)

/-- The law of the table after an entry is handed over to the head of its deferred list. -/
theorem State.tableLawful_handOver {s : State} (h : s.tableLawful) {e : EntryNo} {q : Request} {rest : List Request}
    (d : (s.entry e).deferred = q :: rest) (u : UseNo) : (s.setEntry e (Entry.ofRequest q u rest)).tableLawful := by
  obtain ⟨⟨d1, d2, d3⟩, _⟩ := h.2.1 e
  have n : (s.entry e).phase ≠ .free := fun c => by rw [d3 c] at d; cases d
  rw [d] at d1 d2
  have ql := d2 q (by simp)
  refine tableLawful_setEntry h (fun _ f k hf c => k (h.1 f e hf n (c.trans ql)))
    (Entry.lawful_of ⟨?_, fun r hr => ?_, fun c => ?_⟩ (fun c => Phase.noConfusion (show Phase.starting = .pinned from c))) (fun c => Bool.noConfusion (show false = true from c)) (fun _ => .inl ?_)
  · exact (List.nodup_cons.mp d1).2
  · exact (d2 r (List.mem_cons_of_mem _ hr)).trans ql.symm
  · exact Phase.noConfusion (show Phase.starting = .free from c)
  · simp [Entry.holdsPlace, n, d]

/-- The law of the table after a LOCKED-READ passes the pin-limit check. -/
theorem State.tableLawful_pin {s : State} (h : s.tableLawful) (e : EntryNo) (c : s.pinCount < Config.pinLimit) :
    (s.modEntry e (fun x => { x with pinCounted := true })).tableLawful := by
  rw [State.modEntry_eq]
  by_cases n : (s.entry e).phase = .free
  · rw [Entry.change_free n, State.setEntry_self]; exact h
  · rw [Entry.change_active n]
    exact tableLawful_setEntry h (fun _ f k hf d => k (h.1 f e hf n d)) (h.2.1 e) (fun _ => .inr c) (fun d => .inl d)

/-- The law of the table where every entry is FREE. -/
theorem State.tableLawful_allFree {s : State} (h : ∀ e, (s.entry e).phase = .free ∧ (s.entry e).deferred = [] ∧
    (s.entry e).pinCounted = false) : s.tableLawful := by
  refine ⟨fun e _ he => absurd (h e).1 he, fun e => Entry.lawful_of
    ⟨by simp [(h e).2.1], by simp [(h e).2.1], fun _ => (h e).2.1⟩ (by simp [(h e).1]), ?_, ?_⟩
  · simp [State.pinCount, (h _).2.2]
  · simp [State.placesHeld, Entry.holdsPlace, (h _).1]

/-- The law of the table after every entry is changed in nothing the law speaks of. -/
theorem State.tableLawful_map {s : State} {f : Entry → Entry} (h : s.tableLawful)
    (hf : ∀ x : Entry, (f x).phase = x.phase ∧ (f x).line = x.line ∧ (f x).kind = x.kind ∧ (f x).deferred = x.deferred ∧
      (f x).pinCounted = x.pinCounted ∧ (f x).saves = x.saves) : State.tableLawful { s with entries := s.entries.map f } := by
  have k : ∀ e, State.entry { s with entries := s.entries.map f } e = f (s.entry e) := fun e => by simp [State.entry]
  obtain ⟨h1, h2, h3, h4⟩ := h
  refine ⟨fun e g => ?_, fun e => ?_, ?_, ?_⟩
  · rw [k, k, (hf _).1, (hf _).1, (hf _).2.1, (hf _).2.1]; exact h1 e g
  · rw [k]; unfold Entry.lawful Entry.deferredLawful
    rw [(hf _).1, (hf _).2.1, (hf _).2.2.2.1, (hf _).2.2.2.2.2]; exact h2 e
  · unfold State.pinCount; simp only [k, (hf _).2.2.2.2.1]; exact h3
  · unfold State.placesHeld Entry.holdsPlace; simp only [k, (hf _).1, (hf _).2.2.1, (hf _).2.2.2.1]; exact h4

/-- The busy question answers none where no active entry has the line (R49). -/
theorem State.busy_none {s : State} {l : Line} (h : s.busy l = none) (e : EntryNo) (n : (s.entry e).phase ≠ .free) :
    (s.entry e).line ≠ l := by
  unfold State.busy at h
  have k := List.find?_eq_none.mp h e (mem_entryNos e)
  simpa [n] using k

/-- The busy question answers an active entry of the line (R49). -/
theorem State.busy_some {s : State} {l : Line} {e : EntryNo} (h : s.busy l = some e) :
    (s.entry e).phase ≠ .free ∧ (s.entry e).line = l := by
  unfold State.busy at h
  simpa using List.find?_some h

/-- The law of the table after a failed agent's requests leave a deferred list. -/
theorem State.tableLawful_undefer {s : State} (h : s.tableLawful) (a : Agent) (e : EntryNo) :
    (s.modEntry e (fun x => { x with deferred := x.deferred.filter (fun q => q.agent != a) })).tableLawful := by
  rw [State.modEntry_eq]
  by_cases n : (s.entry e).phase = .free
  · rw [Entry.change_free n, State.setEntry_self]; exact h
  · rw [Entry.change_active n]
    obtain ⟨⟨d1, d2, _⟩, d4⟩ := h.2.1 e
    refine tableLawful_setEntry h (fun _ f k hf d => k (h.1 f e hf n d)) ⟨⟨?_, ?_, fun c => absurd c n⟩, d4⟩ .inl
      (fun c => .inl ?_)
    · exact d1.sublist (List.filter_sublist.map _)
    · exact fun q hq => d2 q (List.mem_of_mem_filter hq)
    · simp only [Entry.holdsPlace, Bool.and_eq_true, Bool.or_eq_true] at c ⊢
      refine ⟨c.1, c.2.imp id (fun d => ?_)⟩
      cases hd : (s.entry e).deferred with
      | nil => simp [hd] at d
      | cons _ _ => rfl

/-- The law of the table after a request joins the deferred list of the line's entry. -/
theorem State.tableLawful_defer {s : State} (h : s.tableLawful) {e : EntryNo} {q : Request} (hb : s.busy q.line = some e)
    (ho : (s.entry e).outstanding q.agent = false)
    (hp : (s.entry e).holdsPlace = true ∨ s.placesHeld < Config.agentPlaces) :
    (s.modEntry e (fun x => { x with deferred := x.deferred ++ [q] })).tableLawful := by
  obtain ⟨n, hl⟩ := busy_some hb
  obtain ⟨⟨d1, d2, _⟩, d4⟩ := h.2.1 e
  rw [State.modEntry_eq, Entry.change_active n]
  simp only [Entry.outstanding, Bool.or_eq_false_iff, List.any_eq_false, beq_iff_eq] at ho
  refine tableLawful_setEntry h (fun _ f k hf d => k (h.1 f e hf n d)) ⟨⟨?_, fun r hr => ?_, fun c => absurd c n⟩, d4⟩
    .inl (fun _ => hp)
  · rw [List.map_append]
    refine List.Nodup.append d1 (List.nodup_singleton _) (fun x hx hy => ?_)
    rw [List.map_singleton, List.mem_singleton] at hy
    obtain ⟨r, hr, rx⟩ := List.mem_map.mp hx
    exact ho.2 r hr (rx.trans hy)
  · rcases List.mem_append.mp hr with hr | hr
    · exact d2 r hr
    · rw [List.mem_singleton] at hr; rw [hr]; exact hl.symm

/-- The law of the table after an idle line is allocated an entry with a place. -/
theorem State.tableLawful_alloc {s : State} (h : s.tableLawful) (e : EntryNo) {q : Request} (hb : s.busy q.line = none)
    (hp : s.placesHeld < Config.agentPlaces) (u : UseNo) : (s.setEntry e (Entry.ofRequest q u [])).tableLawful :=
  tableLawful_setEntry h (fun _ f _ hf => busy_none hb f hf)
    (Entry.lawful_of ⟨List.nodup_nil, fun _ hr => absurd hr List.not_mem_nil, fun _ => rfl⟩ (fun c => Phase.noConfusion (show Phase.starting = .pinned from c)))
    (fun c => Bool.noConfusion (show false = true from c)) (fun _ => .inr hp)

end Sys2Proof.Machine
end

