-- ==== Sys2Proof/Laws/Keeps.lean ====
section
/-! SUPPORT. What internal work can do to State, said once: the relation Keeps, its composition, and the named updates and
counters that keep it. -/

namespace Sys2Proof.Machine

/-- A port with a free place in its output queue, or one that takes no messages (R36). -/
def Port.roomy (p : Port) : Prop := p.output.length < Config.outputQueueSize ∨ p.attached = false

/-- What internal work leaves as it was: the pin, the links, the settings, the unit time, the maintenance link, the
command queue; FAILED ports stay FAILED with their flag, pending alerts stay pending, a valid capture record stays, sent memory messages
stay sent; the laws stay true. With `room`, no port that is attached loses the last free place of its output queue. -/
structure Keeps (room : Bool) (s t : State) : Prop where
  resetPin : t.resetPin = s.resetPin
  physLink : t.physLink = s.physLink
  walk : t.walk = s.walk
  settings : t.settings = s.settings
  unitTime : t.unitTime = s.unitTime
  executing : t.executing = s.executing
  answer : t.answer = s.answer
  pending : t.pending = s.pending
  link : ∀ a, (t.port a).link = (s.port a).link
  failed : ∀ a, (s.port a).state = .failed →
    (t.port a).state = .failed ∧ (t.port a).autoOffline = (s.port a).autoOffline
  alerts : ∀ i, s.alertPending.getLsbD i = true → t.alertPending.getLsbD i = true
  capture : s.capture.isSome → t.capture = s.capture
  sent : s.memSent <+: t.memSent
  law : s.recordsLawful → t.recordsLawful
  ports : s.portsBounded → t.portsBounded
  counters : s.countersBounded → t.countersBounded
  table : s.tableLawful → t.tableLawful
  free : room = true → ∀ a, (s.port a).roomy → (t.port a).roomy

namespace Keeps

variable {b : Bool} {s t u : State}

theorem refl (s : State) : Keeps b s s :=
  ⟨rfl, rfl, rfl, rfl, rfl, rfl, rfl, rfl, fun _ => rfl, fun _ h => ⟨h, rfl⟩, fun _ h => h, fun _ => rfl, List.prefix_refl _,
    fun h => h, fun h => h, fun h => h, fun h => h, fun _ _ h => h⟩

theorem trans (h : Keeps b s t) (k : Keeps b t u) : Keeps b s u where
  resetPin := k.resetPin.trans h.resetPin
  physLink := k.physLink.trans h.physLink
  walk := k.walk.trans h.walk
  settings := k.settings.trans h.settings
  unitTime := k.unitTime.trans h.unitTime
  executing := k.executing.trans h.executing
  answer := k.answer.trans h.answer
  pending := k.pending.trans h.pending
  link := fun a => (k.link a).trans (h.link a)
  failed := fun a e =>
    ⟨(k.failed a (h.failed a e).1).1, (k.failed a (h.failed a e).1).2.trans (h.failed a e).2⟩
  alerts := fun i e => k.alerts i (h.alerts i e)
  capture := fun e => (k.capture (by rw [h.capture e]; exact e)).trans (h.capture e)
  sent := h.sent.trans k.sent
  law := fun e => k.law (h.law e)
  ports := fun e => k.ports (h.ports e)
  counters := fun e => k.counters (h.counters e)
  table := fun e => k.table (h.table e)
  free := fun e a l => k.free e a (h.free e a l)

/-- Work that keeps room keeps the rest. -/
theorem weaken (h : Keeps true s t) : Keeps b s t := { h with free := fun _ => h.free rfl }

/-! ### Fields the laws do not speak of -/

theorem other (h : Keeps b s t) (unitState position rebuildClaims awaiting buffers bufferWaiters tags claimQueue sweep
    scrub work) : Keeps b s { t with
      unitState := unitState, position := position, rebuildClaims := rebuildClaims, awaiting := awaiting
      buffers := buffers, bufferWaiters := bufferWaiters, tags := tags, claimQueue := claimQueue, sweep := sweep
      scrub := scrub, work := work } :=
  h.trans ⟨rfl, rfl, rfl, rfl, rfl, rfl, rfl, rfl, fun _ => rfl, fun _ h => ⟨h, rfl⟩, fun _ h => h, fun _ => rfl,
    List.prefix_refl _, fun l => l, fun l => l, fun l => l, fun l => l, fun _ _ h => h⟩

@[simp] theorem push (h : Keeps b s t) (w : Task) : Keeps b s (t.push w) := h.other _ _ _ _ _ _ _ _ _ _ _

@[simp] theorem setBuffer (h : Keeps b s t) (i : BufferNo) (x : WbBuffer) : Keeps b s (t.setBuffer i x) :=
  h.other _ _ _ _ _ _ _ _ _ _ _

@[simp] theorem setTag (h : Keeps b s t) (i : MemTagNo) (x : MemTag) : Keeps b s (t.setTag i x) :=
  h.other _ _ _ _ _ _ _ _ _ _ _

theorem send (h : Keeps b s t) (m : List MemMsg) : Keeps b s { t with memSent := t.memSent ++ m } :=
  h.trans ⟨rfl, rfl, rfl, rfl, rfl, rfl, rfl, rfl, fun _ => rfl, fun _ h => ⟨h, rfl⟩, fun _ h => h, fun _ => rfl,
    List.prefix_append _ _, fun l => l, fun l => l, fun l => l, fun l => l, fun _ _ h => h⟩

/-! ### Alerts, counters, capture -/

@[simp] theorem raise (h : Keeps b s t) (c : Nat) : Keeps b s (t.raise c) :=
  h.trans ⟨rfl, rfl, rfl, rfl, rfl, rfl, rfl, rfl, fun _ => rfl, fun _ h => ⟨h, rfl⟩, fun i e => by simp [e], fun _ => rfl,
    List.prefix_refl _, fun l => l, fun l => l, fun l => l, fun l => l, fun _ _ h => h⟩

theorem satInc_le (m n : Nat) : satInc m n ≤ m := by unfold satInc; split <;> omega

theorem counted (h : Keeps b s t) (c : Counters) (hc : t.countersBounded → { t with counters := c }.countersBounded) :
    Keeps b s { t with counters := c } :=
  h.trans ⟨rfl, rfl, rfl, rfl, rfl, rfl, rfl, rfl, fun _ => rfl, fun _ h => ⟨h, rfl⟩, fun _ h => h, fun _ => rfl,
    List.prefix_refl _, fun l => l, fun l => l, hc, fun l => l, fun _ _ h => h⟩

theorem captured (h : Keeps b s t) (r : Report) (e : t.capture = none) : Keeps b s { t with capture := some r } := by
  refine h.trans ⟨rfl, rfl, rfl, rfl, rfl, rfl, rfl, rfl, fun _ => rfl, fun _ h => ⟨h, rfl⟩, fun _ h => h,
    fun k => by simp [e] at k, List.prefix_refl _, fun l => l, fun l => l, ?_, fun l => l, fun _ _ h => h⟩
  intro ⟨c1, c2, c3, c4, c5, c6, c7, c8⟩
  exact ⟨c1, c2, c3, c4, c5, c6, c7, by simp⟩

@[simp] theorem report (h : Keeps b s t) (r : Report) : Keeps b s (t.report r) := by
  unfold State.report
  split
  · next e => exact (h.captured r e).raise _
  · next e =>
    refine h.counted _ (fun ⟨c1, c2, _, c4, c5, c6, c7, _⟩ => ⟨c1, c2, satInc_le _ _, c4, c5, c6, c7, by simp [e]⟩)

@[simp] theorem softFault (h : Keeps b s t) : Keeps b s t.softFault := by
  have k := h.counted { t.counters with soft := satInc Config.counterMax t.counters.soft }
    (fun ⟨_, c2, c3, c4, c5, c6, c7, c8⟩ => ⟨satInc_le _ _, c2, c3, c4, c5, c6, c7, c8⟩)
  unfold State.softFault
  dsimp only
  split
  · exact k.raise _
  · exact k

@[simp] theorem countHard (h : Keeps b s t) : Keeps b s t.countHard :=
  h.counted _ (fun ⟨c1, _, c3, c4, c5, c6, c7, c8⟩ => ⟨c1, satInc_le _ _, c3, c4, c5, c6, c7, c8⟩)

@[simp] theorem countLateDrop (h : Keeps b s t) : Keeps b s t.countLateDrop :=
  h.counted _ (fun ⟨c1, c2, c3, _, c5, c6, c7, c8⟩ => ⟨c1, c2, c3, satInc_le _ _, c5, c6, c7, c8⟩)

@[simp] theorem countStale (h : Keeps b s t) : Keeps b s t.countStale :=
  h.counted _ (fun ⟨c1, c2, c3, c4, _, c6, c7, c8⟩ => ⟨c1, c2, c3, c4, satInc_le _ _, c6, c7, c8⟩)

@[simp] theorem countLateMem (h : Keeps b s t) : Keeps b s t.countLateMem :=
  h.counted _ (fun ⟨c1, c2, c3, c4, c5, _, c7, c8⟩ => ⟨c1, c2, c3, c4, c5, satInc_le _ _, c7, c8⟩)

@[simp] theorem countMemCorrected (h : Keeps b s t) : Keeps b s t.countMemCorrected :=
  h.counted _ (fun ⟨c1, c2, c3, c4, c5, c6, _, c8⟩ => ⟨c1, c2, c3, c4, c5, c6, satInc_le _ _, c8⟩)

@[simp] theorem reportProtocol (h : Keeps b s t) (q : SubReason) (a : Agent) (l : Option Line) (e : Option Byte) :
    Keeps b s (t.reportProtocol q a l e) := h.report _

@[simp] theorem reportHard (h : Keeps b s t) (n : SetNo) (w : WayNo) (l : Line) (e : Option EntryNo) :
    Keeps b s (t.reportHard n w l e) := h.report _

@[simp] theorem softFaults (h : Keeps b s t) (k : Nat) : Keeps b s (t.softFaults k) := by
  induction k with
  | zero => exact h
  | succ k ih => exact ih.softFault

/-! ### Ports -/

theorem setPort (h : Keeps b s t) (a : Agent) (p : Port) (hl : p.link = (t.port a).link)
    (hf : (t.port a).state = .failed → p.state = .failed ∧ p.autoOffline = (t.port a).autoOffline)
    (hb : (t.port a).bounded a → p.bounded a) (hr : b = true → (t.port a).roomy → p.roomy) :
    Keeps b s (t.setPort a p) := by
  refine h.trans ⟨rfl, rfl, rfl, rfl, rfl, rfl, rfl, rfl, fun c => ?_, fun c => ?_, fun _ h => h, fun _ => rfl,
    List.prefix_refl _, fun l => l, fun l c => ?_, fun l => l, fun l => l, fun e c => ?_⟩
  all_goals rw [State.setPort_port]; split
  · next e => rw [← e]; exact hl
  · rfl
  · next e => rw [← e]; exact hf
  · exact fun h => ⟨h, rfl⟩
  · next e => rw [← e]; exact hb (l a)
  · exact l c
  · next x => rw [← x]; exact hr e
  · exact fun h => h

@[simp] theorem modPort (h : Keeps b s t) (a : Agent) (f : Port → Port) (hl : ∀ p, (f p).link = p.link)
    (hf : ∀ p, p.state = .failed → (f p).state = .failed ∧ (f p).autoOffline = p.autoOffline)
    (hb : ∀ p : Port, p.bounded a → (f p).bounded a) (hr : ∀ p : Port, p.roomy → (f p).roomy) :
    Keeps b s (t.modPort a f) :=
  h.setPort a _ (hl _) (hf _) (hb _) (fun _ => hr _)

/-- A port changed in none of the fields the laws speak of. -/
@[simp] theorem modPort_same (h : Keeps b s t) (a : Agent) (f : Port → Port) (hl : ∀ p, (f p).link = p.link)
    (hs : ∀ p, (f p).state = p.state ∧ (f p).autoOffline = p.autoOffline) (h1 : ∀ p, (f p).requests = p.requests) (h2 : ∀ p, (f p).responses = p.responses)
    (h3 : ∀ p, (f p).output = p.output) (h4 : ∀ p, (f p).labels = p.labels) : Keeps b s (t.modPort a f) :=
  h.modPort a f hl (fun p e => ⟨(hs p).1.trans e, (hs p).2⟩) (fun p e => by simpa only [Port.bounded, h1, h2, h3, h4] using e)
    (fun p e => by simpa only [Port.roomy, Port.attached, h3, (hs p).1] using e)

/-- A message placed where the output queue has room. -/
theorem place (h : Keeps false s t) (a : Agent) (m : OutMsg)
    (hr : (t.port a).output.length < Config.outputQueueSize) : Keeps false s (t.place a m) := by
  refine h.setPort a _ rfl (fun e => ⟨e, rfl⟩) (fun ⟨h1, h2, h3, h4⟩ => ⟨h1, h2, ?_, h4⟩) (fun e => by simp at e)
  simp only [List.length_append, List.length_singleton]; exact hr

@[simp] theorem wait (h : Keeps b s t) (a : Agent) (w : Waiter) : Keeps b s (t.wait a w) :=
  h.modPort_same a _ (fun _ => rfl) (fun _ => ⟨rfl, rfl⟩) (fun _ => rfl) (fun _ => rfl) (fun _ => rfl) (fun _ => rfl)

/-- All ports changed. -/
theorem mapPorts (h : Keeps b s t) (f : Port → Port) (hl : ∀ p, (f p).link = p.link)
    (hf : ∀ p, p.state = .failed → (f p).state = .failed ∧ (f p).autoOffline = p.autoOffline)
    (hb : ∀ (a : Agent) (p : Port), p.bounded a → (f p).bounded a) (hr : ∀ p : Port, p.roomy → (f p).roomy) :
    Keeps b s { t with ports := t.ports.map f } := by
  have e : ∀ a, State.port { t with ports := t.ports.map f } a = f (t.port a) := by
    intro a; simp [State.port]
  refine h.trans ⟨rfl, rfl, rfl, rfl, rfl, rfl, rfl, rfl, fun a => ?_, fun a => ?_, fun _ h => h, fun _ => rfl,
    List.prefix_refl _, fun l => l, fun l a => ?_, fun l => l, fun l => l, fun _ a => ?_⟩
  all_goals rw [e]
  · exact hl _
  · exact hf _
  · exact hb a _ (l a)
  · exact hr _

/-! ### Entries -/

theorem setEntry (h : Keeps b s t) (e : EntryNo) (x : Entry)
    (hx : s.recordsLawful → ∀ r, x.copy = some r → r.lawful) (ht : s.tableLawful → (t.setEntry e x).tableLawful) :
    Keeps b s (t.setEntry e x) := by
  refine ⟨h.resetPin, h.physLink, h.walk, h.settings, h.unitTime, h.executing, h.answer, h.pending, h.link, h.failed,
    h.alerts, h.capture, h.sent, fun l => ⟨(h.law l).1, fun f r => ?_⟩, h.ports,
    h.counters, ht, h.free⟩
  rw [State.setEntry_entry]; split
  · exact hx l r
  · exact (h.law l).2 f r

/-- An active entry changed, its record copy with it. -/
theorem modCopy (h : Keeps b s t) (e : EntryNo) (f : Entry → Entry)
    (hc : s.recordsLawful → ∀ r, (f (t.entry e)).copy = some r → r.lawful)
    (hf : ∀ x : Entry, x.phase ≠ .free → x.steady (f x)) : Keeps b s (t.modEntry e f) := by
  refine h.setEntry e _ (fun l r hr => ?_) (fun l => State.tableLawful_modEntry (h.table l) hf)
  by_cases n : (t.entry e).phase = .free
  · rw [Entry.change_free n] at hr; exact (h.law l).2 e r hr
  · rw [Entry.change_active n] at hr; exact hc l r hr

/-- An active entry changed in nothing the laws speak of. -/
@[simp] theorem modEntry (h : Keeps b s t) (e : EntryNo) (f : Entry → Entry)
    (hf : ∀ x : Entry, ¬x.phase = .free → (f x).copy = x.copy ∧ (f x).line = x.line ∧
      ((f x).kind.isAgent = true → x.kind.isAgent = true) ∧ (f x).deferred = x.deferred ∧
      ((f x).pinCounted = true → x.pinCounted = true) ∧ ¬(f x).phase = .free ∧
      ((f x).phase = .pinned ∧ (f x).saves = true → x.phase = .pinned ∧ x.saves = true)) :
    Keeps b s (t.modEntry e f) := by
  refine h.setEntry e _ (fun l r hr => ?_) (fun l => State.tableLawful_modEntry (h.table l) (fun x n => (hf x n).2))
  by_cases n : (t.entry e).phase = .free
  · rw [Entry.change_free n] at hr; exact (h.law l).2 e r hr
  · rw [Entry.change_active n] at hr; exact (h.law l).2 e r ((hf _ n).1.symm.trans hr)

/-- All entries changed, each copy kept or dropped. -/
theorem mapEntries (h : Keeps b s t) (f : Entry → Entry) (hf : ∀ x r, (f x).copy = some r → x.copy = some r)
    (ht : s.tableLawful → State.tableLawful { t with entries := t.entries.map f }) :
    Keeps b s { t with entries := t.entries.map f } := by
  refine ⟨h.resetPin, h.physLink, h.walk, h.settings, h.unitTime, h.executing, h.answer, h.pending, h.link, h.failed,
    h.alerts, h.capture, h.sent, fun l => ⟨(h.law l).1, fun e r hr => ?_⟩, h.ports, h.counters, ht, h.free⟩
  refine (h.law l).2 e r (hf _ r ?_)
  simpa [State.entry] using hr

/-! ### The array -/

/-- An array write, made where the laws hold. -/
theorem array (h : Keeps b s t) (sets marks)
    (ha : s.recordsLawful → { t with sets := sets, marks := marks }.arrayLawful) :
    Keeps b s { t with sets := sets, marks := marks } :=
  ⟨h.resetPin, h.physLink, h.walk, h.settings, h.unitTime, h.executing, h.answer, h.pending, h.link, h.failed,
    h.alerts, h.capture, h.sent, fun l => ⟨ha l, (h.law l).2⟩, h.ports, h.counters, h.table, h.free⟩

theorem putSet (h : Keeps b s t) (n : SetNo) (x : ASet) (ha : s.recordsLawful → (t.putSet n x).arrayLawful) :
    Keeps b s (t.putSet n x) := h.array _ _ ha

theorem modWay (h : Keeps b s t) (n : SetNo) (w : WayNo) (f : Way → Way)
    (ha : s.recordsLawful → (t.modWay n w f).arrayLawful) : Keeps b s (t.modWay n w f) := h.array _ _ ha

theorem writeOrder (h : Keeps b s t) (n : SetNo) (l : List WayNo)
    (ha : s.recordsLawful → l.Nodup ∧ ∀ w, w ∈ l ↔ w ∈ (t.aset n).order.value) : Keeps b s (t.writeOrder n l) :=
  h.array _ _ (fun e => State.arrayLawful_writeOrder (h.law e).1 (ha e).1 (ha e).2)

theorem putMark (h : Keeps b s t) (n : SetNo) (w : WayNo) (m : Marks)
    (ha : s.recordsLawful → (t.putMark n w m).arrayLawful) : Keeps b s (t.putMark n w m) := h.array _ _ ha

/-- Marks written with the disable mark as it stands. -/
@[simp] theorem putMark_same (h : Keeps b s t) (n : SetNo) (w : WayNo) (m : Marks) (hd : m.disable = (t.mark n w).disable) :
    Keeps b s (t.putMark n w m) :=
  h.putMark n w m (fun l => State.arrayLawful_putMark_same (h.law l).1 hd)

end Keeps

/-- Folds of functions that keep the relation keep it. -/
theorem Keeps.foldl {α : Type} {b : Bool} {s : State} {f : State → α → State}
    (hf : ∀ t x, Keeps b s t → Keeps b s (f t x)) (l : List α) (t : State) (h : Keeps b s t) :
    Keeps b s (l.foldl f t) := by
  induction l generalizing t with
  | nil => exact h
  | cons x l ih => exact ih _ (hf t x h)

end Sys2Proof.Machine
end

