-- ==== Sys2Proof/Laws/KeepsOps.lean ====
section
/-! SUPPORT. The operations of Machine/Ops.lean keep the relation Keeps: criteria, claims and verification, record edits,
memory claims, outbound messages. -/

namespace Sys2Proof.Machine.Keeps

variable {b : Bool} {s t : State}

/-! ### Criteria and holding counts -/

theorem sweep (h : Keeps b s t) (w : Sweep) : Keeps b s { t with sweep := w } := h.other _ _ _ _ _ _ _ _ _ _ _

@[simp] theorem sweepJoin (h : Keeps b s t) (k : CritKind) : Keeps b s (t.sweepJoin k) := by
  unfold State.sweepJoin; split
  · exact h.sweep _
  · exact h

@[simp] theorem sweepIdle (h : Keeps b s t) : Keeps b s t.sweepIdle := (h.sweep _).raise _

@[simp] theorem sweepWithdraw (h : Keeps b s t) (k : CritKind) : Keeps b s (t.sweepWithdraw k) := by
  unfold State.sweepWithdraw; dsimp only; split
  · split
    · exact h.sweepIdle
    · exact h.sweep _
  · exact h

@[simp] theorem sweepStrip (h : Keeps b s t) (a : Agent) : Keeps b s (t.sweepStrip a) := by
  unfold State.sweepStrip; split
  · exact h.sweep _
  · exact h

@[simp] theorem addHold (h : Keeps b s t) (a : Agent) : Keeps b s (t.addHold a) := by
  have k := h.modPort_same a (fun p => { p with holding := p.holding + 1 }) (fun _ => rfl) (fun _ => ⟨rfl, rfl⟩) (fun _ => rfl)
    (fun _ => rfl) (fun _ => rfl) (fun _ => rfl)
  unfold State.addHold; dsimp only; split
  · exact k.sweepJoin _
  · exact k

/-- A departure is finished only by a DRAINING port with room for LEAVE-DONE, which takes no messages from then on (R28). -/
@[simp] theorem checkDrained (h : Keeps b s t) (a : Agent) : Keeps b s (t.checkDrained a) := by
  unfold State.checkDrained; split
  · next c =>
    simp only [Port.drained, Bool.and_eq_true, beq_iff_eq, decide_eq_true_eq] at c
    obtain ⟨⟨⟨⟨⟨⟨c1, _⟩, _⟩, _⟩, _⟩, _⟩, c7⟩ := c
    refine sweepWithdraw (h.setPort a _ ?_ ?_ ?_ ?_) _
    · rfl
    · exact fun f => by rw [c1] at f; cases f
    · intro ⟨h1, h2, _, h4⟩
      refine ⟨h1, h2, ?_, h4⟩
      simp only [List.length_append, List.length_singleton]; omega
    · exact fun _ _ => .inr rfl
  · exact h

@[simp] theorem subHold (h : Keeps b s t) (a : Agent) : Keeps b s (t.subHold a) :=
  (h.modPort_same a (fun p => { p with holding := p.holding - 1 }) (fun _ => rfl) (fun _ => ⟨rfl, rfl⟩) (fun _ => rfl)
    (fun _ => rfl) (fun _ => rfl) (fun _ => rfl)).checkDrained a

@[simp] theorem releaseLabel (h : Keeps b s t) (a : Agent) (l : Label) : Keeps b s (t.releaseLabel a l) :=
  (h.modPort a (fun p => { p with labels := p.labels.filter (fun k => k != l) }) (fun _ => rfl) (fun _ e => ⟨e, rfl⟩)
    (fun _ ⟨h1, h2, h3, h4⟩ => ⟨h1, h2, h3, h4.filter _⟩) (fun _ e => e)).checkDrained a

@[simp] theorem addHolds (h : Keeps b s t) (l : List Agent) : Keeps b s (l.foldl State.addHold t) :=
  Keeps.foldl (fun _ _ k => k.addHold _) l t h

@[simp] theorem subHolds (h : Keeps b s t) (l : List Agent) : Keeps b s (l.foldl State.subHold t) :=
  Keeps.foldl (fun _ _ k => k.subHold _) l t h

/-! ### Entry into LOST -/

@[simp] theorem dropAllWork (h : Keeps b s t) : Keeps b s t.dropAllWork :=
  (h.mapEntries (fun x => Entry.free x.use) (fun _ _ e => by simp [Entry.free] at e) (fun _ =>
    State.tableLawful_allFree (fun e => by simp [State.entry, Entry.free]))).other _ _ _ _ _ _ _ _ _ _ _

theorem close_bounded (p : Port) (a : Agent) : p.close.bounded a := by
  refine ⟨by simp [Port.close], by simp [Port.close], ?_, by simp [Port.close]⟩
  simp only [Port.close]; split <;> simp [Config.outputQueueSize]

theorem close_roomy (p : Port) : p.close.roomy := .inr rfl

@[simp] theorem enterLost (h : Keeps b s t) (n : SetNo) (w : WayNo) : Keeps b s (t.enterLost n w) := by
  have k := h.dropAllWork.mapPorts (fun p => if p.attached then p.close else p)
    (fun p => by split <;> rfl)
    (fun p e => by simp [Port.attached, e])
    (fun a p e => by
      split
      · exact close_bounded p a
      · exact e)
    (fun p e => by
      split
      · exact close_roomy p
      · exact e)
  exact ((k.other _ _ _ _ _ _ _ _ _ _ _).raise _).report _

/-! ### Verification -/

@[simp] theorem verifyTags (h : Keeps b s t) (n : SetNo) (w : WayNo) : Keeps b s (State.verifyTags n t w) := by
  unfold State.verifyTags; split
  · refine (h.modWay n w _ (fun l => ?_)).softFaults _
    have a := (h.law l).1
    have y := (a.1 n).1 w
    exact State.arrayLawful_modWay a (Way.tag_lawful y)
      ⟨rfl, fun e => y.2 (by rw [← Way.tag_lawful y]; exact e)⟩
  · exact h

@[simp] theorem verifyOrder (h : Keeps b s t) (n : SetNo) : Keeps b s (t.verifyOrder n) := by
  unfold State.verifyOrder; split
  · exact h
  · exact (h.writeOrder n _ (fun l => ⟨((h.law l).1.1 n).2.2.1, fun _ => Iff.rfl⟩)).softFault
  · exact (h.writeOrder n _
      (fun l => ⟨State.inUseWays_nodup _ _, fun _ => State.mem_inUseWays (h.law l).1 _ _⟩)).countHard

theorem writeState_law (l : t.recordsLawful) (n : SetNo) (w : WayNo) {r : Rec}
    (hr : (t.wayTag n w).isSome → r.lawful) : (t.writeState n w r).arrayLawful := by
  have a := l.1
  have y := (a.1 n).1 w
  refine State.arrayLawful_modWay a rfl ⟨y.1, fun e => hr ?_⟩
  rw [State.wayTag_lawful a]; exact e

theorem writeState (h : Keeps b s t) (n : SetNo) (w : WayNo) (r : Rec)
    (hr : s.recordsLawful → (t.wayTag n w).isSome → r.lawful) : Keeps b s (t.writeState n w r) :=
  h.modWay n w _ (fun l => writeState_law (h.law l) n w (hr l))

@[simp] theorem loseState (h : Keeps b s t) (e : Option EntryNo) (n : SetNo) (w : WayNo) (l : Line) :
    Keeps b s (t.loseState e n w l) := by
  unfold State.loseState
  refine ((h.putMark_same n w _ ?_).countHard).reportHard n w l e
  rfl

@[simp] theorem repairState (h : Keeps b s t) (e : EntryNo) (n : SetNo) (w : WayNo) (l : Line) :
    Keeps b s (t.repairState e n w l) := by
  have k := h.writeState n w ((t.entry e).copy.getD (t.recAt n w)) (fun law hw => by
    cases hc : (t.entry e).copy with
    | none => exact State.recAt_lawful (h.law law).1 hw
    | some r => exact (h.law law).2 e r hc)
  unfold State.repairState
  refine ((k.putMark_same n w _ ?_).countHard).reportHard n w l (some e)
  rfl

@[simp] theorem verifyState (h : Keeps b s t) (e : Option EntryNo) (n : SetNo) (w : WayNo) :
    Keeps b s (State.verifyState e n t w) := by
  unfold State.verifyState; split
  · exact h
  · split
    · exact h
    · split
      · exact h
      · exact (h.writeState n w _ (fun l hw => State.recAt_lawful (h.law l).1 hw)).softFault
      · split
        · exact h.loseState _ _ _ _
        · split
          · exact h.loseState _ _ _ _
          · exact h.repairState _ _ _ _

@[simp] theorem verifySet (h : Keeps b s t) (e : Option EntryNo) (n : SetNo) (needs : State → List WayNo) :
    Keeps b s (t.verifySet e n needs) := by
  unfold State.verifySet; split
  · exact h.enterLost _ _
  · exact Keeps.foldl (fun _ _ k => k.verifyState _ _ _) _ _
      ((Keeps.foldl (fun _ _ k => k.verifyTags _ _) _ _ h).verifyOrder _)

@[simp] theorem claimLine (h : Keeps b s t) (e : Option EntryNo) (l : Line) : Keeps b s (t.claimLine e l) := h.verifySet _ _ _
@[simp] theorem claimAll (h : Keeps b s t) (e : Option EntryNo) (n : SetNo) : Keeps b s (t.claimAll e n) := h.verifySet _ _ _
@[simp] theorem claimWay (h : Keeps b s t) (n : SetNo) (w : WayNo) : Keeps b s (t.claimWay n w) := h.verifySet _ _ _
@[simp] theorem claimTags (h : Keeps b s t) (e : Option EntryNo) (n : SetNo) : Keeps b s (t.claimTags e n) := h.verifySet _ _ _

/-! ### Record edits -/

theorem syncCopy (h : Keeps b s t) (l : Line) (r : Option Rec) (hr : s.recordsLawful → ∀ x, r = some x → x.lawful) :
    Keeps b s (t.syncCopy l r) := by
  unfold State.syncCopy; split
  · exact h.modCopy _ _ (fun law x e => hr law x e) (fun x n => ⟨rfl, id, rfl, id, n, id⟩)
  · exact h

theorem toFront (h : Keeps b s t) (n : SetNo) (w : WayNo) (hw : s.recordsLawful → w ∈ (t.aset n).order.value) :
    Keeps b s (t.toFront n w) := by
  refine h.writeOrder n _ (fun l => ⟨?_, fun v => ?_⟩)
  · exact List.nodup_cons.2 ⟨by simp, ((h.law l).1.1 n).2.2.1.filter _⟩
  · by_cases e : v = w
    · simp [e, hw l]
    · simp [e]

/-- The order of a set after its state part is rewritten. -/
theorem order_writeState (l : t.recordsLawful) (n : SetNo) (w : WayNo) (r : Rec) :
    ((t.writeState n w r).aset n).order = (t.aset n).order := by
  unfold State.writeState State.modWay
  rw [State.putSet_aset l.1.2.2.1, if_pos rfl]

theorem aset_syncCopy (t : State) (l : Line) (r : Option Rec) : (t.syncCopy l r).aset = t.aset := by
  unfold State.syncCopy; split <;> rfl

theorem editState (h : Keeps b s t) (l : Line) (w : WayNo) (r : Rec) (touch : Bool)
    (hw : s.recordsLawful → w ∈ (t.aset (setOf l)).order.value) (hr : s.recordsLawful → r.lawful) :
    Keeps b s (t.editState l w r touch) := by
  have k := (h.writeState (setOf l) w r (fun law _ => hr law)).syncCopy l (some r)
    (fun law x e => Option.some.inj e ▸ hr law)
  unfold State.editState; dsimp only; split
  · refine k.toFront _ _ (fun law => ?_)
    rw [aset_syncCopy, order_writeState (h.law law)]
    exact hw law
  · exact k

/-- The state with one way changed and the header rewritten, as one write of its set. -/
theorem modWay_writeOrder (l : t.recordsLawful) (n : SetNo) (w : WayNo) (f : Way → Way) (o : List WayNo) :
    ((t.modWay n w f).writeOrder n o).aset n =
      { ways := (t.aset n).ways.set w (f (t.aset n).ways[w]), order := Coded.fresh o } := by
  have a := l.1.2.2.1
  unfold State.writeOrder State.modWay
  rw [State.putSet_aset (storeWf_put _ _ a), if_pos rfl, State.putSet_aset a, if_pos rfl]

theorem modWay_writeOrder_ne (l : t.recordsLawful) (n k : SetNo) (w : WayNo) (f : Way → Way) (o : List WayNo) (h : n ≠ k) :
    ((t.modWay n w f).writeOrder n o).aset k = t.aset k := by
  have a := l.1.2.2.1
  unfold State.writeOrder State.modWay
  rw [State.putSet_aset (storeWf_put _ _ a), if_neg h, State.putSet_aset a, if_neg h]

/-- One way and the order of a set rewritten together. -/
theorem wayAndOrder_law (l : t.recordsLawful) {n : SetNo} {w : WayNo} {f : Way → Way} {o : List WayNo}
    (hx : ASet.lawful { ways := (t.aset n).ways.set w (f (t.aset n).ways[w]), order := Coded.fresh o })
    (hd : (t.mark n w).disable → (f (t.aset n).ways[w]).tag1.value = none) :
    ((t.modWay n w f).writeOrder n o).arrayLawful := by
  have a := l.1
  refine ⟨fun k => ?_, fun k v hk => ?_, storeWf_put _ _ (storeWf_put _ _ a.2.2.1), a.2.2.2⟩
  · by_cases e : n = k
    · subst e; rw [modWay_writeOrder l]; exact hx
    · rw [modWay_writeOrder_ne l _ _ _ _ _ e]; exact a.1 k
  · change (t.mark k v).disable = true at hk
    by_cases e : n = k
    · subst e
      rw [modWay_writeOrder l]
      show ((t.aset n).ways.set w (f (t.aset n).ways[w]))[v].tag1.value = none
      rw [ways_set]; split
      · next e => subst e; exact hd hk
      · exact a.2.1 n v hk
    · rw [modWay_writeOrder_ne l _ _ _ _ _ e]; exact a.2.1 k v hk

theorem order_modWay (l : t.recordsLawful) (n : SetNo) (w : WayNo) (f : Way → Way) :
    ((t.modWay n w f).aset n).order = (t.aset n).order := by
  unfold State.modWay
  rw [State.putSet_aset l.1.2.2.1, if_pos rfl]

/-- A way and the set header written together keep the relation where the set they leave is lawful. -/
theorem wayAndOrder (h : Keeps b s t) (n : SetNo) (w : WayNo) (f : Way → Way) (o : List WayNo)
    (ha : s.recordsLawful → ((t.modWay n w f).writeOrder n o).arrayLawful) :
    Keeps b s ((t.modWay n w f).writeOrder n o) := h.array _ _ ha

theorem install (h : Keeps b s t) (l : Line) (w : WayNo) (r : Rec) (ha : s.recordsLawful → t.lookup l = none)
    (he : t.enabled (setOf l) w) (hr : s.recordsLawful → r.lawful) : Keeps b s (t.install l w r) := by
  unfold State.install
  dsimp only
  refine addHolds (syncCopy (wayAndOrder h _ _ _ _ (fun law => ?_)) l (some r)
    (fun law x e => Option.some.inj e ▸ hr law)) _
  have tl := h.law law
  refine wayAndOrder_law tl (ASet.lawful_install (tl.1.1 _) w _ (tagOf l) rfl rfl (hr law) (fun v _ e => ?_) _ ?_)
    (fun e => ?_)
  · exact State.lookup_absent (ha law) v (by rw [State.wayTag_lawful tl.1, e])
  · show w :: ((t.modWay _ _ _).aset _).order.value.filter _ = _
    rw [order_modWay tl]
  · simp [State.enabled, e] at he

@[simp] theorem freeWay (h : Keeps b s t) (l : Line) (w : WayNo) : Keeps b s (t.freeWay l w) := by
  have k : Keeps b s (((t.modWay (setOf l) w
      (fun y => { y with tag1 := Coded.fresh none, tag2 := Coded.fresh none })).leaveOrder (setOf l) w).syncCopy l none) := by
    refine syncCopy (wayAndOrder h _ _ _ _ (fun law => ?_)) l none (fun _ _ e => by simp at e)
    have tl := h.law law
    refine wayAndOrder_law tl (ASet.lawful_free (tl.1.1 _) w _ rfl rfl _ ?_) (fun _ => rfl)
    show ((t.modWay _ _ _).aset _).order.value.filter _ = _
    rw [order_modWay tl]
  unfold State.freeWay
  dsimp only
  refine Keeps.push ?_ _
  split
  · split
    · exact k.modEntry _ _ (by simp)
    · exact k
  · exact k

@[simp] theorem freeRec (h : Keeps b s t) (l : Line) (w : WayNo) (r : Rec) : Keeps b s (t.freeRec l w r) :=
  (h.freeWay l w).subHolds _

theorem poisoned_lawful : Rec.poisoned.lawful := by decide

theorem poisonRec (h : Keeps b s t) (l : Line) (w : WayNo) (r : Rec)
    (hw : s.recordsLawful → w ∈ (t.aset (setOf l)).order.value) : Keeps b s (t.poisonRec l w r) := by
  unfold State.poisonRec; split
  · exact h
  · exact (h.editState l w _ _ hw (fun _ => poisoned_lawful)).subHolds _

theorem rewrite (h : Keeps b s t) (l : Line) (w : WayNo) (old new : Rec) (touch : Bool)
    (hw : s.recordsLawful → w ∈ (t.aset (setOf l)).order.value)
    (hr : s.recordsLawful → old.state ≠ .poisoned → new.holders ≠ 0 → new.lawful) :
    Keeps b s (t.rewrite l w old new touch) := by
  unfold State.rewrite; split
  · exact h
  · next hp =>
    split
    · exact h.freeRec _ _ _
    · next hz =>
      exact ((h.editState l w new touch hw
        (fun law => hr law (by simpa using hp) (by simpa using hz))).subHolds _).addHolds _

/-- A SHARED record with a holder less, if holders are left, is lawful. -/
theorem lawful_less {r : Rec} (h : r.lawful) (e : r.state = .shared) (a : Agent)
    (hz : AgentSet.remove r.holders a ≠ 0) :
    Rec.lawful { r with holders := AgentSet.remove r.holders a, pin := if r.pin = some a then none else r.pin } := by
  unfold Rec.lawful at h ⊢
  simp only [e] at h ⊢
  simp only [Bool.and_eq_true, bne_iff_ne, beq_iff_eq] at h ⊢
  exact ⟨hz, by rw [h.2]; simp⟩

theorem removeHolder (h : Keeps b s t) (l : Line) (w : WayNo) (a : Agent) (loss touch : Bool)
    (hw : s.recordsLawful → t.lookup l = some w) : Keeps b s (t.removeHolder l w a loss touch) := by
  have ho : s.recordsLawful → w ∈ (t.aset (setOf l)).order.value :=
    fun law => State.lookup_ordered (h.law law).1 (hw law)
  unfold State.removeHolder; dsimp only; split
  · exact h
  · split
    · split
      · exact h.poisonRec _ _ _ ho
      · exact h.freeRec _ _ _
    · next e =>
      refine h.rewrite _ _ _ _ _ ho (fun law _ hz => ?_)
      refine lawful_less (State.recAt_lawful (h.law law).1 ?_) e a hz
      rw [State.lookup_inUse (hw law)]; rfl
    · exact h

@[simp] theorem removeFrom (h : Keeps b s t) (l : Line) (a : Agent) (loss touch : Bool) :
    Keeps b s (t.removeFrom l a loss touch) := by
  unfold State.removeFrom; split
  · next e => exact h.removeHolder _ _ _ _ _ (fun _ => e)
  · exact h

@[simp] theorem poisonLine (h : Keeps b s t) (l : Line) : Keeps b s (t.poisonLine l) := by
  unfold State.poisonLine; split
  · next e =>
    exact h.poisonRec _ _ _ (fun law => State.lookup_ordered (h.law law).1 (State.lineRec_some e).1)
  · next e =>
    split
    · next w f =>
      have av : t.available (setOf l) w := by simpa using List.find?_some f
      simp only [State.available, Bool.and_eq_true] at av
      exact h.install _ _ _ (fun _ => State.lineRec_none e) av.1.1 (fun _ => poisoned_lawful)
    · exact h.report _

@[simp] theorem stripFailed (h : Keeps b s t) (l : Line) (a : Option Agent) : Keeps b s (t.stripFailed l a) := by
  unfold State.stripFailed; split
  · exact h
  · exact Keeps.foldl (fun _ _ k => k.removeFrom _ _ _ _) _ _ h

@[simp] theorem claimEntry (h : Keeps b s t) (e : EntryNo) (a : Option Agent) : Keeps b s (t.claimEntry e a) := by
  unfold State.claimEntry; dsimp only; split
  · exact (h.claimLine _ _).stripFailed _ _
  · exact h.claimLine _ _

@[simp] theorem takeCopy (h : Keeps b s t) (e : EntryNo) : Keeps b s (t.takeCopy e) := by
  refine h.modCopy _ _ (fun law r hr => ?_) (fun x n => ⟨rfl, id, rfl, id, n, id⟩)
  change (t.lineRec _).map Prod.snd = some r at hr
  rw [Option.map_eq_some_iff] at hr
  obtain ⟨⟨w, r'⟩, h1, h2⟩ := hr
  exact h2 ▸ State.lineRec_lawful (h.law law).1 h1

@[simp] theorem claimRebuild (h : Keeps b s t) (l : Line) (n : SetNo) (w : WayNo) : Keeps b s (t.claimRebuild l n w) := by
  unfold State.claimRebuild; split
  · exact h
  · exact h.other _ _ _ _ _ _ _ _ _ _ _

@[simp] theorem claimRebuilds (h : Keeps b s t) (n : SetNo) : Keeps b s (t.claimRebuilds n) := by
  unfold State.claimRebuilds
  refine Keeps.foldl (fun u w k => ?_) _ _ h
  split
  · split
    · exact k.claimRebuild _ _ _
    · exact k
  · exact k

/-! ### Memory claims -/

@[simp] theorem issueTag (h : Keeps b s t) (i : MemTagNo) : Keeps b s (t.issueTag i) := by
  unfold State.issueTag; split
  · exact h
  · exact (h.setTag _ _).send _

@[simp] theorem grantTag (h : Keeps b s t) (i : MemTagNo) : Keeps b s (t.grantTag i) := by
  unfold State.grantTag; split
  · next c q _ _ =>
    have k : Keeps b s { t with claimQueue := q } := h.other _ _ _ _ _ _ _ _ _ _ _
    dsimp only; split
    · exact k.setTag _ _
    · exact (k.setTag _ _).issueTag _
  · exact h

@[simp] theorem grantTags (h : Keeps b s t) : Keeps b s t.grantTags := Keeps.foldl (fun _ _ k => k.grantTag _) _ _ h

@[simp] theorem claimMem (h : Keeps b s t) (c : MemClaim) : Keeps b s (t.claimMem c) := by
  unfold State.claimMem; split
  · split
    · exact h.push _
    · exact h
  · exact (h.other _ _ _ _ _ _ _ _ _ _ _).grantTags

@[simp] theorem claimRead (h : Keeps b s t) (e : EntryNo) : Keeps b s (t.claimRead e) := h.claimMem _

@[simp] theorem claimWrite (h : Keeps b s t) (e : EntryNo) : Keeps b s (t.claimWrite e) := by
  unfold State.claimWrite; split
  · exact h
  · exact (h.modEntry e (fun x => { x with wrote := true }) (by simp)).claimMem _

/-! ### Recalls and the scrubber's timer -/

theorem placeRecall (h : Keeps false s t) (e : EntryNo) (a : Agent) (m : OutMsg)
    (hr : (t.port a).output.length < Config.outputQueueSize) : Keeps false s (t.placeRecall e a m) := by
  unfold State.placeRecall
  refine Keeps.modEntry (Keeps.modPort_same (h.place a m hr) a _ ?_ ?_ ?_ ?_ ?_ ?_) e _ ?_
  · exact fun _ => rfl
  · exact fun _ => ⟨rfl, rfl⟩
  · exact fun _ => rfl
  · exact fun _ => rfl
  · exact fun _ => rfl
  · exact fun _ => rfl
  · exact fun x n => ⟨rfl, rfl, id, rfl, id, n, id⟩

theorem hasPlace_room {p : Port} (h : p.hasPlace) : p.output.length < Config.outputQueueSize := by
  simp only [Port.hasPlace, Bool.and_eq_true, decide_eq_true_eq] at h; exact h.1

@[simp] theorem addRecall (h : Keeps false s t) (k : RecallKind) (e : EntryNo) (a : Agent) :
    Keeps false s (State.addRecall k e t a) := by
  have m := h.modEntry e (fun x => { x with pending := x.pending.set a (some { kind := k, placed := false }) })
    (by simp)
  unfold State.addRecall; dsimp only; split
  · split
    · next r => exact m.placeRecall _ _ _ (hasPlace_room r)
    · exact m.wait _ _
  · exact m.push _

@[simp] theorem addRecalls (h : Keeps false s t) (k : RecallKind) (e : EntryNo) (l : List Agent) :
    Keeps false s (l.foldl (State.addRecall k e) t) := Keeps.foldl (fun _ _ m => m.addRecall _ _ _) _ _ h

@[simp] theorem refreshScrub (h : Keeps b s t) : Keeps b s t.refreshScrub := by
  unfold State.refreshScrub; split
  · split
    · exact h
    · exact h.other _ _ _ _ _ _ _ _ _ _ _
  · exact h.other _ _ _ _ _ _ _ _ _ _ _

end Sys2Proof.Machine.Keeps
end

