-- ==== Sys2Proof/Laws/KeepsTable.lean ====
section
/-! SUPPORT. The operations of Machine/Table.lean keep the relation Keeps. -/

namespace Sys2Proof.Machine.Keeps

variable {b : Bool} {s t : State}

/-! ### Final replies -/

theorem placeReply (h : Keeps false s t) (e : EntryNo) (a : Agent) (l : Label) (m : OutMsg)
    (hr : (t.port a).output.length < Config.outputQueueSize) : Keeps false s (t.placeReply e a l m) :=
  ((h.place a m hr).releaseLabel a l).modEntry e _ (by simp)

@[simp] theorem offerReply (h : Keeps false s t) (e : EntryNo) (m : Label → OutMsg) :
    Keeps false s (t.offerReply e m) := by
  unfold State.offerReply; dsimp only; split
  · exact h
  · split
    · exact h
    · split
      · simp [h]
      · split
        · next r => exact h.placeReply _ _ _ _ (hasPlace_room r)
        · simp (maxDischargeDepth := 9) [h]

@[simp] theorem refuse (h : Keeps false s t) (e : EntryNo) (r : Reason) : Keeps false s (t.refuse e r) := by
  unfold State.refuse; dsimp only; simp (maxDischargeDepth := 9) [h]

@[simp] theorem replaceReply (h : Keeps false s t) (e : EntryNo) : Keeps false s (t.replaceReply e) := by
  unfold State.replaceReply; dsimp only; split
  · exact h
  · split <;> simp (maxDischargeDepth := 9) [h]

@[simp] theorem reportEntry (h : Keeps b s t) (q : SubReason) (a : Agent) (e : EntryNo) :
    Keeps b s (t.reportEntry q a e) := h.reportProtocol _ _ _ _

/-! ### Way allocation -/

@[simp] theorem leaveAwaiting (h : Keeps b s t) (e : EntryNo) : Keeps b s (t.leaveAwaiting e) :=
  h.other _ _ _ _ _ _ _ _ _ _ _

@[simp] theorem setStand (h : Keeps b s t) (e : EntryNo) (d : Stand) : Keeps b s (t.setStand e d) := by
  unfold State.setStand; dsimp only
  exact (h.other _ _ _ _ _ _ _ _ _ _ _).modEntry _ _ (by simp)

@[simp] theorem goOn (h : Keeps b s t) (e : EntryNo) : Keeps b s (t.goOn e) := by
  unfold State.goOn; dsimp only; split <;> simp (maxDischargeDepth := 9) [h]

@[simp] theorem giveWay (h : Keeps b s t) (e : EntryNo) (w : WayNo) : Keeps b s (t.giveWay e w) := by
  unfold State.giveWay; simp (maxDischargeDepth := 9) [h]

@[simp] theorem refuseNoWay (h : Keeps false s t) (e : EntryNo) : Keeps false s (t.refuseNoWay e) := by
  unfold State.refuseNoWay; simp (maxDischargeDepth := 9) [h]

@[simp] theorem searchWay (h : Keeps false s t) (e : EntryNo) : Keeps false s (t.searchWay e) := by
  unfold State.searchWay; dsimp only; split
  · simp [h]
  · split
    · simp (maxDischargeDepth := 9) [h]
    · split
      · simp (maxDischargeDepth := 9) [h]
      · split <;> simp (maxDischargeDepth := 9) [h]

@[simp] theorem allocate (h : Keeps false s t) (e : EntryNo) : Keeps false s (t.allocate e) := by
  unfold State.allocate; split <;> simp [h]

@[simp] theorem giveUpWay (h : Keeps b s t) (e : EntryNo) : Keeps b s (t.giveUpWay e) := by
  unfold State.giveUpWay; split <;> simp (maxDischargeDepth := 9) [h]

@[simp] theorem wakeMember (h : Keeps false s t) (e : EntryNo) : Keeps false s (t.wakeMember e) := by
  unfold State.wakeMember; split
  · exact h
  · split
    · simp [h]
    · dsimp only; split
      · simp [h]
      · split <;> simp (maxDischargeDepth := 9) [h]
    · exact h

@[simp] theorem wakeSet (h : Keeps false s t) (n : SetNo) : Keeps false s (t.wakeSet n) :=
  Keeps.foldl (fun _ _ k => k.wakeMember _) _ _ h

/-! ### Grants -/

theorem mem_agents (a : Agent) : a ∈ agents := by revert a; decide

theorem only_lawful (a : Agent) (p : Option Agent) (h : p = none ∨ p = some a) :
    Rec.lawful { state := .exclusive, holders := AgentSet.only a, pin := p } := by
  simp only [Rec.lawful, List.any_eq_true]
  refine ⟨a, mem_agents a, ?_⟩
  rcases h with rfl | rfl <;> simp

theorem shared_lawful (x : AgentSet) (h : x ≠ 0) : Rec.lawful { state := .shared, holders := x, pin := none } := by
  simpa [Rec.lawful] using h

theorem add_ne_zero (x : AgentSet) (a : Agent) : AgentSet.add x a ≠ 0 := by revert x a; decide

theorem only_ne_zero (a : Agent) : AgentSet.only a ≠ 0 := by revert a; decide

theorem granted_lawful (m : OutMsg) (a : Agent) (x : AgentSet) : (m.granted a x).lawful := by
  unfold OutMsg.granted; split
  · exact shared_lawful _ (add_ne_zero _ _)
  · exact only_lawful _ _ (by split <;> simp)
  · exact only_lawful _ _ (Or.inl rfl)

/-- Only a departure's own port changes at its end (R28). -/
theorem checkDrained_port_ne (t : State) {c a : Agent} (h : c ≠ a) : (t.checkDrained c).port a = t.port a := by
  have k : ∀ (u : State) (i : CritKind), (u.sweepWithdraw i).port a = u.port a := fun u i => by
    unfold State.sweepWithdraw; dsimp only; repeat' split
    all_goals rfl
  unfold State.checkDrained; split
  · rw [k, State.modPort_port, if_neg h]
  · rfl

theorem subHold_port_ne (t : State) {c a : Agent} (h : c ≠ a) : (t.subHold c).port a = t.port a := by
  unfold State.subHold
  rw [checkDrained_port_ne _ h, State.modPort_port, if_neg h]

/-- Counts that fall leave the port of any other agent as it was. -/
theorem subHolds_port (l : List Agent) (t : State) {a : Agent} (h : a ∉ l) : (l.foldl State.subHold t).port a = t.port a := by
  induction l generalizing t with
  | nil => rfl
  | cons c l ih =>
    rw [List.mem_cons, not_or] at h
    rw [List.foldl_cons, ih _ h.2, subHold_port_ne t (Ne.symm h.1)]

theorem addHold_attached (t : State) (c a : Agent) : ((t.addHold c).port a).attached = (t.port a).attached := by
  have k : ((t.modPort c (fun p => { p with holding := p.holding + 1 })).port a).attached = (t.port a).attached := by
    rw [State.modPort_port]; split
    · next e => subst e; rfl
    · rfl
  unfold State.addHold State.sweepJoin; dsimp only
  repeat' split
  all_goals exact k

/-- Counts that rise leave every port attached that is. -/
theorem addHolds_attached (l : List Agent) (t : State) (a : Agent) :
    ((l.foldl State.addHold t).port a).attached = (t.port a).attached := by
  induction l generalizing t with
  | nil => rfl
  | cons c l ih => rw [List.foldl_cons, ih, addHold_attached]

theorem syncCopy_port (t : State) (l : Line) (r : Option Rec) (a : Agent) : (t.syncCopy l r).port a = t.port a := by
  unfold State.syncCopy; split <;> rfl

theorem editState_port (t : State) (l : Line) (w : WayNo) (r : Rec) (touch : Bool) (a : Agent) :
    (t.editState l w r touch).port a = t.port a := by
  unfold State.editState; dsimp only; split
  · exact syncCopy_port _ _ _ _
  · exact syncCopy_port _ _ _ _

/-- The requester's port is not detached by the edit that lists it. -/
theorem install_attached (t : State) (l : Line) (w : WayNo) (r : Rec) (a : Agent) :
    ((t.install l w r).port a).attached = (t.port a).attached := by
  unfold State.install; dsimp only
  rw [addHolds_attached, syncCopy_port]; rfl

/-- The requester's port is not detached by the rewrite that lists it. -/
theorem rewrite_attached (t : State) (l : Line) (w : WayNo) (old new : Rec) (touch : Bool) {a : Agent}
    (h : AgentSet.has new.holders a = true) :
    ((t.rewrite l w old new touch).port a).attached = (t.port a).attached := by
  have hz : new.holders ≠ 0 := fun e => by rw [e] at h; revert h; revert a; decide
  have hn : a ∉ AgentSet.list (old.holders &&& ~~~new.holders) := by
    unfold AgentSet.list; rw [List.mem_filter]; rintro ⟨_, c⟩
    unfold AgentSet.has at h c
    rw [BitVec.getLsbD_and, BitVec.getLsbD_not, h] at c; simp at c
  unfold State.rewrite; split
  · rfl
  · rw [if_neg (by simpa using hz)]; dsimp only
    rw [addHolds_attached, subHolds_port _ _ hn, editState_port]

theorem granted_has (m : OutMsg) (a : Agent) (x : AgentSet) : AgentSet.has (m.granted a x).holders a = true := by
  have h1 : ∀ (x : AgentSet) (a : Agent), AgentSet.has (AgentSet.add x a) a = true := by decide
  have h2 : ∀ a : Agent, AgentSet.has (AgentSet.only a) a = true := by decide
  unfold OutMsg.granted; split
  · exact h1 x a
  · exact h2 a
  · exact h2 a

@[simp] theorem enterPinned (h : Keeps b s t) (e : EntryNo) : Keeps b s (t.enterPinned e) := by
  unfold State.enterPinned; simp (maxDischargeDepth := 9) [h]

theorem placeGrant (h : Keeps false s t) (e : EntryNo) (a : Agent) (l : Label) (m : OutMsg)
    (hr : (t.port a).output.length < Config.outputQueueSize) : Keeps false s (t.placeGrant e a l m) := by
  have done : ∀ u : State, Keeps true t u → (u.port a).attached = true → Keeps false s
      (if m.pins then (u.placeReply e a l m).enterPinned e else u.placeReply e a l m) := by
    intro u k ha
    have := (h.trans k.weaken).placeReply e a l m ((k.free rfl a (.inl hr)).resolve_right (by simp [ha]))
    split
    · exact this.enterPinned _
    · exact this
  have k : Keeps true t (t.claimEntry e none) := (Keeps.refl t).claimEntry _ _
  have hk : Keeps false s (t.claimEntry e none) := h.trans k.weaken
  unfold State.placeGrant
  dsimp only
  split
  · exact hk
  · split
    · simp (maxDischargeDepth := 9) [hk]
    · next ha =>
      have ha : ((t.claimEntry e none).port a).attached = true := by simpa using ha
      split
      · next lr =>
        split
        · simp (maxDischargeDepth := 9) [hk]
        · exact done _ (k.rewrite _ _ _ _ _
            (fun law => State.lookup_ordered (k.law law).1 (State.lineRec_some lr).1)
            (fun _ _ _ => granted_lawful _ _ _)) (by rw [rewrite_attached _ _ _ _ _ _ (granted_has _ _ _)]; exact ha)
      · next lr =>
        split
        · split
          · next c =>
            simp only [Bool.and_eq_true] at c
            exact done _ ((k.install _ _ _ (fun _ => State.lineRec_none lr) c.1
              (fun _ => granted_lawful _ _ _)).modEntry _ _ (by simp)) (by
                rw [State.modEntry_eq, State.setEntry_port, install_attached]; exact ha)
          · simp (maxDischargeDepth := 9) [hk]
        · simp (maxDischargeDepth := 9) [hk]

@[simp] theorem offerGrant (h : Keeps false s t) (e : EntryNo) (m : Label → OutMsg) :
    Keeps false s (t.offerGrant e m) := by
  unfold State.offerGrant; dsimp only; split
  · exact h
  · split
    · simp [h]
    · split
      · next r => exact h.placeGrant _ _ _ _ (hasPlace_room r)
      · simp (maxDischargeDepth := 9) [h]

/-! ### Plans -/

@[simp] theorem recallAll (h : Keeps false s t) (k : RecallKind) (e : EntryNo) (x : AgentSet) :
    Keeps false s (t.recallAll k e x) := h.addRecalls _ _ _

@[simp] theorem asReadOwn (h : Keeps b s t) (e : EntryNo) : Keeps b s (t.asReadOwn e) := by
  refine h.modEntry e _ (fun x n => ?_)
  split
  · next k => simp [k, Kind.isAgent, n]
  · simp [n]

@[simp] theorem mergeFull (h : Keeps b s t) (e : EntryNo) : Keeps b s (t.mergeFull e) := by
  unfold State.mergeFull; split <;> simp (maxDischargeDepth := 9) [h]

@[simp] theorem readPartial (h : Keeps b s t) (e : EntryNo) : Keeps b s (t.readPartial e) := by
  unfold State.readPartial; split <;> simp (maxDischargeDepth := 9) [h]

@[simp] theorem refuseHeld (h : Keeps false s t) (e : EntryNo) (a : Agent) : Keeps false s (t.refuseHeld e a) := by
  unfold State.refuseHeld; simp (maxDischargeDepth := 9) [h]

@[simp] theorem planAbsent (h : Keeps false s t) (k : ReqKind) (e : EntryNo) :
    Keeps false s (t.planAbsent k e) := by
  unfold State.planAbsent; dsimp only; cases k <;> simp (maxDischargeDepth := 9) [h]

@[simp] theorem planShared (h : Keeps false s t) (k : ReqKind) (e : EntryNo) (a : Agent) (x : AgentSet) :
    Keeps false s (t.planShared k e a x) := by
  unfold State.planShared
  cases k <;> dsimp only <;> first | (split <;> simp (maxDischargeDepth := 9) [h]) | simp (maxDischargeDepth := 9) [h]

@[simp] theorem planExclusive (h : Keeps false s t) (k : ReqKind) (e : EntryNo) (a : Agent) (x : AgentSet) :
    Keeps false s (t.planExclusive k e a x) := by
  unfold State.planExclusive
  cases k <;> dsimp only <;> first | (split <;> simp (maxDischargeDepth := 9) [h]) | simp (maxDischargeDepth := 9) [h]

@[simp] theorem planPoisoned (h : Keeps false s t) (k : ReqKind) (e : EntryNo) : Keeps false s (t.planPoisoned k e) := by
  unfold State.planPoisoned
  cases k <;> dsimp only <;> first | (split <;> simp (maxDischargeDepth := 9) [h]) | simp (maxDischargeDepth := 9) [h]

@[simp] theorem planReq (h : Keeps false s t) (k : ReqKind) (e : EntryNo) (a : Agent) :
    Keeps false s (t.planReq k e a) := by
  unfold State.planReq; split
  · simp [h]
  · split <;> simp [h]

@[simp] theorem planRetire (h : Keeps false s t) (e : EntryNo) : Keeps false s (t.planRetire e) := by
  unfold State.planRetire; dsimp only; split
  · split
    · split <;> simp (maxDischargeDepth := 9) [h]
    · exact h
  · split <;> simp (maxDischargeDepth := 9) [h]

@[simp] theorem planSweep (h : Keeps false s t) (r : Bool) (e : EntryNo) : Keeps false s (t.planSweep r e) :=
  Keeps.foldl (fun _ _ k => k.addRecall _ _ _) _ _ h

@[simp] theorem plan (h : Keeps false s t) (e : EntryNo) : Keeps false s (t.plan e) := by
  unfold State.plan; dsimp only; split
  · split <;> simp [h]
  all_goals simp [h]

/-! ### Rebuild -/

@[simp] theorem startRebuild (h : Keeps false s t) (e : EntryNo) : Keeps false s (t.startRebuild e) := by
  unfold State.startRebuild; dsimp only
  refine addRecalls (h.modCopy _ _ ?_ ?_) _ _ _
  · intro _ _ hr; simp at hr
  · intro x _; exact ⟨rfl, id, rfl, id, by dsimp only; split <;> simp⟩

@[simp] theorem settleAgent (h : Keeps b s t) (e : EntryNo) (a : Agent) : Keeps b s (t.settleAgent e a) := by
  unfold State.settleAgent; split <;> simp (maxDischargeDepth := 9) [h]

/-- The disable mark of a way whose stored tag is free may be set. -/
theorem endMarks (h : Keeps b s t) (n : SetNo) (w : WayNo) (f : Bool)
    (hf : s.recordsLawful → f = true → (t.aset n).ways[w].tag1.value = none) : Keeps b s (t.endMarks n w f) := by
  unfold State.endMarks; dsimp only; split
  · next c =>
    simp only [Bool.and_eq_true] at c
    exact (h.putMark _ _ _ (fun law => State.arrayLawful_putMark (h.law law).1 (fun _ => hf law c.2))).raise _
  · exact h.putMark_same _ _ _ rfl

theorem freeWay_tag (l : t.recordsLawful) (x : Line) (w : WayNo) :
    ((t.freeWay x w).aset (setOf x)).ways[w].tag1.value = none := by
  have e : (t.freeWay x w).aset = (((t.modWay (setOf x) w
      (fun y => { y with tag1 := Coded.fresh none, tag2 := Coded.fresh none })).leaveOrder (setOf x) w).syncCopy x none).aset := by
    funext n
    unfold State.freeWay; dsimp only
    rw [State.push_aset]
    split
    · split
      · rw [State.modEntry_aset]
      · rfl
    · rfl
  rw [e, aset_syncCopy]
  unfold State.leaveOrder
  rw [modWay_writeOrder l]
  show ((t.aset (setOf x)).ways.set w _)[w].tag1.value = none
  rw [ways_set, if_pos rfl]; rfl

theorem rebuildRecord (h : Keeps b s t) (e : EntryNo) (good : Bool) : Keeps b s (t.rebuildRecord e good) := by
  unfold State.rebuildRecord; dsimp only; split
  · exact h
  · next w lk =>
    split
    · refine endMarks (h.freeWay _ _) _ _ _ (fun law _ => ?_)
      exact freeWay_tag (h.law law) _ _
    · split
      · refine poisonLine (modEntry (endMarks (h.freeWay _ _) _ _ _ (fun law _ => ?_)) _ _ ?_) _
        · exact freeWay_tag (h.law law) _ _
        · simp
      · refine modEntry (endMarks (h.editState _ _ _ _ ?_ ?_) _ _ _ ?_) _ _ ?_
        · exact fun law => State.lookup_ordered (h.law law).1 lk
        · exact fun _ => poisoned_lawful
        · exact fun _ e => by simp at e
        · simp

@[simp] theorem yieldWay (h : Keeps b s t) (k : ReqKind) (e : EntryNo) : Keeps b s (t.yieldWay k e) := by
  unfold State.yieldWay; split <;> simp [h]

@[simp] theorem planRebuilt (h : Keeps false s t) (k : ReqKind) (e : EntryNo) (good : Bool) :
    Keeps false s (t.planRebuilt k e good) := by
  unfold State.planRebuilt; dsimp only; split
  · exact h
  · split <;> simp (maxDischargeDepth := 9) [h]

@[simp] theorem afterRebuild (h : Keeps false s t) (e : EntryNo) (good : Bool) : Keeps false s (t.afterRebuild e good) := by
  unfold State.afterRebuild; dsimp only
  refine Keeps.push ?_ _
  split
  · simp [h]
  · split
    · split <;> simp [h]
    · exact h
  · exact h
  · exact h

@[simp] theorem rebuildEnd (h : Keeps false s t) (e : EntryNo) (good : Bool) : Keeps false s (t.rebuildEnd e good) := by
  unfold State.rebuildEnd; dsimp only; split
  · simp [h]
  · refine afterRebuild (modEntry (rebuildRecord ((h.claimLine _ _).subHolds _) _ _) _ _ ?_) _ _
    simp

end Sys2Proof.Machine.Keeps
end

