-- ==== Sys2Proof/Laws/KeepsPlans.lean ====
section
/-! SUPPORT. Recall replies, memory results, plan steps and completion of Machine/Table.lean keep the relation Keeps. -/

namespace Sys2Proof.Machine.Keeps

variable {b : Bool} {s t : State}

/-! ### Recall replies -/

@[simp] theorem enterData (h : Keeps b s t) (e : EntryNo) (d : LineData) (x : DataState) :
    Keeps b s (t.enterData e d x) := by
  unfold State.enterData; split <;> simp (maxDischargeDepth := 9) [h]

@[simp] theorem enterReply (h : Keeps b s t) (e : EntryNo) (r : RecallEnd) : Keeps b s (t.enterReply e r) := by
  unfold State.enterReply; split <;> simp [h]

@[simp] theorem reportKept (h : Keeps b s t) (e : EntryNo) (a : Agent) (k : RecallKind) (r : RecallEnd) :
    Keeps b s (t.reportKept e a k r) := by
  unfold State.reportKept; split
  · exact h
  · split <;> simp [h]
  · exact h

@[simp] theorem rebuildReply (h : Keeps b s t) (e : EntryNo) (a : Agent) (r : RecallEnd) :
    Keeps b s (t.rebuildReply e a r) := by
  unfold State.rebuildReply; split
  · simp (maxDischargeDepth := 9) [h]
  · split <;> simp [h]
  · split <;> simp (maxDischargeDepth := 9) [h]

@[simp] theorem invalidateReply (h : Keeps b s t) (e : EntryNo) (a : Agent) (r : RecallEnd) :
    Keeps b s (t.invalidateReply e a r) := by
  unfold State.invalidateReply; simp (maxDischargeDepth := 9) [h]

@[simp] theorem shareRec (h : Keeps b s t) (e : EntryNo) (a : Agent) : Keeps b s (t.shareRec e a) := by
  unfold State.shareRec; dsimp only; split
  · next lr =>
    split
    · exact h.rewrite _ _ _ _ _ (fun law => State.lookup_ordered (h.law law).1 (State.lineRec_some lr).1)
        (fun _ _ hz => shared_lawful _ hz)
    · exact h
  · exact h

@[simp] theorem dataReply (h : Keeps b s t) (e : EntryNo) (a : Agent) (k : RecallKind) (d : LineData) (kept : Bool) :
    Keeps b s (t.dataReply e a k d kept) := by
  unfold State.dataReply; dsimp only
  repeat' split
  all_goals simp (maxDischargeDepth := 9) [h]

@[simp] theorem readInstead (h : Keeps b s t) (e : EntryNo) : Keeps b s (t.readInstead e) := by
  unfold State.readInstead; dsimp only; split
  · split <;> simp [h]
  all_goals exact h

@[simp] theorem reportAck (h : Keeps b s t) (e : EntryNo) (a : Agent) (r : RecallEnd) :
    Keeps b s (t.reportAck e a r) := by
  unfold State.reportAck; split
  · split <;> simp [h]
  all_goals exact h

@[simp] theorem noDataReply (h : Keeps false s t) (e : EntryNo) (a : Agent) (k : RecallKind) (r : RecallEnd) :
    Keeps false s (t.noDataReply e a k r) := by
  unfold State.noDataReply; dsimp only
  repeat' split
  all_goals simp (maxDischargeDepth := 9) [h]

@[simp] theorem planReply (h : Keeps false s t) (e : EntryNo) (a : Agent) (k : RecallKind) (r : RecallEnd) :
    Keeps false s (t.planReply e a k r) := by
  unfold State.planReply; dsimp only; split
  · simp [h]
  · split <;> simp (maxDischargeDepth := 9) [h]

@[simp] theorem applyReply (h : Keeps false s t) (e : EntryNo) (a : Agent) (r : RecallEnd) :
    Keeps false s (t.applyReply e a r) := by
  unfold State.applyReply; split
  · exact h
  · dsimp only
    refine Keeps.push ?_ _
    split
    · simp (maxDischargeDepth := 9) [h]
    · split <;> simp (maxDischargeDepth := 9) [h]

/-! ### Debts and memory results -/

@[simp] theorem freeBuffer (h : Keeps b s t) (i : BufferNo) : Keeps b s (t.freeBuffer i) := (h.setBuffer _ _).push _

@[simp] theorem settleDebt (h : Keeps b s t) (i : BufferNo) : Keeps b s (t.settleDebt i) := by
  unfold State.settleDebt; split <;> simp [h]

@[simp] theorem settleLineDebt (h : Keeps b s t) (l : Line) : Keeps b s (t.settleLineDebt l) := by
  unfold State.settleLineDebt; split <;> simp [h]

@[simp] theorem readGood (h : Keeps b s t) (e : EntryNo) (d : LineData) : Keeps b s (t.readGood e d) := by
  unfold State.readGood; dsimp only; split <;> simp (maxDischargeDepth := 9) [h]

@[simp] theorem readBad (h : Keeps false s t) (e : EntryNo) : Keeps false s (t.readBad e) := by
  unfold State.readBad; dsimp only; split <;> simp (maxDischargeDepth := 9) [h]

@[simp] theorem freePoison (h : Keeps b s t) (e : EntryNo) : Keeps b s (t.freePoison e) := by
  unfold State.freePoison; dsimp only
  repeat' split
  all_goals simp (maxDischargeDepth := 9) [h]

@[simp] theorem freeOrphanRec (h : Keeps b s t) (e : EntryNo) : Keeps b s (t.freeOrphanRec e) := by
  unfold State.freeOrphanRec; dsimp only
  repeat' split
  all_goals simp (maxDischargeDepth := 9) [h]

@[simp] theorem writeGood (h : Keeps false s t) (e : EntryNo) : Keeps false s (t.writeGood e) := by
  unfold State.writeGood; dsimp only
  repeat' split
  all_goals simp (maxDischargeDepth := 9) [h]

@[simp] theorem faultReply (h : Keeps false s t) (e : EntryNo) : Keeps false s (t.faultReply e) := by
  unfold State.faultReply; split <;> simp [h]

@[simp] theorem invalidateListed (h : Keeps false s t) (e : EntryNo) : Keeps false s (t.invalidateListed e) :=
  (h.modEntry e _ (by simp)).recallAll _ _ _

@[simp] theorem makePoison (h : Keeps b s t) (e : EntryNo) : Keeps b s (t.makePoison e) := by
  unfold State.makePoison; dsimp only
  repeat' split
  all_goals simp (maxDischargeDepth := 9) [h]

@[simp] theorem writeBad (h : Keeps false s t) (e : EntryNo) : Keeps false s (t.writeBad e) := by
  unfold State.writeBad; dsimp only
  repeat' split
  all_goals simp (maxDischargeDepth := 9) [h]

/-! ### Plan steps -/

@[simp] theorem withdrawReply (h : Keeps b s t) (e : EntryNo) : Keeps b s (t.withdrawReply e) := by
  unfold State.withdrawReply; split <;> simp (maxDischargeDepth := 9) [h]

@[simp] theorem stepUpgrade (h : Keeps false s t) (e : EntryNo) (a : Agent) : Keeps false s (t.stepUpgrade e a) := by
  unfold State.stepUpgrade; dsimp only
  repeat' split
  all_goals simp (maxDischargeDepth := 9) [h]

@[simp] theorem stepWrite (h : Keeps b s t) (e : EntryNo) : Keeps b s (t.stepWrite e) := by
  unfold State.stepWrite; dsimp only; split <;> simp [h]

@[simp] theorem stepSave (h : Keeps b s t) (e : EntryNo) : Keeps b s (t.stepSave e) := by
  unfold State.stepSave; split <;> simp [h]

@[simp] theorem saveUnheld (h : Keeps b s t) (e : EntryNo) : Keeps b s (t.saveUnheld e) := by
  unfold State.saveUnheld; dsimp only; split <;> simp (maxDischargeDepth := 9) [h]

@[simp] theorem stepReq (h : Keeps false s t) (k : ReqKind) (e : EntryNo) (a : Agent) :
    Keeps false s (t.stepReq k e a) := by
  unfold State.stepReq; dsimp only
  cases k <;> dsimp only
  all_goals repeat' split
  all_goals simp [h]

@[simp] theorem stepOrphan (h : Keeps b s t) (k : ReqKind) (e : EntryNo) : Keeps b s (t.stepOrphan k e) := by
  unfold State.stepOrphan; dsimp only
  cases k <;> dsimp only
  all_goals repeat' split
  all_goals simp [h]

@[simp] theorem stepPlan (h : Keeps false s t) (e : EntryNo) : Keeps false s (t.stepPlan e) := by
  unfold State.stepPlan; dsimp only; split
  · repeat' split
    all_goals simp [h]
  all_goals exact h

/-! ### Completion -/

@[simp] theorem passWay (h : Keeps false s t) (e : EntryNo) : Keeps false s (t.passWay e) := by
  unfold State.passWay; dsimp only
  repeat' split
  all_goals simp (maxDischargeDepth := 9) [h]

@[simp] theorem owedPoison (h : Keeps b s t) (e : EntryNo) : Keeps b s (t.owedPoison e) := by
  unfold State.owedPoison; dsimp only
  repeat' split
  all_goals simp (maxDischargeDepth := 9) [h]

theorem ofRequest_copy (q : Request) (u : UseNo) (l : List Request) : (Entry.ofRequest q u l).copy = none := rfl

@[simp] theorem handOver (h : Keeps b s t) (e : EntryNo) : Keeps b s (t.handOver e) := by
  unfold State.handOver; dsimp only; split
  · next d =>
    refine Keeps.push (h.setEntry _ _ ?_ (fun l => State.tableLawful_handOver (h.table l) d _)) _
    intro _ _ hr; simp [ofRequest_copy] at hr
  · refine Keeps.push (h.setEntry _ _ ?_ (fun l => State.tableLawful_free (h.table l) _ _)) _
    intro _ _ hr; simp [Entry.free] at hr

@[simp] theorem convertSweep (h : Keeps false s t) (e : EntryNo) : Keeps false s (t.convertSweep e) := by
  unfold State.convertSweep; dsimp only
  exact ((h.modEntry e _ (by simp [Kind.isAgent, Entry.free])).planSweep _ _).push _ |>.push _

@[simp] theorem recheckStep (h : Keeps false s t) (e : EntryNo) : Keeps false s (t.recheckStep e) := by
  unfold State.recheckStep; dsimp only
  repeat' split
  all_goals simp (maxDischargeDepth := 9) [h]

@[simp] theorem complete (h : Keeps false s t) (e : EntryNo) : Keeps false s (t.complete e) := by
  unfold State.complete; dsimp only
  repeat' split
  all_goals simp (maxDischargeDepth := 9) [h]

@[simp] theorem settlePhase (h : Keeps false s t) (e : EntryNo) : Keeps false s (t.settlePhase e) := by
  unfold State.settlePhase; dsimp only
  repeat' split
  all_goals simp (maxDischargeDepth := 9) [h]

@[simp] theorem advanceRebuild (h : Keeps false s t) (e : EntryNo) : Keeps false s (t.advanceRebuild e) := by
  unfold State.advanceRebuild; dsimp only
  repeat' split
  all_goals simp (maxDischargeDepth := 9) [h]

@[simp] theorem advance (h : Keeps false s t) (e : EntryNo) : Keeps false s (t.advance e) := by
  unfold State.advance; dsimp only
  repeat' split
  all_goals simp (maxDischargeDepth := 9) [h]

/-! ### STARTING -/

@[simp] theorem lookupStep (h : Keeps false s t) (e : EntryNo) : Keeps false s (t.lookupStep e) := by
  unfold State.lookupStep; dsimp only
  repeat' split
  all_goals simp (maxDischargeDepth := 9) [h]

@[simp] theorem pinCheck (h : Keeps false s t) (e : EntryNo) : Keeps false s (t.pinCheck e) := by
  unfold State.pinCheck; split
  · simp [h]
  · next c =>
    refine lookupStep (h.setEntry e _ (fun l r hr => ?_) (fun l => ?_)) e
    · by_cases n : (t.entry e).phase = .free
      · rw [Entry.change_free n] at hr; exact (h.law l).2 e r hr
      · rw [Entry.change_active n] at hr; exact (h.law l).2 e r hr
    · exact State.tableLawful_pin (h.table l) e (Nat.lt_of_not_le c)

@[simp] theorem openReq (h : Keeps false s t) (k : ReqKind) (e : EntryNo) (a : Agent) :
    Keeps false s (t.openReq k e a) := by
  unfold State.openReq; split
  · simp [h]
  · dsimp only; split <;> simp (maxDischargeDepth := 9) [h]

@[simp] theorem start (h : Keeps false s t) (e : EntryNo) : Keeps false s (t.start e) := by
  unfold State.start; dsimp only
  repeat' split
  all_goals simp (maxDischargeDepth := 9) [h]

end Sys2Proof.Machine.Keeps
end

