-- ==== Sys2Proof/Laws/KeepsPorts.lean ====
section
/-! SUPPORT. The operations of Machine/Ports.lean keep the relation Keeps. -/

namespace Sys2Proof.Machine.Keeps

variable {b : Bool} {s t : State}

/-! ### Arrivals, joining and leaving -/

theorem refuseArrival (h : Keeps false s t) (q : Request) (r : Reason) (u : SubReason) :
    Keeps false s (t.refuseArrival q r u) := by
  unfold State.refuseArrival; dsimp only; split
  · next c => exact (h.place _ _ c).reportProtocol _ _ _ _
  · exact h.reportProtocol _ _ _ _

theorem arriveRequest (h : Keeps false s t) (q : Request) : Keeps false s (t.arriveRequest q) := by
  unfold State.arriveRequest; split
  · exact h
  · split
    · exact h.refuseArrival _ _ _
    · next hq =>
      split
      · exact h.refuseArrival _ _ _
      · next hl =>
        refine h.setPort _ _ rfl (fun e => ⟨e, rfl⟩) (fun ⟨⟨_, h1⟩, h2, h3, h4⟩ => ⟨⟨?_, ?_⟩, h2, h3, ?_⟩) (fun e => by simp at e)
        · simp only [List.length_append, List.length_singleton]; omega
        · intro r hr
          rcases List.mem_append.mp hr with hr | hr
          · exact h1 r hr
          · rw [List.mem_singleton] at hr; rw [hr]
        · refine List.Nodup.append h4 (List.nodup_singleton _) ?_
          intro x hx hy
          rw [List.mem_singleton] at hy
          subst hy
          exact hl (by simpa using hx)

theorem stopRecall (h : Keeps b s t) (a : Agent) (e : Byte) (u : UseNo) : Keeps b s (t.stopRecall a e u) := by
  unfold State.stopRecall; simp [h]

theorem checkRecall (h : Keeps b s t) (a : Agent) (m : Resp) : Keeps b s (t.checkRecall a m) := by
  unfold State.checkRecall; split
  · exact h.stopRecall _ _ _
  · exact h.stopRecall _ _ _
  all_goals exact h

theorem arriveResponse (h : Keeps b s t) (a : Agent) (m : Resp) : Keeps b s (t.arriveResponse a m) := by
  have k := h.checkRecall a m
  unfold State.arriveResponse; dsimp only; split
  · exact h
  · split
    · exact k.reportProtocol _ _ _ _
    · next hq =>
      refine k.setPort _ _ rfl (fun e => ⟨e, rfl⟩) (fun ⟨h1, _, h3, h4⟩ => ⟨h1, ?_, h3, h4⟩) (fun _ e => e)
      simp only [List.length_append, List.length_singleton]; omega

theorem offerJoinAck (h : Keeps false s t) (a : Agent) : Keeps false s (t.offerJoinAck a) := by
  unfold State.offerJoinAck; split
  · exact h
  · split
    · next r => exact h.place _ _ (hasPlace_room r)
    · exact h.wait _ _

theorem joinPort (h : Keeps false s t) (a : Agent) : Keeps false s (t.joinPort a) := by
  unfold State.joinPort; split
  · exact h
  · split
    · next e =>
      refine offerJoinAck (h.setPort _ _ ?_ ?_ ?_ ?_) _
      · rfl
      · exact fun f => by rw [e] at f; cases f
      · exact fun q => q
      · exact fun c => by simp at c
    · exact h.offerJoinAck _
    · exact h
    · exact h

theorem leavePort (h : Keeps b s t) (a : Agent) : Keeps b s (t.leavePort a) := by
  unfold State.leavePort; dsimp only; split
  · exact h
  · next c =>
    have hc : (t.port a).state = .online := by
      by_contra e
      exact c (by simp [e])
    have k : Keeps b s (t.modPort a (fun p => { p with state := .draining, drainRequested := true })) :=
      h.setPort _ _ rfl (fun f => by rw [hc] at f; cases f) (fun q => q)
        (fun _ q => q.imp id (fun c => by simp [Port.attached, hc] at c))
    simp (maxDischargeDepth := 9) [k]

@[simp] theorem endPin (h : Keeps b s t) (e : EntryNo) : Keeps b s (t.endPin e) := h.modEntry _ _ (by simp)

@[simp] theorem ackDone (h : Keeps b s t) (i : BufferNo) : Keeps b s (t.ackDone i) := by
  unfold State.ackDone; split <;> simp [h]

@[simp] theorem endWait (h : Keeps b s t) (w : Waiter) : Keeps b s (t.endWait w) := by
  unfold State.endWait; split <;> simp (maxDischargeDepth := 9) [h]

@[simp] theorem orphan (h : Keeps b s t) (e : EntryNo) : Keeps b s (t.orphan e) := by
  have hu : Keeps b s (if t.originListed e then t else t.asReadOwn e) := by split <;> simp [h]
  unfold State.orphan; dsimp only
  generalize (if t.originListed e then t else t.asReadOwn e) = u at hu ⊢
  have k := hu.modEntry e (fun x => { x with orphaned := true, reply := .none, pinCounted := false }) (by simp)
  split
  · refine modEntry ((k.leaveAwaiting e).mapEntries _ (fun x r hr => ?_) (fun l => ?_)) _ _ (by simp)
    · split at hr <;> exact hr
    · exact State.tableLawful_map ((k.leaveAwaiting e).table l) (fun x => by split <;> exact ⟨rfl, rfl, rfl, rfl, rfl, rfl⟩)
  · exact k

@[simp] theorem undefer (h : Keeps b s t) (a : Agent) (e : EntryNo) : Keeps b s (t.undefer a e) := by
  refine Keeps.push (h.setEntry e _ (fun l r hr => ?_) (fun l => State.tableLawful_undefer (h.table l) a e)) _
  by_cases n : (t.entry e).phase = .free
  · rw [Entry.change_free n] at hr; exact (h.law l).2 e r hr
  · rw [Entry.change_active n] at hr; exact (h.law l).2 e r hr

@[simp] theorem failEntry (h : Keeps false s t) (a : Agent) (e : EntryNo) : Keeps false s (State.failEntry a t e) := by
  unfold State.failEntry; dsimp only
  repeat' split
  all_goals simp (maxDischargeDepth := 12) [h]

theorem fail_bounded (p : Port) (a : Agent) : p.fail.bounded a := by
  refine ⟨by simp [Port.fail], by simp [Port.fail], ?_, by simp [Port.fail]⟩
  simp only [Port.fail]; split <;> simp [Config.outputQueueSize]

/-- The state of a port at which its failure begins. -/
theorem modPort_fail (h : Keeps false s t) (a : Agent) : Keeps false s (t.modPort a Port.fail) :=
  h.setPort _ _ rfl (fun _ => ⟨rfl, rfl⟩) (fun _ => fail_bounded _ _) (fun e => by simp at e)

/-- What follows a port's own changes at its failure. -/
theorem failPort_from (a : Agent) (r : Option Report) : Keeps false (t.modPort a Port.fail) (t.failPort a r) := by
  have k : Keeps false (t.modPort a Port.fail) (entryNos.foldl (State.failEntry a)
      ((t.port a).waiters.foldl State.endWait { t.modPort a Port.fail with
        bufferWaiters := (t.modPort a Port.fail).bufferWaiters.filter (fun b => b != a) })) :=
    Keeps.foldl (fun _ _ k => k.failEntry _ _) _ _ (Keeps.foldl (fun _ _ k => k.endWait _) _ _
      ((Keeps.refl _).other _ _ _ _ _ _ _ _ _ _ _))
  unfold State.failPort; dsimp only
  split
  · exact ((k.sweepStrip _).raise _).report _
  · exact (k.sweepStrip _).raise _

@[simp] theorem failPort (h : Keeps false s t) (a : Agent) (r : Option Report) : Keeps false s (t.failPort a r) :=
  (h.modPort_fail a).trans (failPort_from a r)

/-! ### Output places -/

@[simp] theorem popRequest (h : Keeps b s t) (a : Agent) : Keeps b s (t.popRequest a) := by
  refine h.modPort _ _ (fun _ => rfl) (fun _ e => ⟨e, rfl⟩) (fun _ ⟨h1, h2, h3, h4⟩ => ⟨⟨?_, ?_⟩, h2, h3, h4⟩) (fun _ e => e)
  · simp only [List.length_tail]; omega
  · exact fun q hq => h1.2 q (List.mem_of_mem_tail hq)

@[simp] theorem dropRefused (h : Keeps b s t) (a : Agent) (m : OutMsg) : Keeps b s (t.dropRefused a m) := by
  unfold State.dropRefused; split <;> simp (maxDischargeDepth := 9) [h]

theorem servePlace (h : Keeps false s t) (a : Agent) (w : Waiter)
    (hr : (t.port a).output.length < Config.outputQueueSize) : Keeps false s (t.servePlace a w) := by
  unfold State.servePlace; split
  · next e _ =>
    split
    · exact h
    · dsimp only
      have k := h.modEntry e (fun x => { x with reply := .none }) (by simp)
      repeat' split
      · exact (k.placeGrant _ _ _ _ hr).push _
      · exact k.placeGrant _ _ _ _ hr
      · exact (k.placeReply _ _ _ _ hr).push _
      · exact k.placeReply _ _ _ _ hr
  · exact h.placeRecall _ _ _ hr
  · exact (h.place _ _ hr).push _
  · exact ((h.place _ _ hr).ackDone _).push _
  · simp (maxDischargeDepth := 9) [h.place _ _ hr]
  · simp (maxDischargeDepth := 9) [h.place _ _ hr]
  · exact h.place _ _ hr

@[simp] theorem givePlace (h : Keeps false s t) (a : Agent) : Keeps false s (t.givePlace a) := by
  unfold State.givePlace; split
  · next hr =>
    split
    · exact h
    · next w ws _ =>
      have k : Keeps false s (t.modPort a (fun p => { p with waiters := ws })) :=
        h.modPort_same a _ (fun _ => rfl) (fun _ => ⟨rfl, rfl⟩) (fun _ => rfl) (fun _ => rfl) (fun _ => rfl) (fun _ => rfl)
      have m := k.servePlace a w (by rw [State.modPort_port_same]; exact hr)
      dsimp only; split
      · exact m.push _
      · exact m
  · exact h

theorem messageSent (h : Keeps b s t) (a : Agent) : Keeps b s (t.messageSent a) := by
  unfold State.messageSent; split
  · refine Keeps.push (h.modPort _ _ ?_ ?_ ?_ ?_) _
    · exact fun _ => rfl
    · exact fun _ e => ⟨e, rfl⟩
    · intro p ⟨h1, h2, h3, h4⟩
      refine ⟨h1, h2, ?_, h4⟩
      simp only [List.length_tail]; omega
    · intro p e
      refine e.imp (fun e => ?_) id
      simp only [List.length_tail]; omega
  · exact h

/-! ### Admission -/

theorem refuseHead (h : Keeps false s t) (a : Agent) (q : Request) (r : Reason) : Keeps false s (t.refuseHead a q r) := by
  unfold State.refuseHead; dsimp only; split
  · next p => exact (h.place _ _ (hasPlace_room p)).dropRefused _ _
  · simp (maxDischargeDepth := 9) [h]

theorem deferHead (h : Keeps b s t) (a : Agent) (q : Request) (e : EntryNo) (hb : t.busy q.line = some e)
    (ho : (t.entry e).outstanding q.agent = false)
    (hp : (t.entry e).holdsPlace = true ∨ t.placesHeld < Config.agentPlaces) : Keeps b s (t.deferHead a q e) := by
  refine (h.popRequest a).setEntry e _ (fun l r hr => ?_)
    (fun l => State.tableLawful_defer ((h.popRequest a).table l) hb ho hp)
  change ((t.entry e).change _).copy = some r at hr
  rw [Entry.change_active (State.busy_some hb).1] at hr
  exact (h.law l).2 e r hr

theorem allocHead (h : Keeps b s t) (a : Agent) (q : Request) (e : EntryNo) (hb : t.busy q.line = none)
    (hp : t.placesHeld < Config.agentPlaces) : Keeps b s (t.allocHead a q e) := by
  unfold State.allocHead; dsimp only
  refine Keeps.push (Keeps.push ((h.popRequest a).setEntry e _ ?_ (fun l => ?_)) _) _
  · exact fun _ _ hr => by simp [ofRequest_copy] at hr
  · exact State.tableLawful_alloc ((h.popRequest a).table l) e hb hp _

/-- What the outcomes of R62 say of the line of the head. -/
theorem admission_line {a : Agent} {q : Request} {l : List Request} (hq : (t.port a).requests = q :: l) :
    (∀ e, t.admission a = .defer e →
      t.busy q.line = some e ∧ (t.entry e).outstanding q.agent = false ∧ (t.entry e).holdsPlace = true) ∧
    (∀ e, t.admission a = .needPlace e → t.busy q.line = some e ∧ (t.entry e).outstanding q.agent = false) ∧
    (t.admission a = .needEntry → t.busy q.line = none) := by
  unfold State.admission
  rw [hq]
  dsimp only
  cases hb : t.busy q.line with
  | none => refine ⟨fun e c => ?_, fun e c => ?_, fun _ => rfl⟩ <;> dsimp only at c <;> (repeat' split at c) <;> cases c
  | some f =>
    refine ⟨fun e c => ?_, fun e c => ?_, fun c => ?_⟩ <;> dsimp only at c <;> (repeat' split at c) <;> cases c
    · next ho hp => exact ⟨rfl, by simpa using ho, hp⟩
    · next ho hp => exact ⟨rfl, by simpa using ho⟩

@[simp] theorem setHead (h : Keeps b s t) (a : Agent) (d : HeadStand) : Keeps b s (t.setHead a d) := by
  unfold State.setHead; simp (maxDischargeDepth := 9) [h]

theorem examine (h : Keeps false s t) (a : Agent) : Keeps false s (t.examine a).1 := by
  unfold State.examine; split
  · exact h
  · next q l hq =>
    obtain ⟨k1, k2, k3⟩ := admission_line hq
    split
    · exact h
    · exact h.refuseHead _ _ _
    · exact h.setHead _ _
    · exact h.refuseHead _ _ _
    · next e ad => exact h.deferHead _ _ _ (k1 e ad).1 (k1 e ad).2.1 (.inl (k1 e ad).2.2)
    · next e ad =>
      split
      · next c => exact (h.deferHead _ _ _ (k2 e ad).1 (k2 e ad).2 (.inr c)).other _ _ _ _ _ _ _ _ _ _ _
      · exact h.setHead _ _
    · next ad =>
      split
      · split
        · next c => exact (h.allocHead _ _ _ (k3 ad) c).other _ _ _ _ _ _ _ _ _ _ _
        · exact h.setHead _ _
      · exact h.setHead _ _

theorem reexamine (h : Keeps false s t) (l : List Agent) : Keeps false s (t.reexamine l).1 := by
  induction l generalizing t with
  | nil => exact h
  | cons a l ih =>
    unfold State.reexamine; split
    · have k := h.examine a
      split
      · next e => rw [e] at k; exact k
      · next e => rw [e] at k; exact ih k
    · exact ih h

@[simp] theorem admissionRound (h : Keeps false s t) : Keeps false s t.admissionRound := by
  have k := h.reexamine (agentsAfter t.position)
  unfold State.admissionRound
  split
  · next e => rw [e] at k; exact k.push _
  · next e => rw [e] at k; exact k

end Sys2Proof.Machine.Keeps
end

