-- ==== Sys2Proof/Laws/KeepsHandler.lean ====
section
/-! SUPPORT. The response handler of Machine/Handler.lean keeps the relation Keeps. -/

namespace Sys2Proof.Machine.Keeps

variable {b : Bool} {s t : State}

@[simp] theorem takeResponse (h : Keeps b s t) (a : Agent) (i : Nat) : Keeps b s (t.takeResponse a i) := by
  unfold State.takeResponse
  refine Keeps.push (checkDrained (h.modPort a _ ?_ ?_ ?_ ?_) a) _
  · exact fun _ => rfl
  · exact fun _ e => ⟨e, rfl⟩
  · intro p ⟨h1, h2, h3, h4⟩
    exact ⟨h1, (List.length_eraseIdx_le _ _).trans h2, h3, h4⟩
  · exact fun _ e => e

@[simp] theorem holdResponse (h : Keeps b s t) (a : Agent) (i : Nat) : Keeps b s (t.holdResponse a i) := by
  unfold State.holdResponse
  refine h.modPort _ _ ?_ ?_ ?_ ?_
  · exact fun _ => rfl
  · exact fun _ e => ⟨e, rfl⟩
  · intro p ⟨h1, h2, h3, h4⟩
    exact ⟨h1, by simpa using h2, h3, h4⟩
  · exact fun _ e => e

@[simp] theorem markWaiting (h : Keeps b s t) (a : Agent) (i : Nat) (c : Bool) : Keeps b s (t.markWaiting a i c) := by
  unfold State.markWaiting
  refine h.modPort _ _ ?_ ?_ ?_ ?_
  · exact fun _ => rfl
  · exact fun _ e => ⟨e, rfl⟩
  · intro p ⟨h1, h2, h3, h4⟩
    exact ⟨h1, by simpa using h2, h3, h4⟩
  · exact fun _ e => e

@[simp] theorem offerAck (h : Keeps false s t) (a : Agent) (m : OutMsg) : Keeps false s (t.offerAck a m) := by
  unfold State.offerAck; split
  · exact h
  · split
    · next r => exact h.place _ _ (hasPlace_room r)
    · exact h.wait _ _

@[simp] theorem offerBufferAck (h : Keeps false s t) (i : BufferNo) : Keeps false s (t.offerBufferAck i) := by
  unfold State.offerBufferAck; dsimp only; split
  · exact h.ackDone _
  · split
    · next r => exact (h.place _ _ (hasPlace_room r)).ackDone _
    · exact h.wait _ _

@[simp] theorem reportUnexpected (h : Keeps b s t) (a : Agent) (l : Line) : Keeps b s (t.reportUnexpected a l) :=
  h.reportProtocol _ _ _ _

@[simp] theorem advanceBusy (h : Keeps b s t) (l : Line) : Keeps b s (t.advanceBusy l) := by
  unfold State.advanceBusy; split <;> simp [h]

@[simp] theorem staleReply (h : Keeps b s t) (a : Agent) (e : Byte) : Keeps b s (t.staleReply a e) :=
  h.countStale.reportProtocol _ _ _ _

@[simp] theorem routeReply (h : Keeps false s t) (a : Agent) (i : Nat) (e : Byte) (u : UseNo) (r : RecallEnd) :
    Keeps false s (t.routeReply a i e u r) := by
  unfold State.routeReply; split <;> simp (maxDischargeDepth := 9) [h]

@[simp] theorem bufferWb (h : Keeps b s t) (a : Agent) (i : Nat) (l : Line) (d : LineData) (late : Bool) :
    Keeps b s (t.bufferWb a i l d late) := by
  unfold State.bufferWb; split
  · exact (h.markWaiting _ _ _).other _ _ _ _ _ _ _ _ _ _ _
  · simp (maxDischargeDepth := 9) [h]

@[simp] theorem sharerWb (h : Keeps false s t) (a : Agent) (i : Nat) (l : Line) (late : Bool) :
    Keeps false s (t.sharerWb a i l late) := by
  unfold State.sharerWb; simp (maxDischargeDepth := 9) [h]

@[simp] theorem strangerWb (h : Keeps false s t) (a : Agent) (i : Nat) (l : Line) (late : Bool) :
    Keeps false s (t.strangerWb a i l late) := by
  unfold State.strangerWb; simp (maxDischargeDepth := 9) [h]

@[simp] theorem absorbWb (h : Keeps false s t) (a : Agent) (i : Nat) (l : Line) (d : LineData) (late : Bool)
    (e : EntryNo) : Keeps false s (t.absorbWb a i l d late e) := by
  unfold State.absorbWb; dsimp only; split <;> simp (maxDischargeDepth := 9) [h]

@[simp] theorem rebuildWb (h : Keeps false s t) (a : Agent) (i : Nat) (l : Line) (d : LineData) (late : Bool)
    (e : EntryNo) : Keeps false s (t.rebuildWb a i l d late e) := by
  unfold State.rebuildWb; split <;> simp (maxDischargeDepth := 9) [h]

@[simp] theorem returnPinned (h : Keeps false s t) (a : Agent) (l : Line) (d : LineData) (e : EntryNo) (m : OutMsg) :
    Keeps false s (t.returnPinned a l d e m) := by
  unfold State.returnPinned; simp (maxDischargeDepth := 9) [h]

@[simp] theorem busyWb (h : Keeps false s t) (a : Agent) (i : Nat) (l : Line) (d : LineData) (late : Bool)
    (e : EntryNo) : Keeps false s (t.busyWb a i l d late e) := by
  unfold State.busyWb
  repeat' split
  all_goals simp (maxDischargeDepth := 9) [h]

@[simp] theorem idleWb (h : Keeps false s t) (a : Agent) (i : Nat) (l : Line) (d : LineData) (late : Bool) :
    Keeps false s (t.idleWb a i l d late) := by
  unfold State.idleWb
  repeat' split
  all_goals simp (maxDischargeDepth := 9) [h]

@[simp] theorem holdForRebuild (h : Keeps b s t) (a : Agent) (i : Nat) (l : Line) :
    Keeps b s (t.holdForRebuild a i l) := by
  unfold State.holdForRebuild; split <;> simp (maxDischargeDepth := 9) [h]

@[simp] theorem routeWb (h : Keeps false s t) (a : Agent) (i : Nat) (l : Line) (d : LineData) (late : Bool) :
    Keeps false s (t.routeWb a i l d late) := by
  unfold State.routeWb; dsimp only
  repeat' split
  all_goals simp (maxDischargeDepth := 9) [h]

@[simp] theorem listedDrop (h : Keeps b s t) (a : Agent) (i : Nat) (l : Line) : Keeps b s (t.listedDrop a i l) := by
  unfold State.listedDrop; split <;> simp (maxDischargeDepth := 9) [h]

@[simp] theorem takeDrop (h : Keeps b s t) (a : Agent) (i : Nat) (l : Line) : Keeps b s (t.takeDrop a i l) := by
  unfold State.takeDrop; split <;> simp (maxDischargeDepth := 9) [h]

@[simp] theorem rebuildDrop (h : Keeps b s t) (a : Agent) (i : Nat) (e : EntryNo) : Keeps b s (t.rebuildDrop a i e) := by
  unfold State.rebuildDrop; split <;> simp (maxDischargeDepth := 9) [h]

@[simp] theorem routeDrop (h : Keeps b s t) (a : Agent) (i : Nat) (l : Line) : Keeps b s (t.routeDrop a i l) := by
  unfold State.routeDrop; dsimp only
  repeat' split
  all_goals simp (maxDischargeDepth := 9) [h]

/-- A pin cleared leaves a lawful record: the pin is there only on an EXCLUSIVE one (R5). -/
theorem unpinned_lawful {r : Rec} (h : r.lawful) : Rec.lawful { r with pin := none } := by
  unfold Rec.lawful at h ⊢
  dsimp only at h ⊢
  split at h
  · simp only [Bool.and_eq_true] at h ⊢
    exact ⟨h.1, rfl⟩
  · rw [List.any_eq_true] at h ⊢
    obtain ⟨a, h1, h2⟩ := h
    simp only [Bool.and_eq_true] at h2
    exact ⟨a, h1, by simp [h2.1]⟩
  · simp only [Bool.and_eq_true] at h ⊢
    exact ⟨h.1, rfl⟩

@[simp] theorem clearPin (h : Keeps b s t) (l : Line) (touch : Bool) : Keeps b s (t.clearPin l touch) := by
  unfold State.clearPin; split
  · next lr =>
    split
    · exact h.rewrite _ _ _ _ _ (fun law => State.lookup_ordered (h.law law).1 (State.lineRec_some lr).1)
        (fun law _ _ => unpinned_lawful (State.lineRec_lawful (h.law law).1 lr))
    · exact h
  · exact h

@[simp] theorem takeUnpin (h : Keeps false s t) (a : Agent) (i : Nat) (l : Line) (d : Option LineData) (e : EntryNo) :
    Keeps false s (t.takeUnpin a i l d e) := by
  unfold State.takeUnpin; dsimp only
  repeat' split
  all_goals simp (maxDischargeDepth := 9) [h]

@[simp] theorem lateUnpin (h : Keeps false s t) (a : Agent) (i : Nat) (l : Line) :
    Keeps false s (t.lateUnpin a i l) := by
  unfold State.lateUnpin; dsimp only
  repeat' split
  all_goals simp (maxDischargeDepth := 9) [h]

@[simp] theorem routeUnpin (h : Keeps false s t) (a : Agent) (i : Nat) (l : Line) (d : Option LineData) :
    Keeps false s (t.routeUnpin a i l d) := by
  unfold State.routeUnpin
  repeat' split
  all_goals simp (maxDischargeDepth := 9) [h]

@[simp] theorem route (h : Keeps false s t) (a : Agent) (i : Nat) (m : Resp) : Keeps false s (t.route a i m) := by
  unfold State.route; split <;> simp [h]

theorem handle (h : Keeps false s t) (a : Agent) (k : RespKind) : Keeps false s (t.handle a k) := by
  unfold State.handle
  repeat' split
  all_goals simp [h]

@[simp] theorem serveWaiters (h : Keeps false s t) : Keeps false s t.serveWaiters := by
  have k : ∀ l, Keeps false s { t with bufferWaiters := l } := fun l => h.other _ _ _ _ _ _ _ _ _ _ _
  unfold State.serveWaiters; split
  · exact h
  · split
    · exact h
    · dsimp only; split
      · exact k _
      · split
        · exact (((k _).markWaiting _ _ _).route _ _ _).push _
        · exact ((k _).markWaiting _ _ _).route _ _ _

end Sys2Proof.Machine.Keeps
end

