-- ==== Sys2Proof/Laws/KeepsEngine.lean ====
section
/-! SUPPORT. The internal work of one event, the memory port's results, the timers, the sweep engine and the internal-pool
arbiter of Machine/Engine.lean keep the relation Keeps; so does the end of an event. -/

namespace Sys2Proof.Machine.Keeps

variable {b : Bool} {s t : State}

/-! ### Work items -/

theorem runTask (h : Keeps false s t) (w : Task) : Keeps false s (t.runTask w) := by
  unfold State.runTask; split
  · exact h
  · split <;> first | (split <;> simp [h]) | simp [h]

theorem testDrained (h : Keeps false s t) : Keeps false s t.testDrained :=
  Keeps.foldl (fun _ _ k => k.checkDrained _) _ _ h

theorem settle (n : Nat) (h : Keeps false s t) : Keeps false s (Machine.settle n t) := by
  induction n generalizing t with
  | zero => exact h
  | succ n ih =>
    unfold Machine.settle; split
    · exact h
    · exact ih (testDrained (runTask (h.other _ _ _ _ _ _ _ _ _ _ _) _))

theorem finish (h : Keeps false s t) : Keeps false s t.finish := h.testDrained.settle _

/-! ### Memory results -/

@[simp] theorem freeTag (h : Keeps b s t) (i : MemTagNo) : Keeps b s (t.freeTag i) := h.setTag _ _

@[simp] theorem reportMemory (h : Keeps b s t) (k : FaultKind) (c : MemClaim) (w : Option WayNo) :
    Keeps b s (t.reportMemory k c w) := by
  unfold State.reportMemory; dsimp only; split <;> simp [h]

@[simp] theorem issueHeld (h : Keeps b s t) (l : Line) (i : MemTagNo) : Keeps b s (State.issueHeld l t i) := by
  unfold State.issueHeld; split
  · split <;> simp [h]
  · exact h

@[simp] theorem faultHeld (h : Keeps b s t) (l : Line) (i : MemTagNo) : Keeps b s (State.faultHeld l t i) := by
  unfold State.faultHeld
  repeat' split
  all_goals simp (maxDischargeDepth := 9) [h]

@[simp] theorem bufferGood (h : Keeps false s t) (i : BufferNo) : Keeps false s (t.bufferGood i) := by
  unfold State.bufferGood; dsimp only
  exact (Keeps.foldl (fun _ _ k => k.issueHeld _ _) _ _ (h.setBuffer _ _)).offerBufferAck _

@[simp] theorem bufferBad (h : Keeps false s t) (i : BufferNo) : Keeps false s (t.bufferBad i) := by
  unfold State.bufferBad; dsimp only; split
  · exact (Keeps.foldl (fun _ _ k => k.faultHeld _ _) _ _ (h.setBuffer _ _)).offerBufferAck _
  · split <;> simp (maxDischargeDepth := 9) [h]

@[simp] theorem endWrite (h : Keeps false s t) (c : Claimant) (g : Bool) : Keeps false s (t.endWrite c g) := by
  unfold State.endWrite
  repeat' split
  all_goals simp [h]

@[simp] theorem endRead (h : Keeps false s t) (c : Claimant) (d : Option LineData) : Keeps false s (t.endRead c d) := by
  unfold State.endRead; split <;> simp [h]

@[simp] theorem writeFault (h : Keeps false s t) (c : MemClaim) : Keeps false s (t.writeFault c) := by
  unfold State.writeFault; simp [h]

@[simp] theorem memDataTaken (h : Keeps false s t) (c : MemClaim) (u : Byte) (d : LineData) :
    Keeps false s (t.memDataTaken c u d) := by
  unfold State.memDataTaken
  repeat' split
  all_goals simp [h]

@[simp] theorem memDoneTaken (h : Keeps false s t) (c : MemClaim) (u : Byte) : Keeps false s (t.memDoneTaken c u) := by
  unfold State.memDoneTaken; split <;> simp [h]

@[simp] theorem regrant (h : Keeps b s t) : Keeps b s t.regrant := by
  unfold State.regrant; split <;> simp [h]

theorem memDataArrives (h : Keeps false s t) (i : Byte) (u : UseNo) (v : Byte) (d : LineData) :
    Keeps false s (t.memDataArrives i u v d) := by
  unfold State.memDataArrives; split <;> simp (maxDischargeDepth := 9) [h]

theorem memDoneArrives (h : Keeps false s t) (i : Byte) (u : UseNo) (v : Byte) :
    Keeps false s (t.memDoneArrives i u v) := by
  unfold State.memDoneArrives; split <;> simp (maxDischargeDepth := 9) [h]

theorem memTimeout (h : Keeps false s t) (i : MemTagNo) : Keeps false s (t.memTimeout i) := by
  unfold State.memTimeout; dsimp only
  repeat' split
  all_goals simp (maxDischargeDepth := 9) [h]

/-! ### Timers and links -/

@[simp] theorem offerPinBroken (h : Keeps false s t) (e : EntryNo) : Keeps false s (t.offerPinBroken e) := by
  unfold State.offerPinBroken; dsimp only; split
  · exact h
  · split
    · exact h
    · split
      · next r => exact h.place _ _ (hasPlace_room r)
      · simp (maxDischargeDepth := 9) [h]

theorem pinExpires (h : Keeps false s t) (e : EntryNo) : Keeps false s (t.pinExpires e) := by
  unfold State.pinExpires; dsimp only
  repeat' split
  all_goals simp (maxDischargeDepth := 9) [h]

theorem recallExpires (h : Keeps false s t) (a : Agent) (e : EntryNo) (u : UseNo) :
    Keeps false s (t.recallExpires a e u) := by
  unfold State.recallExpires; split <;> simp [h]

/-! ### The sweep engine, the scrubber, the internal-pool arbiter -/

theorem goOffline_bounded (h : t.portsBounded) (a : Agent) : (t.goOffline a).portsBounded := by
  intro c
  unfold State.goOffline
  rw [State.modPort_port]; split
  · exact h c
  · exact h c

@[simp] theorem enterGap (h : Keeps b s t) (n : SetNo) : Keeps b s (t.enterGap n) := by
  unfold State.enterGap; split
  · exact h.sweep _
  · exact h

@[simp] theorem setRecheck (h : Keeps b s t) (e : EntryNo) : Keeps b s (t.setRecheck e) := h.modEntry _ _ (by simp)

theorem scrubExpires (h : Keeps b s t) : Keeps b s t.scrubExpires := by
  unfold State.scrubExpires; dsimp only; split
  · exact h
  · split
    · exact h.claimAll _ _
    · exact refreshScrub (other (claimRebuilds (h.claimAll _ _) _) _ _ _ _ _ _ _ _ _ _ _)

theorem setInternal (h : Keeps b s t) (e : EntryNo) (k : Kind) (l : Line) (d : Option EntryNo) (w : Option WayNo)
    (hk : k.isAgent = false) (hb : t.busy l = none) : Keeps b s (t.setInternal e k l d w) := by
  refine h.setEntry _ _ ?_ (fun law => State.tableLawful_setEntry (h.table law) (fun _ f _ hf => State.busy_none hb f hf)
    ?_ ?_ ?_)
  · exact fun _ _ hr => by simp [Entry.free] at hr
  · exact Entry.lawful_of ⟨by simp [Entry.free], by simp [Entry.free], fun _ => rfl⟩
      (fun c => Phase.noConfusion (show Phase.starting = .pinned from c))
  · exact fun c => by simp [Entry.free] at c
  · exact fun c => by simp [Entry.free, Entry.holdsPlace, hk] at c

theorem allocInternal (h : Keeps b s t) (e : EntryNo) (k : Kind) (l : Line) (d : Option EntryNo) (w : Option WayNo)
    (hk : k.isAgent = false) (hb : t.busy l = none) : Keeps b s (t.allocInternal e k l d w) :=
  ((h.setInternal e k l d w hk hb).push _).push _

/-- A line that is not busy is idle. -/
theorem idle_of {l : Line} (h : ¬(t.busy l).isSome = true) : t.busy l = none := by
  cases e : t.busy l with
  | none => rfl
  | some f => simp [e] at h

@[simp] theorem grantRebuild (h : Keeps b s t) (e : EntryNo) (c : RebuildClaim) (l : List RebuildClaim) :
    Keeps b s (t.grantRebuild e c l) := by
  have k : Keeps b s { t with rebuildClaims := l } := h.other _ _ _ _ _ _ _ _ _ _ _
  unfold State.grantRebuild; dsimp only; split
  · exact k
  · next hb => exact k.allocInternal _ _ _ _ _ rfl (idle_of (t := { t with rebuildClaims := l }) hb)

@[simp] theorem grantRetire (h : Keeps false s t) (e d : EntryNo) (l : Line) (w : WayNo) :
    Keeps false s (t.grantRetire e d l w) := by
  unfold State.grantRetire; split
  · simp [h]
  · next hb => exact (h.allocInternal _ _ _ _ _ rfl (idle_of hb)).setStand _ _

end Sys2Proof.Machine.Keeps
end

