-- ==== Sys2Proof/Laws/Settle.lean ====
section
/-! SUPPORT. The end of an event where its internal work has nothing to do: which work items change nothing, and what finish
then answers. -/

namespace Sys2Proof.Machine

/-- A work item that finds nothing to do in a state. -/
def State.idles (s : State) : Task → Bool
  | .advance e => (s.entry e).phase == .free || (s.entry e).phase == .pinned
  | .start e => (s.entry e).phase == .free
  | .notHeld e a => (s.entry e).pending[a].isNone && (s.entry e).phase == .free
  | .readFault e u => (s.entry e).use != u
  | .wake n => s.noneAwaiting n
  | .admission => s.noHeadWaits
  | .serveBuffers => s.bufferWaiters.isEmpty || s.freeBufferNo.isNone
  | .outputPlace a => (s.port a).waiters.isEmpty

/-- No head waits, so a round of the arbiter looks at none. -/
theorem State.reexamine_none {s : State} (h : s.noHeadWaits) (l : List Agent) : s.reexamine l = (s, false) := by
  have hw : ∀ a, (s.port a).headWaits = false := by
    intro a
    have := List.all_eq_true.1 h a (Keeps.mem_agents a)
    simpa using this
  induction l with
  | nil => rfl
  | cons a l ih => rw [State.reexamine, hw a]; exact ih

theorem State.admissionRound_none {s : State} (h : s.noHeadWaits) : s.admissionRound = s := by
  rw [State.admissionRound, State.reexamine_none h]

/-- The empty work list of a state. -/
theorem State.withWork (s : State) (l : List Task) (h : s.work = l) : { s with work := l } = s := by
  subst h; rfl

/-- A work item with nothing to do changes nothing. -/
theorem State.runTask_idle {s : State} {t : Task} (h : s.idles t) (hn : ∀ e a, t ≠ .notHeld e a) : s.runTask t = s := by
  unfold State.runTask
  split
  · rfl
  · cases t with
    | advance e =>
      simp only [State.idles, Bool.or_eq_true, beq_iff_eq] at h
      unfold State.advance
      rcases h with h | h <;> simp only [h]
    | start e =>
      simp only [State.idles, beq_iff_eq] at h
      simp [State.start, h]
    | notHeld e a => exact absurd rfl (hn e a)
    | readFault e u =>
      simp only [State.idles, bne_iff_ne, ne_eq] at h
      simp [h]
    | wake n =>
      simp only [State.idles, State.noneAwaiting, List.isEmpty_iff] at h
      simp [State.wakeSet, h]
    | admission => exact State.admissionRound_none h
    | serveBuffers =>
      simp only [State.idles, Bool.or_eq_true] at h
      dsimp only
      unfold State.serveWaiters
      split
      · rfl
      · rcases h with h | h
        · rw [List.isEmpty_iff] at h
          simp [h]
        · contradiction
    | outputPlace a =>
      simp only [State.idles, List.isEmpty_iff] at h
      simp [State.givePlace, h]

theorem foldl_fixed {α β : Type} {f : β → α → β} {s : β} (l : List α) (h : ∀ a ∈ l, f s a = s) : l.foldl f s = s := by
  induction l with
  | nil => rfl
  | cons a l ih =>
    rw [List.foldl_cons, h a (by simp)]
    exact ih (fun b hb => h b (List.mem_cons_of_mem _ hb))

/-- A port in a state other than DRAINING has no departure to finish (R28). -/
theorem Port.drained_state {p : Port} (h : p.state ≠ .draining) : p.drained = false := by
  simp [Port.drained, h]

/-- No departure to finish at a port, so its test of the six conditions changes nothing (R28). -/
theorem State.checkDrained_none {s : State} {a : Agent} (h : (s.port a).drained = false) : s.checkDrained a = s := by
  unfold State.checkDrained; rw [if_neg]; simp [h]

/-- A port changed, and then tested, where it is not DRAINING. -/
theorem State.checkDrained_modPort {s : State} {a : Agent} {f : Port → Port} (h : (f (s.port a)).state ≠ .draining) :
    (s.modPort a f).checkDrained a = s.modPort a f :=
  State.checkDrained_none (Port.drained_state (by rw [State.modPort_port, if_pos rfl]; exact h))

/-- At a port that is not DRAINING a holding count just falls (R12, R28). -/
theorem State.subHold_modPort {s : State} {a : Agent} (h : (s.port a).state ≠ .draining) :
    s.subHold a = s.modPort a (fun p => { p with holding := p.holding - 1 }) := State.checkDrained_modPort h

/-- At a port that is not DRAINING a label just leaves (R28, R33). -/
theorem State.releaseLabel_modPort {s : State} {a : Agent} (l : Label) (h : (s.port a).state ≠ .draining) :
    s.releaseLabel a l = s.modPort a (fun p => { p with labels := p.labels.filter (fun k => k != l) }) :=
  State.checkDrained_modPort h

/-- At a port that is not DRAINING a routed message just leaves its queue (R28, R92). -/
theorem State.takeResponse_modPort {s : State} {a : Agent} (i : Nat) (h : (s.port a).state ≠ .draining) :
    s.takeResponse a i = (s.modPort a (fun p => { p with responses := p.responses.eraseIdx i })).push .admission := by
  unfold State.takeResponse; rw [State.checkDrained_modPort h]

/-- No departure to finish, so the test of the six conditions changes nothing (R28). -/
theorem State.testDrained_none {s : State} (h : ∀ a, (s.port a).drained = false) : s.testDrained = s :=
  foldl_fixed _ (fun a _ => State.checkDrained_none (h a))

/-- Work that has nothing to do, where no departure is to be finished, is done by dropping it. -/
theorem settle_idle (n : Nat) (s : State) (h : ∀ t ∈ s.work, s.idles t ∧ ∀ e a, t ≠ .notHeld e a)
    (hn : s.work.length ≤ n) (hd : ∀ a, (s.port a).drained = false) : settle n s = { s with work := [] } := by
  induction n generalizing s with
  | zero =>
    have e : s.work = [] := by simpa using hn
    rw [State.withWork s [] e]; rfl
  | succ n ih =>
    unfold settle
    split
    · next e => rw [State.withWork s [] e]
    · next t rest e =>
      have ht := h t (by rw [e]; simp)
      have hi : State.idles { s with work := rest } t := by
        have := ht.1
        revert this
        cases t <;> exact fun h => h
      rw [State.runTask_idle hi ht.2, State.testDrained_none (s := { s with work := rest }) hd, ih]
      · intro t' ht'
        have h2 := h t' (by rw [e]; exact List.mem_cons_of_mem _ ht')
        refine ⟨?_, h2.2⟩
        have := h2.1
        revert this
        cases t' <;> exact fun h => h
      · rw [e] at hn
        simpa using hn
      · exact hd

/-- The end of an event whose work has nothing to do and that leaves no departure to finish. -/
theorem State.finish_idle {s : State} (h : ∀ t ∈ s.work, s.idles t ∧ ∀ e a, t ≠ .notHeld e a)
    (hn : s.work.length ≤ Config.workBound) (hd : ∀ a, (s.port a).drained = false) : s.finish = { s with work := [] } := by
  unfold State.finish
  rw [State.testDrained_none hd, settle_idle _ s h hn hd]

/-- The end of an event that set off no work. -/
theorem State.finish_quiet {s : State} (h : s.work = []) (hd : ∀ a, (s.port a).drained = false) : s.finish = s := by
  rw [State.finish_idle (by simp [h]) (by simp [h]) hd, State.withWork s [] h]

/-- What being at rest says. -/
theorem State.atRest_iff {s : State} :
    s.atRest ↔ s.resetPin = false ∧ s.work = [] ∧ ∀ a, (s.port a).drained = false := by
  unfold State.atRest
  simp only [Bool.and_eq_true, List.all_eq_true, Bool.not_eq_true', List.isEmpty_iff]
  constructor
  · rintro ⟨⟨h1, h2⟩, h3⟩
    exact ⟨h1, h2, fun a => h3 a (Keeps.mem_agents a)⟩
  · rintro ⟨h1, h2, h3⟩
    exact ⟨⟨h1, h2⟩, fun a _ => h3 a⟩

/-- An event while RESET is released. -/
theorem State.event_eq {s : State} (h : s.resetPin = false) (f : State → State) : s.event f = .next (f s).finish := by
  simp [State.event, h]

/-- An event that sets off no work and leaves no departure to finish. -/
theorem State.event_quiet {s : State} (h : s.atRest) (f : State → State) (hw : (f s).work = [])
    (hd : ∀ a, ((f s).port a).drained = false) : s.event f = .next (f s) := by
  rw [State.event_eq (State.atRest_iff.1 h).1, State.finish_quiet hw hd]

/-- An event that changes one port and sets off no work, where the port has no departure to finish after it. -/
theorem State.event_port {s : State} (h : s.atRest) (f : State → State) (a : Agent) (p : Port)
    (hf : f s = s.setPort a p) (hd : p.drained = false) : s.event f = .next (s.setPort a p) := by
  rw [← hf]
  refine State.event_quiet h f (by rw [hf]; exact (State.atRest_iff.1 h).2.1) (fun b => ?_)
  rw [hf, State.setPort_port]
  split
  · exact hd
  · exact (State.atRest_iff.1 h).2.2 b

end Sys2Proof.Machine
end

