-- ==== Sys2Proof/Laws/Claims.lean ====
section
/-! SUPPORT. The condition of a stored word by its flips; claims on a set whose words are good and where no port is
FAILED, and claims on a line whose state part is lost, answer without any edit; which agents a write fault asks, and by what a
completion judges. -/

namespace Sys2Proof.Machine

theorem Coded.cond_good {α : Type} {w : Nat} {c : Coded α w} (h : c.flips = 0) : c.cond = .good := by
  simp [Coded.cond, flipCond, h]

/-- One flipped bit is a correctable fault (R174). -/
theorem flipCond_oneFlip {k : Nat} {f : BitVec k} (h : oneFlip f) : flipCond f = .correctable := by
  obtain ⟨i, hi, rfl⟩ := h
  have ht : (1#k <<< i).toNat = 2 ^ i := by
    rw [BitVec.toNat_shiftLeft, BitVec.toNat_ofNat, Nat.shiftLeft_eq]
    have h1 : 1 < 2 ^ k := Nat.one_lt_two_pow (by omega)
    rw [Nat.mod_eq_of_lt h1, Nat.one_mul, Nat.mod_eq_of_lt (Nat.pow_lt_pow_right (by omega) hi)]
  have hne : 1#k <<< i ≠ 0 := fun e => by
    have := congrArg BitVec.toNat e
    rw [ht] at this
    simp at this
  have h2 : 2 ^ i < 2 ^ k := Nat.pow_lt_pow_right (by omega) hi
  have h3 : 0 < 2 ^ i := Nat.two_pow_pos i
  have hand : 1#k <<< i &&& (1#k <<< i - 1) = 0 := by
    apply BitVec.eq_of_toNat_eq
    have h4 : (1 : BitVec k).toNat = 1 := Nat.mod_eq_of_lt (Nat.one_lt_two_pow (by omega))
    rw [BitVec.toNat_and, BitVec.toNat_sub_of_le (by rw [BitVec.le_def, ht, h4]; exact h3), ht, h4, Nat.and_two_pow_sub_one_eq_mod]
    simp
  rw [flipCond, if_neg hne, if_pos hand]

/-- Two or more flipped bits are an uncorrectable fault (R174). -/
theorem flipCond_manyFlips {k : Nat} {f : BitVec k} (h : manyFlips f) : flipCond f = .uncorrectable := by
  obtain ⟨i, j, hij, hi, hj⟩ := h
  have hne : f ≠ 0 := fun e => by simp [e] at hi
  have hand : f &&& (f - 1) ≠ 0 := fun e => by
    have hb : (f &&& (f - 1)).toNat.testBit j = false := by rw [e]; simp
    rw [BitVec.toNat_and, Nat.testBit_and] at hb
    rw [BitVec.getLsbD, Nat.testBit_eq_decide_div_mod_eq] at hi hj
    have hpos : 1 ≤ f.toNat := by
      rcases Nat.eq_zero_or_pos f.toNat with h0 | h0
      · exact absurd (BitVec.eq_of_toNat_eq (by simpa using h0)) hne
      · exact h0
    have hk : 1 < 2 ^ k ∨ k = 0 := by
      rcases Nat.eq_zero_or_pos k with h0 | h0
      · exact .inr h0
      · exact .inl (Nat.one_lt_two_pow (by omega))
    have h4 : (1 : BitVec k).toNat = 1 := by
      rcases hk with h | h
      · exact Nat.mod_eq_of_lt h
      · subst h
        exact absurd (BitVec.eq_nil f ▸ rfl) hne
    rw [BitVec.toNat_sub_of_le (by rw [BitVec.le_def, h4]; exact hpos), h4] at hb
    have hm : f.toNat % 2 ^ j ≠ 0 := fun e0 => by
      have h5 : f.toNat = 2 ^ i * (2 ^ (j - i) * (f.toNat / 2 ^ j)) := by
        rw [← Nat.mul_assoc, ← Nat.pow_add, Nat.add_sub_cancel' (Nat.le_of_lt hij)]
        have := Nat.div_add_mod f.toNat (2 ^ j)
        omega
      rw [h5, Nat.mul_div_cancel_left _ (Nat.two_pow_pos i)] at hi
      have h6 : 2 ^ (j - i) = 2 * 2 ^ (j - i - 1) := by
        rw [← Nat.pow_succ', Nat.succ_eq_add_one, Nat.sub_add_cancel (by omega)]
      rw [h6, Nat.mul_assoc, Nat.mul_mod_right] at hi
      simp at hi
    have h7 : (f.toNat - 1) / 2 ^ j = f.toNat / 2 ^ j := by
      have h8 := Nat.div_add_mod f.toNat (2 ^ j)
      have h9 := Nat.mod_lt f.toNat (Nat.two_pow_pos j)
      refine Nat.div_eq_of_lt_le ?_ ?_
      · rw [Nat.mul_comm]; omega
      · rw [Nat.mul_comm, Nat.mul_add]; omega
    rw [Nat.testBit_eq_decide_div_mod_eq, Nat.testBit_eq_decide_div_mod_eq, h7] at hb
    simp_all
  rw [flipCond, if_neg hne, if_neg hand]

theorem State.soundSet_iff {s : State} {n : SetNo} :
    s.soundSet n ↔ (∀ w : WayNo, (s.aset n).ways[w].tag1.flips = 0 ∧ (s.aset n).ways[w].tag2.flips = 0 ∧
      (s.aset n).ways[w].state.flips = 0) ∧ (s.aset n).order.flips = 0 := by
  unfold State.soundSet Way.sound
  simp only [Bool.and_eq_true, List.all_eq_true, beq_iff_eq]
  constructor
  · rintro ⟨h1, h2⟩
    exact ⟨fun w => ⟨(h1 w (mem_ways w)).1.1, (h1 w (mem_ways w)).1.2, (h1 w (mem_ways w)).2⟩, h2⟩
  · rintro ⟨h1, h2⟩
    exact ⟨fun w _ => ⟨⟨(h1 w).1, (h1 w).2.1⟩, (h1 w).2.2⟩, h2⟩

theorem State.tagsSound_iff {s : State} {n : SetNo} :
    s.tagsSound n ↔ (∀ w : WayNo, (s.aset n).ways[w].tag1.flips = 0 ∧ (s.aset n).ways[w].tag2.flips = 0) ∧
      (s.aset n).order.flips = 0 := by
  unfold State.tagsSound
  simp only [Bool.and_eq_true, List.all_eq_true, beq_iff_eq]
  exact ⟨fun h => ⟨fun w => h.1 w (mem_ways w), h.2⟩, fun h => ⟨fun w _ => h.1 w, h.2⟩⟩

theorem State.soundSet_tagsSound {s : State} {n : SetNo} (h : s.soundSet n) : s.tagsSound n :=
  have k := State.soundSet_iff.1 h
  State.tagsSound_iff.2 ⟨fun w => ⟨(k.1 w).1, (k.1 w).2.1⟩, k.2⟩

/-- On a set with good tag copies and header, verification is that of the state parts the claim needs (R174). -/
theorem State.verifySet_tags {s : State} {n : SetNo} (h : s.tagsSound n) (e : Option EntryNo)
    (needs : State → List WayNo) : s.verifySet e n needs = (needs s).foldl (State.verifyState e n) s := by
  obtain ⟨h1, h2⟩ := State.tagsSound_iff.1 h
  have hl : s.tagLostWay n = none := by
    refine List.find?_eq_none.2 (fun w _ => ?_)
    unfold Way.tagLost
    rw [Coded.cond_good (h1 w).1]
    simp
  have ht : ways.foldl (State.verifyTags n) s = s := by
    refine foldl_fixed _ (fun w _ => ?_)
    unfold State.verifyTags Way.tagFaults
    rw [Coded.cond_good (h1 w).1, Coded.cond_good (h1 w).2]
    simp [WordCond.count]
  have ho : s.verifyOrder n = s := by
    unfold State.verifyOrder
    rw [Coded.cond_good h2]
  unfold State.verifySet
  rw [hl]
  dsimp only
  rw [ht, ho]

/-- Verification of good words does nothing (R174). -/
theorem State.verifySet_sound {s : State} {n : SetNo} (h : s.soundSet n) (e : Option EntryNo)
    (needs : State → List WayNo) : s.verifySet e n needs = s := by
  rw [State.verifySet_tags (State.soundSet_tagsSound h)]
  refine foldl_fixed _ (fun w _ => ?_)
  unfold State.verifyState
  rw [Coded.cond_good ((State.soundSet_iff.1 h).1 w).2.2]
  split
  · rfl
  · split <;> rfl

/-- A claim on a line whose state part is lost finds nothing new (R177). -/
theorem State.claimLine_lost {s : State} {l : Line} {w : WayNo} (h : s.tagsSound (setOf l)) (hw : s.lookup l = some w)
    (hl : s.isLost (setOf l) w = true) (e : Option EntryNo) : s.claimLine e l = s := by
  unfold State.claimLine
  rw [State.verifySet_tags h, hw]
  simp only [Option.toList, List.foldl_cons, List.foldl_nil]
  unfold State.verifyState
  split
  · rfl
  · rw [if_pos hl]

theorem State.lineLost_of {s : State} {l : Line} {w : WayNo} (hw : s.lookup l = some w)
    (hl : s.isLost (setOf l) w = true) : s.lineLost l = true := by
  unfold State.lineLost
  rw [hw]
  exact hl

/-- A claim of an entry on a line whose state part is lost leaves the state as it is (R171, R177). -/
theorem State.claimEntry_lost {s : State} {e : EntryNo} {w : WayNo} (h : s.tagsSound (setOf (s.entry e).line))
    (hw : s.lookup (s.entry e).line = some w) (hl : s.isLost (setOf (s.entry e).line) w = true) (a : Option Agent) :
    s.claimEntry e a = s := by
  unfold State.claimEntry
  dsimp only
  rw [State.claimLine_lost h hw hl]
  split
  · unfold State.stripFailed
    rw [if_pos (State.lineLost_of hw hl)]
  · rfl

theorem State.claimLine_sound {s : State} {l : Line} (h : s.soundSet (setOf l)) (e : Option EntryNo) :
    s.claimLine e l = s := State.verifySet_sound h _ _

theorem State.claimAll_sound {s : State} {n : SetNo} (h : s.soundSet n) (e : Option EntryNo) :
    s.claimAll e n = s := State.verifySet_sound h _ _

theorem State.claimWay_sound {s : State} {n : SetNo} (h : s.soundSet n) (w : WayNo) :
    s.claimWay n w = s := State.verifySet_sound h _ _

theorem State.claimTags_sound {s : State} {n : SetNo} (h : s.soundSet n) (e : Option EntryNo) :
    s.claimTags e n = s := State.verifySet_sound h _ _

/-- With no port FAILED no claim removes a holder (R171). -/
theorem State.stripFailed_none {s : State} (h : s.noneFailed) (l : Line) (a : Option Agent) : s.stripFailed l a = s := by
  unfold State.stripFailed
  split
  · rfl
  · have : s.failedListed l a = [] := by
      refine List.filter_eq_nil_iff.2 (fun c hc => ?_)
      have := List.all_eq_true.1 h c hc
      simp only [bne_iff_ne, ne_eq] at this
      simp [this]
    rw [this]; rfl

theorem State.calm_iff {s : State} {n : SetNo} : s.calm n ↔ s.soundSet n ∧ s.noLost n ∧ s.noneFailed := by
  simp [State.calm, and_assoc]

theorem State.noLost_iff {s : State} {n : SetNo} : s.noLost n ↔ ∀ w, s.isLost n w = false := by
  unfold State.noLost
  simp only [List.all_eq_true, Bool.not_eq_true']
  exact ⟨fun h w => h w (mem_ways w), fun h w _ => h w⟩

theorem State.lineLost_calm {s : State} {l : Line} (h : s.noLost (setOf l)) : s.lineLost l = false := by
  unfold State.lineLost
  split
  · exact State.noLost_iff.1 h _
  · rfl

/-- A claim of an entry on a calm set leaves the state as it is (R171, R174). -/
theorem State.claimEntry_calm {s : State} {e : EntryNo} (h : s.calm (setOf (s.entry e).line)) (a : Option Agent) :
    s.claimEntry e a = s := by
  obtain ⟨h1, _, h3⟩ := State.calm_iff.1 h
  unfold State.claimEntry
  dsimp only
  rw [State.claimLine_sound h1]
  split
  · exact State.stripFailed_none h3 _ _
  · rfl

/-! ### What a write fault and a completion ask (R57, R148) -/

theorem State.holdersOf_of_lineRec {s : State} {l : Line} {w : WayNo} {r : Rec} (h : s.lineRec l = some (w, r)) :
    s.holdersOf l = r.holders := by unfold State.holdersOf; rw [h]

/-- With no recall pending, every agent of the set is asked. -/
theorem Entry.unasked_eq {x : Entry} (h : x.pending = Vector.replicate 6 none) (k : AgentSet) : x.unasked k = k := by
  have p : ∀ a : Agent, (x.pending[a]).isSome = false := by intro a; simp [h]
  unfold Entry.unasked
  simp only [p]
  rfl

theorem AgentSet.has_remove (k : AgentSet) (a c : Agent) :
    AgentSet.has (AgentSet.remove k c) a = (AgentSet.has k a && decide (a ≠ c)) := by revert k a c; decide

/-- The agents asked are those of the set with no recall pending. -/
theorem Entry.has_unasked (x : Entry) (k : AgentSet) (a : Agent) :
    AgentSet.has (x.unasked k) a = (AgentSet.has k a && (x.pending[a]).isNone) := by
  have fold : ∀ (l : List Agent) (k : AgentSet),
      AgentSet.has (l.foldl (fun h b => if x.pending[b].isSome then AgentSet.remove h b else h) k) a =
        (AgentSet.has k a && (decide (a ∉ l) || (x.pending[a]).isNone)) := by
    intro l
    induction l with
    | nil => simp
    | cons c l ih =>
      intro k
      rw [List.foldl_cons, ih]
      by_cases hc : a = c
      · subst hc
        cases h : x.pending[a] <;> simp [AgentSet.has_remove]
      · split <;> simp [AgentSet.has_remove, hc]
  have e := fold agents k
  rw [show decide (a ∉ agents) = false by clear fold e; revert a; decide] at e
  exact e

/-- While a REGION criterion is in the list, the completion check is the judgement of the list. -/
theorem State.judgeLineBy_region {s : State} (h : s.hasCriterion .region = true) (l : Line) :
    s.judgeLineBy true l = s.judgeLine l := by unfold State.judgeLine; rw [h]

/-- The recall that the list calls for at an agent, the completion check calls for too. -/
theorem State.judgeAgent_covers {s : State} {r : Bool} {l : Line} {x : Bool} {y : Agent} {k : RecallKind}
    (h : s.judgeAgent r l x y = some k) : s.judgeAgent true l x y = some k := by
  cases r with
  | true => exact h
  | false =>
    unfold State.judgeAgent at h ⊢
    simp only [Bool.false_and, Bool.false_eq_true, if_false] at h
    by_cases hd : s.hasCriterion (.drain y) = true
    · simp only [hd, if_true] at h ⊢
      split <;> exact h
    · simp [hd] at h

/-- The completion check covers every criterion in the list: each recall that the list calls for is among its own (R57). -/
theorem State.judgeLine_subset (s : State) (l : Line) : ∀ p ∈ s.judgeLine l, p ∈ s.judgeLineBy true l := by
  intro p hp
  unfold State.judgeLine at hp
  unfold State.judgeLineBy at hp ⊢
  split at hp
  · unfold State.judgeBy at hp ⊢
    obtain ⟨y, hy, h⟩ := List.mem_filterMap.mp hp
    obtain ⟨k, hk, e⟩ := Option.map_eq_some_iff.mp h
    exact List.mem_filterMap.mpr ⟨y, hy, by rw [judgeAgent_covers hk]; exact congrArg some e⟩
  · exact hp

end Sys2Proof.Machine
end

