-- ==== Sys2Proof/Laws/Exec.lean ====
section
/-! SUPPORT. What each command is, over the shared operations: one equation per constructor of Instr. -/

namespace Sys2Proof.Machine

theorem exec_resetAssert (s : State) :
    exec (.resetAssert) s = .next s.powerOn := rfl

theorem exec_resetRelease (s : State) :
    exec (.resetRelease) s = .next (if s.resetPin then { s with resetPin := false }.followLinks.startWalk else s) := rfl

theorem exec_clearWalkSet (s : State) :
    exec (.clearWalkSet) s = s.event State.walkSet := rfl

theorem exec_linkUp (a : Agent) (s : State) :
    exec (.linkUp a) s = (s.recordLink a true).event (fun s => s.linkRises a) := rfl

theorem exec_linkDown (a : Agent) (s : State) :
    exec (.linkDown a) s = (s.recordLink a false).event (fun s => s.linkFalls a) := rfl

theorem exec_readShared (a : Agent) (label : Label) (line : LineField) (first : Beat) (s : State) :
    exec (.readShared a label line first) s = s.event (fun s => s.arriveRequest
      { agent := a, kind := .readShared, label := label, line := lineOfField line, first := first, data := 0, mask := 0 }) := rfl

theorem exec_readOwn (a : Agent) (label : Label) (line : LineField) (first : Beat) (s : State) :
    exec (.readOwn a label line first) s = s.event (fun s => s.arriveRequest
      { agent := a, kind := .readOwn, label := label, line := lineOfField line, first := first, data := 0, mask := 0 }) := rfl

theorem exec_upgrade (a : Agent) (label : Label) (line : LineField) (s : State) :
    exec (.upgrade a label line) s = s.event (fun s => s.arriveRequest
      { agent := a, kind := .upgrade, label := label, line := lineOfField line, first := 0, data := 0, mask := 0 }) := rfl

theorem exec_uncachedRead (a : Agent) (label : Label) (line : LineField) (first : Beat) (s : State) :
    exec (.uncachedRead a label line first) s = s.event (fun s => s.arriveRequest
      { agent := a, kind := .uncachedRead, label := label, line := lineOfField line, first := first, data := 0, mask := 0 }) := rfl

theorem exec_uncachedWrite (a : Agent) (label : Label) (line : LineField) (data : LineData) (mask : ByteMask) (s : State) :
    exec (.uncachedWrite a label line data mask) s = s.event (fun s => s.arriveRequest
      { agent := a, kind := .uncachedWrite, label := label, line := lineOfField line, first := 0, data := data, mask := mask }) := rfl

theorem exec_lockedRead (a : Agent) (label : Label) (line : LineField) (first : Beat) (s : State) :
    exec (.lockedRead a label line first) s = s.event (fun s => s.arriveRequest
      { agent := a, kind := .lockedRead, label := label, line := lineOfField line, first := first, data := 0, mask := 0 }) := rfl

theorem exec_recallAck (a : Agent) (entry : Byte) (use : UseNo) (held : Bool) (s : State) :
    exec (.recallAck a entry use held) s = s.event (fun s => s.arriveResponse a (.recallAck entry use held)) := rfl

theorem exec_recallData (a : Agent) (entry : Byte) (use : UseNo) (data : LineData) (kept : Bool) (s : State) :
    exec (.recallData a entry use data kept) s = s.event (fun s => s.arriveResponse a (.recallData entry use data kept)) := rfl

theorem exec_writeback (a : Agent) (line : LineField) (data : LineData) (s : State) :
    exec (.writeback a line data) s = s.event (fun s => s.arriveResponse a (.writeback (lineOfField line) data)) := rfl

theorem exec_drop (a : Agent) (line : LineField) (s : State) :
    exec (.drop a line) s = s.event (fun s => s.arriveResponse a (.drop (lineOfField line))) := rfl

theorem exec_unpin (a : Agent) (line : LineField) (data : Option LineData) (s : State) :
    exec (.unpin a line data) s = s.event (fun s => s.arriveResponse a (.unpin (lineOfField line) data)) := rfl

theorem exec_join (a : Agent) (s : State) :
    exec (.join a) s = s.event (fun s => s.joinPort a) := rfl

theorem exec_leave (a : Agent) (s : State) :
    exec (.leave a) s = s.event (fun s => s.leavePort a) := rfl

theorem exec_unknownMessage (a : Agent) (kind : Byte) (s : State) :
    exec (.unknownMessage a kind) s = s.event (fun s => if s.takes a then s.reportProtocol .unexpected a none none else s) := rfl

theorem exec_outputMessageSent (a : Agent) (s : State) :
    exec (.outputMessageSent a) s = s.event (fun s => s.messageSent a) := rfl

theorem exec_admissionExamine (a : Agent) (s : State) :
    exec (.admissionExamine a) s = s.event (fun s => s.admissionExamine a) := rfl

theorem exec_internalPoolGrant (s : State) :
    exec (.internalPoolGrant) s = s.event State.grantInternal := rfl

theorem exec_responseHandlerRecallReply (a : Agent) (s : State) :
    exec (.responseHandlerRecallReply a) s = s.event (fun s => s.handle a .reply) := rfl

theorem exec_responseHandlerWriteback (a : Agent) (s : State) :
    exec (.responseHandlerWriteback a) s = s.event (fun s => s.handle a .writeback) := rfl

theorem exec_responseHandlerDrop (a : Agent) (s : State) :
    exec (.responseHandlerDrop a) s = s.event (fun s => s.handle a .drop) := rfl

theorem exec_responseHandlerUnpin (a : Agent) (s : State) :
    exec (.responseHandlerUnpin a) s = s.event (fun s => s.handle a .unpin) := rfl

theorem exec_recallTimerExpiry (a : Agent) (entry : EntryNo) (use : UseNo) (s : State) :
    exec (.recallTimerExpiry a entry use) s = s.event (fun s => s.recallExpires a entry use) := rfl

theorem exec_memData (tag : Byte) (use : UseNo) (status : Byte) (data : LineData) (s : State) :
    exec (.memData tag use status data) s = s.event (fun s => s.memDataArrives tag use status data) := rfl

theorem exec_memDone (tag : Byte) (use : UseNo) (status : Byte) (s : State) :
    exec (.memDone tag use status) s = s.event (fun s => s.memDoneArrives tag use status) := rfl

theorem exec_memoryTimerExpiry (tag : MemTagNo) (s : State) :
    exec (.memoryTimerExpiry tag) s = s.event (fun s => s.memTimeout tag) := rfl

theorem exec_pinTimerExpiry (entry : EntryNo) (s : State) :
    exec (.pinTimerExpiry entry) s = s.event (fun s => s.pinExpires entry) := rfl

theorem exec_scrubIntervalExpiry (s : State) :
    exec (.scrubIntervalExpiry) s = s.event State.scrubExpires := rfl

theorem exec_sweepRead (s : State) :
    exec (.sweepRead) s = s.event State.sweepWay := rfl

theorem exec_sweepGapExpiry (s : State) :
    exec (.sweepGapExpiry) s = s.event State.gapExpires := rfl

theorem exec_frameAborted (s : State) :
    exec (.frameAborted) s = s.frame State.abortFrame := rfl

theorem exec_unknownCommand (byte : Byte) (s : State) :
    exec (.unknownCommand byte) s = s.frame (fun s =>
      match s.executing with
      | some x => s.answerBusy x
      | none => { s with answer := some (.only .badArg) }) := rfl

theorem exec_commandWhileBusy (s : State) :
    exec (.commandWhileBusy) s = s.frame (fun s =>
      match s.executing with
      | some x => s.answerBusy x
      | none => s) := rfl

theorem exec_readWord (index : Byte) (s : State) :
    exec (.readWord index) s = s.frame (fun s => s.command .readWord (fun s => s.readWord index)) := rfl

theorem exec_writeWord (index : Byte) (value : BitVec 32) (s : State) :
    exec (.writeWord index value) s = s.frame (fun s => s.command .writeWord (fun s => s.writeWord index value)) := rfl

theorem exec_writeAlertPending (value : BitVec 32) (s : State) :
    exec (.writeAlertPending value) s = s.frame (fun s => s.command .writeWord (fun s => (s.clearAlerts value, .only .ok))) := rfl

theorem exec_writeAlertEnable (value : BitVec 32) (s : State) :
    exec (.writeAlertEnable value) s = s.frame (fun s => s.command .writeWord (fun s => (s.setAlertEnable value, .only .ok))) := rfl

theorem exec_scrubEnable (on : Bool) (s : State) :
    exec (.scrubEnable on) s = s.frame (fun s => s.command .writeWord (fun s => (s.setConfig s.settings.soleReader on, .only .ok))) := rfl

theorem exec_soleReaderExclusive (on : Bool) (s : State) :
    exec (.soleReaderExclusive on) s = s.frame (fun s => s.command .writeWord (fun s => (s.setConfig on s.settings.scrubEnable, .only .ok))) := rfl

theorem exec_inspect (set : BitVec 16) (way : Byte) (s : State) :
    exec (.inspect set way) s = s.frame (fun s => s.command .inspect (fun s => s.inspect set way)) := rfl

theorem exec_regionRead (slot : Byte) (s : State) :
    exec (.regionRead slot) s = s.frame (fun s => s.command .regionRead (fun s => s.regionRead slot)) := rfl

theorem exec_regionWrite (slot : Byte) (descriptor : BitVec 64) (s : State) :
    exec (.regionWrite slot descriptor) s = s.frame (fun s => s.command .regionWrite (fun s => s.regionWrite slot descriptor)) := rfl

theorem exec_portReset (agent : Byte) (s : State) :
    exec (.portReset agent) s = s.frame (fun s => s.command .portReset (fun s => s.portReset agent)) := rfl

theorem exec_clearUnit (s : State) :
    exec (.clearUnit) s = s.frame (fun s => s.command .clearUnit (fun s => (s.clearUnit, .only .ok))) := rfl

theorem exec_inject (set : BitVec 16) (way : Byte) (part : Byte) (count : Byte) (bitA : Byte) (bitB : Byte) (s : State) :
    exec (.inject set way part count bitA bitB) s = s.frame (fun s => s.command .inject (fun s => s.inject set way part count bitA bitB)) := rfl

theorem exec_clearPoison (line : BitVec 32) (s : State) :
    exec (.clearPoison line) s = s.frame (fun s => s.command .clearPoison (fun s => s.clearPoison line)) := rfl

theorem exec_wayEnable (set : BitVec 16) (way : Byte) (s : State) :
    exec (.wayEnable set way) s = s.frame (fun s => s.command .wayEnable (fun s => s.wayEnable set way)) := rfl

theorem exec_captureRead (s : State) :
    exec (.captureRead) s = s.frame (fun s => s.command .captureRead State.captureRead) := rfl

theorem exec_unknownMemoryReply (kind : Byte) (s : State) :
    exec (.unknownMemoryReply kind) s = s.event State.countLateMem := rfl

theorem exec_commandExecutionEnd (s : State) :
    exec (.commandExecutionEnd) s = s.frame State.endExecution := rfl

end Sys2Proof.Machine
end

