-- ==== Sys2Proof/Laws/Lawful.lean ====
section
/-! SUPPORT. The laws of Safety.lean as a relation between two states, and the operations that the relation Keeps does not
cover: RESET, the clear walk, the sweep engine's criteria, time, and the maintenance commands. -/

namespace Sys2Proof.Machine

/-- Each law that one state has the other has too. -/
structure Lawful (s t : State) : Prop where
  law : s.recordsLawful → t.recordsLawful
  ports : s.portsBounded → t.portsBounded
  counters : s.countersBounded → t.countersBounded
  settings : s.settings.lawful → t.settings.lawful
  table : s.tableLawful → t.tableLawful

/-- Internal work keeps the laws. -/
theorem Keeps.lawful {b : Bool} {s t : State} (h : Keeps b s t) : Lawful s t :=
  ⟨h.law, h.ports, h.counters, fun l => by rw [h.settings]; exact l, h.table⟩

namespace Lawful

variable {s t u : State}

theorem refl (s : State) : Lawful s s := (Keeps.refl (b := false) s).lawful

theorem trans (h : Lawful s t) (k : Lawful t u) : Lawful s u :=
  ⟨fun l => k.law (h.law l), fun l => k.ports (h.ports l), fun l => k.counters (h.counters l),
    fun l => k.settings (h.settings l), fun l => k.table (h.table l)⟩

/-- Laws kept, then internal work. -/
theorem keeps {b : Bool} (h : Lawful s t) (k : Keeps b t u) : Lawful s u := h.trans k.lawful

/-- Two states that agree in everything the laws speak of. -/
theorem same (h1 : t.sets = s.sets) (h2 : t.marks = s.marks) (h3 : t.entries = s.entries)
    (h4 : s.portsBounded → t.portsBounded) (h5 : t.counters = s.counters) (h6 : t.capture = s.capture)
    (h7 : t.settings = s.settings) : Lawful s t where
  law := by
    rintro ⟨⟨l1, l2, l3, l4⟩, l5⟩
    refine ⟨⟨fun n => ?_, fun n w => ?_, by rw [h1]; exact l3, by rw [h2]; exact l4⟩, fun e r hr => ?_⟩
    · have := l1 n; rwa [State.aset, ← h1] at this
    · have := l2 n w; rwa [State.mark, State.aset, ← h1, ← h2] at this
    · exact l5 e r (by rw [State.entry, ← h3]; exact hr)
  ports := h4
  counters := by
    unfold State.countersBounded
    rw [h5, h6]
    exact fun l => l
  settings := by rw [h7]; exact fun l => l
  table := by
    unfold State.tableLawful State.pinCount State.placesHeld State.entry
    rw [h3]; exact fun l => l

/-- All ports changed. -/
theorem mapPorts (s : State) (f : Port → Port)
    (hb : ∀ (a : Agent) (p : Port), p.bounded a → (f p).bounded a) : Lawful s { s with ports := s.ports.map f } :=
  same rfl rfl rfl (fun l a => by
    have e : State.port { s with ports := s.ports.map f } a = f (s.port a) := by simp [State.port]
    rw [e]; exact hb a _ (l a)) rfl rfl rfl

/-- One port changed. -/
theorem modPort (s : State) (a : Agent) (f : Port → Port) (hb : ∀ p : Port, p.bounded a → (f p).bounded a) :
    Lawful s (s.modPort a f) :=
  same rfl rfl rfl (fun l c => by
    rw [State.modPort_port]; split
    · next e => subst e; exact hb _ (l _)
    · exact l c) rfl rfl rfl

/-- Folds of functions that keep the laws keep them. -/
theorem foldl {α : Type} {f : State → α → State} (hf : ∀ t x, Lawful t (f t x)) (l : List α) (t : State) :
    Lawful t (l.foldl f t) := by
  induction l generalizing t with
  | nil => exact refl _
  | cons x l ih => exact (hf t x).trans (ih _)

/-! ### The sweep engine and the internal-pool arbiter (R67, R164, R166) -/

theorem goOffline (s : State) (a : Agent) : Lawful s (s.goOffline a) := modPort s a _ (fun _ l => l)

theorem reportStrip (s : State) (c : Criterion) : Lawful s (s.reportStrip c) := by
  unfold State.reportStrip
  split
  · split
    · exact goOffline _ _
    · exact refl _
  · exact refl _
  · exact refl _

theorem finishSet (s : State) : Lawful s s.finishSet := by
  unfold State.finishSet
  dsimp only
  have k := fun w l => ((Keeps.refl (b := false) s).sweep w).lawful.trans (foldl (f := State.reportStrip) reportStrip l _)
  split
  · exact (k _ _).keeps (Keeps.sweepIdle (Keeps.refl (b := false) _))
  · exact (k _ _).keeps (Keeps.enterGap (Keeps.refl (b := false) _) _)

theorem sweepNext (s : State) : Lawful s s.sweepNext := by
  unfold State.sweepNext
  split
  · exact finishSet s
  · exact ((Keeps.refl (b := false) s).sweep _).lawful

theorem sweepIdleLine (s : State) (l : Line) : Lawful s (s.sweepIdleLine l) := by
  have k := ((Keeps.refl (b := false) s).stripFailed l none)
  unfold State.sweepIdleLine
  dsimp only
  split
  · exact k.lawful.trans (sweepNext _)
  · exact (k.sweep _).lawful

theorem sweepWay (s : State) : Lawful s s.sweepWay := by
  have k := fun n => (Keeps.refl (b := false) s).claimAll none n
  unfold State.sweepWay
  dsimp only
  split
  · exact refl s
  · split
    · exact (k _).lawful
    · have k2 := fun n m => (k n).claimRebuilds m
      split
      · exact (k2 _ _).lawful.trans (sweepNext _)
      · split
        · exact ((k2 _ _).setRecheck _).lawful.trans (sweepNext _)
        · split
          · exact (k2 _ _).lawful.trans (sweepNext _)
          · exact (k2 _ _).lawful.trans (sweepIdleLine _ _)

theorem grantSweep (s : State) (e : EntryNo) (c : SweepClaim) : Lawful s (s.grantSweep e c) := by
  have k := (Keeps.refl (b := false) s).sweep { s.sweep with claim := none }
  unfold State.grantSweep
  dsimp only
  split
  · exact (k.setRecheck _).lawful.trans (sweepNext _)
  · next hb =>
    have m := (k.setInternal e .sweepRecall c.line none none rfl hb).start e
    split
    · exact (m.push _).lawful.trans (sweepNext _)
    · exact m.lawful

theorem grantInternal (s : State) : Lawful s s.grantInternal := by
  have k := Keeps.refl (b := false) s
  unfold State.grantInternal
  split
  · exact refl s
  · split
    · exact refl s
    · split
      · exact (k.grantRebuild _ _ _).lawful
      · split
        · exact (k.grantRetire _ _ _ _).lawful
        · split
          · exact grantSweep _ _ _
          · exact refl s

theorem gapExpires (s : State) : Lawful s s.gapExpires := by
  unfold State.gapExpires
  split
  · exact ((Keeps.refl (b := false) s).sweep _).lawful
  · exact refl s

/-! ### Links, RESET, the clear walk and time (R17, R20, R23, R24) -/

theorem recordLink (s : State) (a : Agent) (up : Bool) : Lawful s (s.recordLink a up) :=
  same rfl rfl rfl (fun l => l) rfl rfl rfl

theorem linkRises (s : State) (a : Agent) : Lawful s (s.linkRises a) := modPort s a _ (fun _ l => l)

theorem linkFalls (s : State) (a : Agent) : Lawful s (s.linkFalls a) := by
  have k : Lawful s (s.modPort a (fun p => { p with link := false })) := modPort s a _ (fun _ l => l)
  unfold State.linkFalls
  dsimp only
  split
  · exact k
  · split
    · exact k.trans (modPort _ a _ (fun _ ⟨h1, h2, _, h4⟩ => ⟨h1, h2, by simp, h4⟩))
    · exact k.keeps ((Keeps.refl (b := false) _).failPort _ _)
    · exact k.keeps ((Keeps.refl (b := false) _).failPort _ _)
    · exact k

/-- A state whose laws stand on their own. -/
theorem stands (h1 : t.recordsLawful) (h2 : t.portsBounded) (h3 : t.countersBounded) (h4 : t.settings.lawful)
    (h5 : t.tableLawful) : Lawful s t := ⟨fun _ => h1, fun _ => h2, fun _ => h3, fun _ => h4, fun _ => h5⟩

/-- The record array with nothing listed is lawful. -/
theorem arrayLawful_empty (h1 : t.sets = []) (h2 : t.marks = []) : t.arrayLawful := by
  refine ⟨fun n => ?_, fun n w => ?_, by rw [h1]; rfl, by rw [h2]; rfl⟩
  · rw [State.aset, h1]; exact ASet.lawful_cleared
  · rw [State.mark, h2]; simp [storeGet, Marks.clear]

theorem settings_reset : Settings.reset.lawful := by
  unfold Settings.lawful Settings.timersInRange Settings.regionsSound
  decide +kernel

theorem powerOn (s : State) : Lawful s s.powerOn := by
  refine stands ⟨arrayLawful_empty rfl rfl, fun e r hr => ?_⟩ (fun a => ?_) ?_ settings_reset ?_
  · have : (s.powerOn.entry e).copy = none := by simp [State.entry, State.powerOn, State.reset, Entry.free]
    rw [this] at hr
    exact absurd hr (by simp)
  · have : s.powerOn.port a = Port.reset := by simp [State.port, State.powerOn, State.reset]
    rw [this]
    simp [Port.bounded, Port.reset]
  · simp [State.countersBounded, State.powerOn, State.reset, Counters.reset]
  · exact State.tableLawful_allFree (fun e => by simp [State.entry, State.powerOn, State.reset, Entry.free])

theorem followLinks (s : State) : Lawful s s.followLinks :=
  same rfl rfl rfl (fun l a => by
    have := l a
    simpa [State.port, State.followLinks, Port.bounded] using this) rfl rfl rfl

theorem startWalk (s : State) : Lawful s s.startWalk :=
  (mapPorts s (fun p => { p with holding := 0 }) (fun _ _ l => l)).trans
    (same rfl rfl rfl (fun l => l) rfl rfl rfl)

theorem walkMark (n : SetNo) (s : State) (w : WayNo) : Lawful s (State.walkMark n s w) :=
  ((Keeps.refl (b := false) s).putMark_same n w { s.mark n w with lost := false, due := false } rfl).lawful

theorem walkSet (s : State) : Lawful s s.walkSet := by
  have k : Lawful s (ways.foldl (State.walkMark s.walk) (s.putSet s.walk ASet.cleared)) := by
    refine Lawful.trans ?_ (foldl (walkMark s.walk) _ _)
    refine ((Keeps.refl (b := false) s).putSet _ _ (fun l => ?_)).lawful
    refine State.arrayLawful_putSet l.1 ASet.lawful_cleared (fun w _ => ?_)
    simp [ASet.cleared, Way.cleared]
  have k2 : Lawful s { ways.foldl (State.walkMark s.walk) (s.putSet s.walk ASet.cleared) with walk := nextSet s.walk } :=
    k.trans (same rfl rfl rfl (fun l => l) rfl rfl rfl)
  unfold State.walkSet
  dsimp only
  split
  · exact refl s
  · split
    · refine k2.keeps (Keeps.refreshScrub (b := false) (Keeps.raise ?_ _))
      exact (Keeps.refl _).other .running _ _ _ _ _ _ _ _ _ _
    · exact k2

theorem tick (s : State) : Lawful s s.tick := by
  unfold State.tick
  split
  · exact refl s
  · refine Lawful.trans (u := _) (((Keeps.refl (b := false) s).mapEntries (fun x => { x with
        pinTimer := tickTimer x.pinTimer }) (fun _ _ h => h) (fun l => State.tableLawful_map l (fun _ =>
        ⟨rfl, rfl, rfl, rfl, rfl, rfl⟩))).lawful) (same rfl rfl rfl (fun l a => ?_) rfl rfl rfl)
    have := l a
    simpa [State.port, Port.bounded] using this

/-! ### Maintenance (R16, R21, R30, R152 to R154, R184, R185, R191, R193) -/

/-- The settings replaced by lawful ones. -/
theorem set (s : State) (f : Settings → Settings) (hf : s.settings.lawful → (f s.settings).lawful) :
    Lawful s (s.set f) := ⟨fun l => l, fun l => l, fun l => l, hf, fun l => l⟩

/-- Settings changed in what no law speaks of. -/
theorem set_free (s : State) (sole scrub : Bool) (i : BitVec 16) (a : BitVec 12) :
    Lawful s (s.set (fun t => { t with soleReader := sole, scrubEnable := scrub, scrubInterval := i, alertEnable := a })) :=
  set s _ (fun l => l)

theorem setConfig (s : State) (a b : Bool) : Lawful s (s.setConfig a b) :=
  (set_free s a b _ _).keeps (Keeps.refreshScrub (b := false) (Keeps.refl _))

theorem setInterval (s : State) (v : BitVec 32) : Lawful s (s.setInterval v).1 := by
  unfold State.setInterval
  split
  · exact (set_free s _ _ _ _).keeps (Keeps.refreshScrub (b := false) (Keeps.refl _))
  · exact refl s

/-- A value up to 65,535 keeps its number in 16 bits. -/
theorem toNat_16 {v : BitVec 32} (h : v.toNat ≤ 65535) : (v.setWidth 16).toNat = v.toNat := by
  rw [BitVec.toNat_setWidth]; omega

theorem setTimer (s : State) (v : BitVec 32) (low high : Nat) (f : Settings → BitVec 16 → Settings) (hh : high ≤ 65535)
    (hf : ∀ x : BitVec 16, low ≤ x.toNat → x.toNat ≤ high → s.settings.lawful → (f s.settings x).lawful) :
    Lawful s (s.setTimer v low high f).1 := by
  unfold State.setTimer
  split
  · next h =>
    simp only [Bool.and_eq_true, decide_eq_true_eq] at h
    have e := toNat_16 (v := v) (by omega)
    exact set s (fun t => f t (v.setWidth 16)) (hf (v.setWidth 16) (by omega) (by omega))
  · exact refl s

theorem writeWord (s : State) (i : Byte) (v : BitVec 32) : Lawful s (s.writeWord i v).1 := by
  unfold State.writeWord
  split
  · exact same rfl rfl rfl (fun l => l) rfl rfl rfl
  · exact set s (fun t => { t with alertEnable := v.setWidth 12 }) (fun l => l)
  · exact setConfig _ _ _
  · exact setTimer _ _ _ _ _ (by decide) (fun x h _ l => ⟨⟨h, l.1.2⟩, l.2⟩)
  · exact setTimer _ _ _ _ _ (by decide) (fun x h _ l => ⟨⟨l.1.1, h, l.1.2.2⟩, l.2⟩)
  · exact setTimer _ _ _ _ _ (by decide) (fun x h _ l => ⟨⟨l.1.1, l.1.2.1, h, l.1.2.2.2⟩, l.2⟩)
  · exact setInterval _ _
  · exact setTimer _ _ _ _ _ (by decide) (fun x _ h l => ⟨⟨l.1.1, l.1.2.1, l.1.2.2.1, h, l.1.2.2.2.2⟩, l.2⟩)
  · exact setTimer _ _ _ _ _ (by decide)
      (fun x h _ l => ⟨⟨l.1.1, l.1.2.1, l.1.2.2.1, l.1.2.2.2.1, h⟩, l.2⟩)
  · exact refl s

theorem mem_slots (g : SlotNo) : g ∈ slots := by revert g; decide

theorem overlaps_comm (r q : Region) : r.overlaps q = q.overlaps r := by
  unfold Region.overlaps; rw [Bool.and_comm]

theorem takeRegion (s : State) (g : SlotNo) (r : Region) (hr : r.sound) (ho : s.overlapsOther g r = false) :
    Lawful s (s.takeRegion g r) := by
  have k : Lawful s (s.set (fun t => { t with regions := t.regions.set g r })) := by
    refine set s _ (fun l => ⟨l.1, fun h => ?_, fun h i hi eh ei => ?_⟩)
    · have := l.2.1 h
      simp only [Fin.getElem_fin, Vector.getElem_set] at this ⊢
      split
      · exact hr
      · exact this
    · have hov : ∀ j : SlotNo, j ≠ g → r.enabled = true → s.settings.regions[j].enabled = true →
          r.overlaps s.settings.regions[j] = false := by
        intro j hj er ej
        have := ho
        simp only [State.overlapsOther, er, Bool.true_and, List.any_eq_false, Bool.and_eq_true, bne_iff_ne, ne_eq,
          not_and, Bool.not_eq_true] at this
        exact this j (mem_slots j) ⟨hj, ej⟩
      have lo := l.2.2 h i hi
      simp only [Fin.getElem_fin, Vector.getElem_set] at eh ei lo hov ⊢
      by_cases e1 : g.val = h.val
      · have e2 : g.val ≠ i.val := fun e => hi (Fin.ext (e1.symm.trans e))
        rw [if_pos e1] at eh ⊢
        rw [if_neg e2] at ei ⊢
        exact hov i (fun e => e2 (by rw [e])) eh ei
      · rw [if_neg e1] at eh ⊢
        by_cases e2 : g.val = i.val
        · rw [if_pos e2] at ei ⊢
          rw [overlaps_comm]
          exact hov h (fun e => e1 (by rw [e])) ei eh
        · rw [if_neg e2] at ei ⊢
          exact lo eh ei
  unfold State.takeRegion
  dsimp only
  split
  · refine k.keeps (Keeps.sweepJoin (b := false) ((Keeps.refl _).mapEntries _ (fun x r hr => ?_) (fun l => ?_)) _)
    · split at hr <;> exact hr
    · exact State.tableLawful_map l (fun x => by split <;> exact ⟨rfl, rfl, rfl, rfl, rfl, rfl⟩)
  · exact k

theorem regionWrite (s : State) (slot : Byte) (d : BitVec 64) : Lawful s (s.regionWrite slot d).1 := by
  unfold State.regionWrite
  dsimp only
  split
  · exact refl s
  · split
    · exact refl s
    · split
      · exact refl s
      · next h1 h2 => exact takeRegion s _ _ (by simpa using h1) (by simpa using h2)

/-- A command that the unit state refuses, or its effect. -/
theorem inRunning (s : State) (f : State → State × Answer) (hf : Lawful s (f s).1) : Lawful s (s.inRunning f).1 := by
  unfold State.inRunning
  split
  · exact hf
  · exact refl s

theorem resetPort (s : State) (a : Agent) : Lawful s (s.resetPort a) := by
  have k := fun r => ((Keeps.refl (b := false) s).failPort a r).lawful
  unfold State.resetPort
  split
  · exact modPort s a _ (fun _ ⟨h1, h2, _, h4⟩ => ⟨h1, h2, by simp, h4⟩)
  · exact (k _).trans (modPort _ a _ (fun _ l => l))
  · exact (k _).trans (modPort _ a _ (fun _ l => l))
  · split
    · exact modPort s a _ (fun _ l => l)
    · exact goOffline s a

theorem portReset (s : State) (b : Byte) : Lawful s (s.portReset b).1 := by
  unfold State.portReset
  split
  · exact inRunning s _ (resetPort s _)
  · exact refl s

theorem clearUnit (s : State) : Lawful s s.clearUnit := by
  have k := Keeps.dropAllWork (b := false) (Keeps.refl s)
  unfold State.clearUnit
  refine (k.lawful.trans ?_).trans (startWalk _)
  refine (mapPorts s.dropAllWork _ (fun a p l => ?_)).trans (same rfl rfl rfl (fun l => l) rfl rfl rfl)
  split
  · exact Keeps.close_bounded p a
  · exact l

theorem flipPart (s : State) (n : SetNo) (w : WayNo) (p : InjectPart) (l : List Nat) : Lawful s (s.flipPart n w p l) := by
  have k := Keeps.refl (b := false) s
  unfold State.flipPart
  split
  · exact (k.modWay n w _ (fun e => State.arrayLawful_modWay e.1 rfl ((e.1.1 n).1 w))).lawful
  · exact (k.modWay n w _ (fun e => State.arrayLawful_modWay e.1 rfl ((e.1.1 n).1 w))).lawful
  · exact (k.modWay n w _ (fun e => State.arrayLawful_modWay e.1 rfl ((e.1.1 n).1 w))).lawful
  · exact (k.putSet n { s.aset n with order := (s.aset n).order.flip l }
      (fun e => State.arrayLawful_putSet e.1 (e.1.1 n) (fun w hw => e.1.2.1 n w hw))).lawful

theorem inject (s : State) (set : BitVec 16) (way part count bitA bitB : Byte) :
    Lawful s (s.inject set way part count bitA bitB).1 := by
  unfold State.inject
  split
  · split
    · exact inRunning s _ ((flipPart s _ _ _ _).trans (setConfig _ _ _))
    · exact refl s
  · exact refl s

theorem clearPoison (s : State) (line : BitVec 32) : Lawful s (s.clearPoison line).1 := by
  have k := fun l => Keeps.claimLine (b := false) (Keeps.refl s) none l
  unfold State.clearPoison
  split
  · exact refl s
  · refine inRunning s _ ?_
    unfold State.clearLine
    dsimp only
    split
    · exact (k _).lawful
    · split
      · exact (k _).lawful
      · unfold State.clearIdlePoison
        split
        · exact (k _).lawful
        · split
          · exact ((k _).claimRebuild _ _ _).lawful
          · split
            · exact ((k _).freeRec _ _ _).lawful
            · exact (k _).lawful

theorem clearMarks (s : State) (n : SetNo) (w : WayNo) : Lawful s (s.clearMarks n w) := by
  unfold State.clearMarks
  dsimp only
  split
  · exact (((Keeps.refl (b := false) s).putMark n w _
      (fun l => State.arrayLawful_putMark l.1 (fun h => by simp at h))).push _).lawful
  · exact refl s

theorem wayEnable (s : State) (set : BitVec 16) (way : Byte) : Lawful s (s.wayEnable set way).1 := by
  have k := fun n => Keeps.claimTags (b := false) (Keeps.refl s) none n
  unfold State.wayEnable
  split
  · refine inRunning s _ ?_
    unfold State.enableWay
    dsimp only
    split
    · exact (k _).lawful
    · split
      · exact (k _).lawful
      · exact (k _).lawful.trans (clearMarks _ _ _)
  · exact refl s

theorem inspect (s : State) (set : BitVec 16) (way : Byte) : Lawful s (s.inspect set way).1 := by
  have k := fun n w => Keeps.claimWay (b := false) (Keeps.refl s) n w
  unfold State.inspect
  split
  · refine inRunning s _ ?_
    unfold State.inspectWay
    dsimp only
    split
    · exact (k _ _).lawful
    · split
      · split
        · dsimp only
          split
          · exact (k _ _).lawful
          · exact ((k _ _).claimRebuild _ _ _).lawful
        · exact (k _ _).lawful
      · exact (k _ _).lawful
  · exact refl s

theorem regionRead (s : State) (slot : Byte) : Lawful s (s.regionRead slot).1 := by
  unfold State.regionRead
  split <;> exact refl s

theorem captureRead (s : State) : Lawful s s.captureRead.1 where
  law := fun l => l
  ports := fun l => l
  counters := fun ⟨c1, c2, _, c4, c5, c6, c7, _⟩ => ⟨c1, c2, Nat.zero_le _, c4, c5, c6, c7, fun _ => rfl⟩
  settings := fun l => l
  table := fun l => l

/-- A complete command: BUSY, or its effect, its internal work, and its execution. -/
theorem command (s : State) (k : MaintCmd) (f : State → State × Answer) (hf : Lawful s (f s).1) :
    Lawful s (s.command k f) := by
  unfold State.command
  split
  · exact same rfl rfl rfl (fun l => l) rfl rfl rfl
  · refine (hf.keeps (Keeps.finish (Keeps.refl _))).trans ?_
    generalize (f s).1.finish = u
    exact same rfl rfl rfl (fun l => l) rfl rfl rfl

/-- A frame that is taken. -/
theorem frame (s t : State) (f : State → State) (hf : Lawful s (f s)) (h : s.frame f = .next t) : Lawful s t := by
  unfold State.frame at h
  injection h with h
  subst h
  split
  · exact refl s
  · exact hf

/-- An event that is taken, with its internal work. -/
theorem event (s t : State) (f : State → State) (hf : Lawful s (f s)) (h : s.event f = .next t) : Lawful s t := by
  unfold State.event at h
  injection h with h
  subst h
  split
  · exact refl s
  · exact hf.keeps (Keeps.finish (Keeps.refl _))

end Lawful

end Sys2Proof.Machine
end

