-- ==== Sys2Proof/WellFormed.lean ====
section
/-! DEFINITION. Which commands are well formed: the three rows for unknown codes carry a code that is indeed unknown. -/

namespace Sys2Proof

/-- The inbound kind codes of spec 12 R194. -/
def inboundKinds : List Byte :=
  [0x01, 0x02, 0x03, 0x04, 0x05, 0x06, 0x11, 0x12, 0x13, 0x14, 0x15, 0x21, 0x22]

/-- The command bytes of spec 12 R189. -/
def commandBytes : List Byte :=
  [0x01, 0x02, 0x10, 0x20, 0x21, 0x30, 0x31, 0x40, 0x41, 0x42, 0x50]

/-- The kind bytes of memory replies, spec 12 R194. -/
def memoryReplyKinds : List Byte := [0x81, 0x82]

/-- A command is well formed when its code is of the sort its row says (R25, R188, R195). Every other operand is
taken at every value its field can carry: what a value out of range does is part of its meaning. -/
def Instr.wellFormed (c : Instr) : Bool :=
  match c with
  | .unknownMessage _ kind => !inboundKinds.contains kind
  | .unknownCommand byte => !commandBytes.contains byte
  | .unknownMemoryReply kind => !memoryReplyKinds.contains kind
  | .resetAssert => true
  | .resetRelease => true
  | .clearWalkSet => true
  | .linkUp _ => true
  | .linkDown _ => true
  | .readShared _ _ _ _ => true
  | .readOwn _ _ _ _ => true
  | .upgrade _ _ _ => true
  | .uncachedRead _ _ _ _ => true
  | .uncachedWrite _ _ _ _ _ => true
  | .lockedRead _ _ _ _ => true
  | .recallAck _ _ _ _ => true
  | .recallData _ _ _ _ _ => true
  | .writeback _ _ _ => true
  | .drop _ _ => true
  | .unpin _ _ _ => true
  | .join _ => true
  | .leave _ => true
  | .outputMessageSent _ => true
  | .admissionExamine _ => true
  | .internalPoolGrant => true
  | .responseHandlerRecallReply _ => true
  | .responseHandlerWriteback _ => true
  | .responseHandlerDrop _ => true
  | .responseHandlerUnpin _ => true
  | .recallTimerExpiry _ _ _ => true
  | .memData _ _ _ _ => true
  | .memDone _ _ _ => true
  | .memoryTimerExpiry _ => true
  | .pinTimerExpiry _ => true
  | .scrubIntervalExpiry => true
  | .sweepRead => true
  | .sweepGapExpiry => true
  | .frameAborted => true
  | .commandWhileBusy => true
  | .readWord _ => true
  | .writeWord _ _ => true
  | .writeAlertPending _ => true
  | .writeAlertEnable _ => true
  | .scrubEnable _ => true
  | .soleReaderExclusive _ => true
  | .inspect _ _ => true
  | .regionRead _ => true
  | .regionWrite _ _ => true
  | .portReset _ => true
  | .clearUnit => true
  | .inject _ _ _ _ _ _ => true
  | .clearPoison _ => true
  | .wayEnable _ _ => true
  | .captureRead => true
  | .commandExecutionEnd => true

end Sys2Proof
end

