-- ==== Sys2Proof/Tests/Slice0.lean ====
section
/-! SUPPORT. Tests: the codes WellFormed refuses, single steps on small states, and for every statement with hypotheses a
state and operands that meet them together. -/

namespace Sys2Proof.Tests

set_option Elab.async false

open Machine

/-! ### States -/

/-- RESET released, the unit RUNNING, every port ONLINE with its link up, everything else as after reset. -/
def ready : State :=
  { State.reset with
    resetPin := false, unitState := .running
    ports := Vector.replicate 6 { Port.reset with link := true, state := .online } }

/-- The same with one slot enabled over the whole window, all rights to all agents, cacheable. -/
def opened : State :=
  { ready with settings := { ready.settings with regions := (ready.settings.regions.set 0
      { enabled := true, base := 0, size := 65536, readSet := 0x3F, writeSet := 0x3F, cacheable := true }) } }

/-- A set with one way in use. -/
def oneWay (w : WayNo) (t : RecTag) (r : Rec) : ASet :=
  { ways := ASet.cleared.ways.set w { tag1 := ⟨some t, 0⟩, tag2 := ⟨some t, 0⟩, state := ⟨r, 0⟩ }
    order := ⟨[w], 0⟩ }

/-- A state whose only record is this one. -/
def holding (s : State) (l : Line) (w : WayNo) (r : Rec) : State :=
  { s with sets := [((setOf l).toNat, oneWay w (tagOf l) r)] }

/-- A response queue with one message. -/
def arrived (s : State) (a : Agent) (m : Resp) : State :=
  s.modPort a (fun p => { p with responses := [{ msg := m, held := false, waits := false }] })

/-- A request queue with one request. -/
def asked (s : State) (q : Request) : State :=
  s.modPort q.agent (fun p => { p with requests := [q], labels := [q.label] })

/-- A tag with an issued operation. -/
def issued (s : State) (i : MemTagNo) (c : MemClaim) : State :=
  s.setTag i { use := 7, op := some { claim := c, issued := true, left := 3 } }

/-- SHARED by a set of agents. -/
def shared (h : AgentSet) : Rec := { state := .shared, holders := h, pin := none }

/-- EXCLUSIVE held by an agent, with a pin or without. -/
def exclusive (a : Agent) (p : Option Agent) : Rec := { state := .exclusive, holders := AgentSet.only a, pin := p }

theorem lawful_empty {s : State} (h1 : s.sets = []) (h2 : s.marks = []) : s.arrayLawful := by
  refine ⟨fun n => ?_, fun n w => ?_, ?_, ?_⟩
  · simp only [State.aset, h1, storeGet]; exact ASet.lawful_cleared
  · simp [State.mark, h2, storeGet, Marks.clear]
  · rw [h1]; rfl
  · rw [h2]; rfl

theorem lawful_copies {s : State} (h : ∀ e, (s.entry e).copy.all Rec.lawful) : s.copiesLawful := by
  intro e r hr
  have := h e
  rw [hr] at this
  exact this

theorem oneWay_lawful (w : WayNo) (t : RecTag) (r : Rec) (h : r.lawful) : (oneWay w t r).lawful := by
  refine ASet.lawful_install ASet.lawful_cleared w _ t rfl rfl h (fun v _ => ?_) _ ?_
  · simp [ASet.cleared, Way.cleared]
  · simp [ASet.cleared]

/-- A state with no record is lawful. -/
theorem lawful_none {s : State} (h1 : s.sets = []) (h2 : s.marks = []) (h3 : ∀ e, (s.entry e).copy.all Rec.lawful) :
    s.recordsLawful := ⟨lawful_empty h1 h2, lawful_copies h3⟩

/-- A state with one set listed is lawful. -/
theorem lawful_set {s : State} (n : SetNo) (x : ASet) (hx : x.lawful) (h : x ≠ ASet.cleared) (h1 : s.sets = [(n.toNat, x)])
    (h2 : s.marks = []) (h3 : ∀ e, (s.entry e).copy.all Rec.lawful) : s.recordsLawful := by
  refine ⟨?_, lawful_copies h3⟩
  have e : s = State.putSet { s with sets := [] } n x := by
    rw [State.putSet]
    simp only [storePut, if_neg h]
    rw [← h1]
  rw [e]
  refine State.arrayLawful_putSet (lawful_empty (s := { s with sets := [] }) rfl h2) hx (fun v hv => ?_)
  simp [State.mark, h2, storeGet, Marks.clear] at hv

/-- A state with one record is lawful. -/
theorem lawful_one {s : State} (l : Line) (w : WayNo) (r : Rec) (hr : r.lawful)
    (h1 : s.sets = [((setOf l).toNat, oneWay w (tagOf l) r)]) (h2 : s.marks = [])
    (h3 : ∀ e, (s.entry e).copy.all Rec.lawful) : s.recordsLawful := by
  refine lawful_set _ (oneWay w (tagOf l) r) (oneWay_lawful w _ r hr) (fun e => ?_) h1 h2 h3
  exact absurd (congrArg (fun x => x.order.value) e) (by simp [oneWay, ASet.cleared])

theorem copies_setEntry {s : State} {e : EntryNo} {x : Entry} (h : ∀ f, (s.entry f).copy.all Rec.lawful)
    (hx : x.copy.all Rec.lawful) (f : EntryNo) : ((s.setEntry e x).entry f).copy.all Rec.lawful := by
  by_cases he : f = e
  · subst he; rw [State.setEntry_entry_same]; exact hx
  · rw [State.setEntry_entry_ne s x (Ne.symm he)]; exact h f

/-- A lawful state with the marks of one way written, its disable mark clear. -/
theorem lawful_mark {s u : State} (h : u.recordsLawful) (n : SetNo) (w : WayNo) (m : Marks) (hd : m.disable = false)
    (h1 : s.sets = u.sets) (h2 : s.marks = (u.putMark n w m).marks) (h3 : ∀ e, (s.entry e).copy.all Rec.lawful) :
    s.recordsLawful := by
  refine ⟨?_, lawful_copies h3⟩
  have k := State.arrayLawful_putMark h.1 (n := n) (w := w) (m := m) (by simp [hd])
  unfold State.arrayLawful State.aset State.mark at k ⊢
  simp only [h1, h2]
  exact k

/-- A set whose eight ways are in use with this state part, of lines other than 0x12345. -/
def full (r : Rec) : ASet :=
  { ways := Vector.ofFn (fun w : WayNo => { tag1 := ⟨some (BitVec.ofNat 15 w.val), 0⟩
                                            tag2 := ⟨some (BitVec.ofNat 15 w.val), 0⟩, state := ⟨r, 0⟩ })
    order := ⟨[7, 6, 5, 4, 3, 2, 1, 0], 0⟩ }

/-- The set of line 0x12345 filled so. -/
def filled (s : State) (r : Rec) : State := { s with sets := [((setOf 0x12345).toNat, full r)] }

/-! ### WellFormed refuses the known codes, and takes unknown ones -/

theorem test_wellFormed_unknownMessage :
    (Instr.unknownMessage 0 0x01).wellFormed = false ∧ (Instr.unknownMessage 0 0x07).wellFormed = true := by decide

theorem test_wellFormed_unknownCommand :
    (Instr.unknownCommand 0x50).wellFormed = false ∧ (Instr.unknownCommand 0x03).wellFormed = true := by decide

theorem test_wellFormed_unknownMemoryReply :
    (Instr.unknownMemoryReply 0x81).wellFormed = false ∧ (Instr.unknownMemoryReply 0x80).wellFormed = true := by decide

/-! ### Single steps -/

theorem test_decodeTableWord_spells_nothing : decodeTableWord 8 1 = none := by decide

theorem test_step_takes_the_front :
    step { ready with pending := [.frameAborted, .clearUnit] } = .next { ready with pending := [.clearUnit] } := rfl

/-- Spec 11 section 11.11: line 0x3A0F2 is in set 0x86 with tag 116. -/
theorem test_line_of_the_rebuild_example : setOf 0x3A0F2 = 0x86 ∧ tagOf 0x3A0F2 = 116 := by decide

theorem test_readShared_misses_and_reads_memory :
    (match exec (.admissionExamine 2) (asked opened (plainRequest 2 .readShared 5 0x3A0F2 3)) with
     | .next t => t.memSent == [.read 0 1 0x3A0F2] && (t.entry 0).phase == .readingMemory && t.position == 2
     | _ => false) = true := by decide +kernel

theorem test_sole_reader_is_granted_exclusive :
    (match exec (.admissionExamine 2) (asked { opened with settings := { opened.settings with soleReader := true } }
       (plainRequest 2 .readShared 5 0x3A0F2 3)) with
     | .next t => (t.entry 0).sole
     | _ => false) = true := by decide +kernel

theorem test_request_bytes :
    agentCommand 1 [0x02, 0x1D, 0, 0, 0x00, 0x03, 0xA0, 0xF2] = some (.readOwn 1 5 0x3A0F2 3) := by decide +kernel

theorem test_refuse_bytes :
    (OutMsg.refuse 5 0x3A0F2 .poisoned).bytes = [0x46, 0x05, 0x04, 0, 0x00, 0x03, 0xA0, 0xF2] := by decide +kernel

theorem test_frame_bytes : frameCommand [0x10, 0x00, 0x86, 0x05, 0xFF] = .inspect 0x86 5 := by decide +kernel

theorem test_frame_cut_short : frameCommand [0x10, 0x00, 0x86] = .frameAborted := by decide +kernel

/-! ### Hypotheses that can be met: the queue, RESET, links -/

theorem test_meets_StepRunsTheFrontCommand : ∃ (c : Instr) (rest : List Instr) (s : State), s.pending = c :: rest :=
  ⟨.clearUnit, [], { State.reset with pending := [.clearUnit] }, rfl⟩

theorem test_meets_EmptyQueueIsOneMicrosecond :
    (∃ s : State, s.pending = [] ∧ s.resetPin = true) ∧ (∃ s : State, s.pending = [] ∧ s.resetPin = false) :=
  ⟨⟨State.reset, rfl, rfl⟩, ⟨ready, rfl, rfl⟩⟩

theorem test_meets_ClearWalkRunsAfterReset_release : ∃ s : State, s.resetPin = true := ⟨State.reset, rfl⟩

theorem test_meets_ClearWalkRunsAfterReset_walk :
    (∃ s : State, s.atRest ∧ s.unitState = .initializing ∧ s.arrayLawful ∧ s.walk = 2047) ∧
    (∃ s : State, s.atRest ∧ s.unitState = .initializing ∧ s.arrayLawful ∧ s.walk ≠ 2047) :=
  ⟨⟨{ ready with unitState := .initializing, walk := 2047 }, by decide +kernel, rfl, lawful_empty rfl rfl, rfl⟩,
   ⟨{ ready with unitState := .initializing }, by decide +kernel, rfl, lawful_empty rfl rfl, by decide⟩⟩

theorem test_meets_LinkChanges : ∃ (a : Agent) (s u v : State),
    (s.atRest ∧ s.running = false) ∧ (u.atRest ∧ (u.port a).state = .failed) ∧
    (v.atRest ∧ v.running = true ∧ (v.port a).state = .offline) :=
  ⟨0, { ready with unitState := .lost }, ready.modPort 0 (fun p => { p with state := .failed }),
   ready.modPort 0 (fun p => { p with state := .offline }), by decide +kernel⟩

theorem test_meets_AgentFailureFailsThePort :
    (∃ (a : Agent) (s : State), s.resetPin = false ∧ s.running = true ∧ (s.port a).state = .online) ∧
    (∃ (a : Agent) (e : EntryNo) (u : UseNo) (s : State), s.resetPin = false ∧ s.running = true ∧
      (s.port a).state = .draining ∧ ∃ r ∈ (s.port a).recalls, r.entry = e ∧ r.use = u) :=
  ⟨⟨0, ready, by decide +kernel⟩,
   ⟨5, 23, 255, ready.modPort 5 (fun p => { p with
      state := .draining, recalls := [{ entry := 23, use := 255, left := 9 }] }), by decide +kernel⟩⟩

theorem test_meets_AgentFailureFailsThePort_nothing_active : ∃ (a : Agent) (s : State), s.atRest ∧ s.running = true ∧
    ((s.port a).state = .online ∨ (s.port a).state = .draining) ∧ (∀ e, (s.entry e).phase = .free) ∧
    (s.port a).waiters = [] ∧ s.bufferWaiters = [] ∧ s.capture = none := ⟨3, ready, by decide +kernel⟩

/-! ### Hypotheses that can be met: messages -/

/-- Seven requests waiting. -/
def seven : State :=
  ready.modPort 1 (fun p => { p with requests := List.replicate 7 (plainRequest 1 .readOwn 0 9 0), labels := [0] })

theorem test_meets_RequestsArrive_joined : ∃ (c : Instr) (q : Request) (s : State), c.request = some q ∧ s.atRest ∧
    s.running = true ∧ ((s.port q.agent).state = .online ∨ (s.port q.agent).state = .draining) ∧
    (s.port q.agent).requests.length < 8 ∧ q.label ∉ (s.port q.agent).labels :=
  ⟨.lockedRead 1 7 0xFC000005 2, plainRequest 1 .lockedRead 7 5 2, seven, by decide +kernel⟩

theorem test_meets_RequestsArrive_refused : ∃ (c : Instr) (q : Request) (s u : State), c.request = some q ∧
    (s.atRest ∧ s.running = true ∧ (s.port q.agent).state = .online ∧ 8 ≤ (s.port q.agent).requests.length) ∧
    (u.atRest ∧ u.running = true ∧ (u.port q.agent).state = .online ∧ (u.port q.agent).requests.length < 8 ∧
      q.label ∈ (u.port q.agent).labels) :=
  ⟨.upgrade 1 0 5, plainRequest 1 .upgrade 0 5 0,
   seven.modPort 1 (fun p => { p with requests := p.requests ++ [plainRequest 1 .readOwn 0 9 0] }), seven,
   by decide +kernel⟩

theorem test_meets_ResponsesJoinTheQueueOrAreDiscarded : ∃ (c : Instr) (a : Agent) (m : Resp) (s u : State),
    c.response = some (a, m) ∧ (s.atRest ∧ s.running = true ∧ (s.port a).state = .online ∧
      (s.port a).responses.length < 8) ∧
    (u.atRest ∧ u.running = true ∧ (u.port a).state = .online ∧ 8 ≤ (u.port a).responses.length) :=
  ⟨.recallAck 2 23 255 true, 2, .recallAck 23 255 true, ready,
   ready.modPort 2 (fun p => { p with responses := List.replicate 8 { msg := .drop 5, held := false, waits := false } }),
   by decide +kernel⟩

theorem test_meets_DiscardedAndUnknownMessages_discarded : ∃ (c : Instr) (a : Agent) (s u v x : State),
    c = .join a ∧ (s.atRest ∧ s.running = false) ∧ (u.atRest ∧ (u.port a).state = .failed) ∧
    (v.atRest ∧ (v.port a).state = .offline ∧ Instr.leave a ≠ .join a) ∧ (x.atRest ∧ (x.port a).state = .draining) :=
  ⟨.join 0, 0, { ready with unitState := .lost }, ready.modPort 0 (fun p => { p with state := .failed }),
   ready.modPort 0 (fun p => { p with state := .offline }),
   ready.modPort 0 (fun p => { p with state := .draining, holding := 1 }), by decide +kernel⟩

theorem test_meets_DiscardedAndUnknownMessages_unknown :
    (∃ (a : Agent) (s : State), s.atRest ∧ s.running = true ∧
      ((s.port a).state = .online ∨ (s.port a).state = .draining) ∧ s.capture = none) ∧
    (∃ (s : State) (r : Report), s.capture = some r) :=
  ⟨⟨0, ready, by decide +kernel⟩, ⟨{ ready with capture := some (Report.blank .linkDown 4) }, _, rfl⟩⟩

theorem test_meets_JoinPlacesJoinAck : ∃ (a : Agent) (s u : State),
    (s.atRest ∧ s.running = true ∧ (s.port a).state = .offline ∧ (s.port a).waiters = [] ∧
      (s.port a).output.length < 16) ∧
    (u.atRest ∧ u.running = true ∧ (u.port a).state = .online ∧ (u.port a).waiters = [] ∧
      (u.port a).output.length < 16) :=
  ⟨5, ready.modPort 5 (fun p => { p with state := .offline, output := List.replicate 15 .portDown }), ready,
   by decide +kernel⟩

theorem test_meets_LeavingPortsDrainAndRefuse_leave : ∃ (a : Agent) (s : State), s.atRest ∧ s.running = true ∧
    (s.port a).state = .online ∧ (s.port a).holding ≠ 0 ∧ s.noHeadWaits ∧ s.hasCriterion (.drain a) = false :=
  ⟨4, ready.modPort 4 (fun p => { p with holding := 1 }), by decide +kernel⟩

theorem test_meets_OutputHeadIsSentAndEndsADeparture : ∃ (a : Agent) (s u v : State),
    (s.atRest ∧ (s.port a).link = true ∧ (s.port a).output = [.joinAck] ∧ (s.port a).waiters = [] ∧
      (s.port a).state ≠ .draining) ∧
    (u.atRest ∧ (u.port a).link = false) ∧
    (v.atRest ∧ (v.port a).link = true ∧ (v.port a).output = .joinAck :: List.replicate 15 .portDown ∧
      (v.port a).state = .draining ∧ (v.port a).holding = 0 ∧ (v.port a).labels = [] ∧ (v.port a).recalls = [] ∧
      (v.port a).responses = [] ∧ (v.port a).waiters = [] ∧ v.hasCriterion (.drain a) = false) :=
  ⟨0, ready.modPort 0 (fun p => { p with output := [.joinAck] }), ready.modPort 0 (fun p => { p with link := false }),
   ready.modPort 0 (fun p => { p with state := .draining, output := .joinAck :: List.replicate 15 .portDown }),
   by decide +kernel⟩

/-! ### Hypotheses that can be met: the arbiters -/

/-- A request in the queue of A3. -/
def waiting : Request := plainRequest 3 .readShared 2 0x12345 1

theorem test_meets_LeavingPortsDrainAndRefuse_refuse : ∃ (a : Agent) (q : Request) (rest : List Request) (s : State), s.atRest ∧
    s.running = true ∧ (s.port a).state = .draining ∧ (s.port a).requests = q :: rest ∧ (s.port a).head ≠ .refusing ∧
    (s.port a).waiters = [] ∧ (s.port a).output.length < 16 ∧ (s.port a).holding ≠ 0 ∧
    (∀ b, b ≠ a → (s.port b).headWaits = false) :=
  ⟨3, waiting, [], (asked ready waiting).modPort 3 (fun p => { p with state := .draining, holding := 1 }),
   by decide +kernel⟩

/-- A READ-OWN of A1 that waits for its memory read. -/
def reading : Entry :=
  { Entry.free 9 with kind := .req .readOwn, origin := some (1, 4), line := 0x12345, phase := .readingMemory }

theorem test_meets_DeferredRequestsWaitAndAreHandedOver_wait : ∃ (a : Agent) (q : Request) (rest : List Request)
    (e : EntryNo) (s : State), s.atRest ∧ s.running = true ∧ (s.port a).state = .online ∧
    (s.port a).requests = q :: rest ∧ q.agent = a ∧ (s.port a).head ≠ .refusing ∧ (s.port a).guards q.line = false ∧ s.busy q.line = some e ∧
    (s.entry e).outstanding a = false ∧ (s.entry e).holdsPlace = true ∧ (∀ b, b ≠ a → (s.port b).headWaits = false) :=
  ⟨3, waiting, [], 6, (asked opened waiting).setEntry 6 reading, by decide +kernel⟩

theorem test_meets_AdmissionAllocatesAnEntry : ∃ (a : Agent) (q : Request) (rest : List Request) (e : EntryNo)
    (s : State), s.atRest ∧ s.running = true ∧ (s.port a).state = .online ∧ (s.port a).requests = q :: rest ∧
    (s.port a).head ≠ .refusing ∧ (s.port a).guards q.line = false ∧ s.busy q.line = none ∧
    s.freeEntry agentPool = some e ∧ s.placesHeld < 20 :=
  ⟨3, waiting, [], 0, asked opened waiting, by decide +kernel⟩

theorem test_meets_RegionRefusalEndsTheRequest : ∃ (a : Agent) (q : Request) (rest : List Request) (e : EntryNo)
    (r : Reason) (s : State), s.atRest ∧ s.running = true ∧ (s.port a).state = .online ∧
    (s.port a).requests = q :: rest ∧ q.agent = a ∧ (s.port a).head ≠ .refusing ∧ (s.port a).guards q.line = false ∧
    (s.port a).waiters = [] ∧ (s.port a).output.length < 16 ∧ (∀ b, b ≠ a → (s.port b).headWaits = false) ∧
    s.busy q.line = none ∧ s.freeEntry agentPool = some e ∧ s.placesHeld < 20 ∧ s.awaiting = [] ∧ s.memOp e = none ∧
    s.owingBuffer q.line = none ∧ regionCheck s.settings q.kind a q.line = some r :=
  ⟨3, waiting, [], 0, .range, asked ready waiting, by decide +kernel⟩

/-- Settings with one region over units 1 and 2: readable by A0 and A1, writable by A1. -/
def oneRegion (c : Bool) : Settings :=
  { Settings.reset with regions := (Settings.reset.regions.set 15
      { enabled := true, base := 1, size := 2, readSet := 3, writeSet := 2, cacheable := c }) }

theorem test_meets_RegionCheckTakesTheFirstFailure :
    inRange (oneRegion true) 1023 = false ∧ inRange (oneRegion true) 3072 = false ∧
    (inRange (oneRegion true) 1024 = true ∧ readRight (oneRegion true) 2 1024 = false) ∧
    (readRight (oneRegion true) 0 3071 = true ∧ writeRight (oneRegion true) 0 3071 = false) ∧
    (readRight (oneRegion false) 0 1024 = true ∧ writeRight (oneRegion false) 0 1024 = false) ∧
    (writeRight (oneRegion false) 1 1024 = true ∧ cacheable (oneRegion false) 1024 = false) ∧
    cacheable (oneRegion true) 1024 = true := by decide +kernel

/-- A REBUILD claim that waits for line 0x12345. -/
def rebuilding : State := { opened with rebuildClaims := [{ line := 0x12345, set := setOf 0x12345, way := 2 }] }

theorem test_meets_InternalPoolGrantsARebuild : ∃ (e b : EntryNo) (c : RebuildClaim) (rest : List RebuildClaim)
    (s u v : State),
    (s.atRest ∧ s.running = true ∧ s.rebuildClaims = c :: rest ∧ s.freeEntry internalPool = some e ∧
      s.busy c.line = none) ∧
    (u.atRest ∧ u.running = true ∧ u.rebuildClaims = c :: rest ∧ u.freeEntry internalPool = some e ∧
      u.busy c.line = some b) ∧
    (v.atRest ∧ v.running = true ∧ v.rebuildClaims = c :: rest ∧ v.freeEntry internalPool = none) :=
  ⟨20, 0, { line := 0x12345, set := setOf 0x12345, way := 2 }, [], rebuilding, rebuilding.setEntry 0 reading,
   internalPool.foldl (fun s e => s.setEntry e { reading with kind := .retire, line := BitVec.ofNat 26 e.val }) rebuilding,
   by decide +kernel⟩

/-! ### Hypotheses that can be met: the response handler -/

theorem test_meets_StaleReplyIsCounted : ∃ (a : Agent) (entry : Byte) (use : UseNo) (m : Resp) (s : State), s.atRest ∧
    s.noHeadWaits ∧ (s.port a).state = .online ∧ s.takesHead a m ∧ s.matchReply a entry use = none ∧
    m = .recallAck entry use true :=
  ⟨2, 24, 0, .recallAck 24 0 true, arrived ready 2 (.recallAck 24 0 true), by decide +kernel⟩

/-- A READ-OWN of A1 for a line that A2 and A3 share, with the INVALIDATE to A2 out. -/
def invalidating : State :=
  ((issued (holding opened 0x12345 5 (shared 0x0C)) 3 { claimant := .entry 6, write := false, line := 0x12345 }).setEntry 6
    { reading with
      pending := reading.pending.set 2 (some { kind := .invalidate, placed := true }), copy := some (shared 0x0C) })

theorem test_meets_InvalidateAckRemovesASharer : ∃ (b : Agent) (entry : Byte) (use : UseNo) (held : Bool) (e : EntryNo)
    (w : WayNo) (h : AgentSet) (s : State), s.recordsLawful ∧ s.atRest ∧ s.noHeadWaits ∧ (s.port b).state = .online ∧
    s.takesHead b (.recallAck entry use held) ∧ s.matchReply b entry use = some e ∧
    (s.entry e).pending[b] = some { kind := .invalidate, placed := true } ∧ (s.entry e).kind = .req .readOwn ∧
    (s.entry e).phase = .readingMemory ∧ (s.entry e).data = .none ∧ (s.entry e).reply = .none ∧
    (s.entry e).orphaned = false ∧ (s.entry e).poisonOwed = false ∧ (s.entry e).rebuild = false ∧
    s.memOp e = some false ∧ s.busy (s.entry e).line = some e ∧ s.calm (setOf (s.entry e).line) ∧
    s.lineRec (s.entry e).line = some (w, { state := .shared, holders := h, pin := none }) ∧ AgentSet.has h b ∧
    AgentSet.remove h b ≠ 0 :=
  ⟨2, 6, 9, true, 6, 5, 0x0C, arrived invalidating 2 (.recallAck 6 9 true),
   lawful_one 0x12345 5 (shared 0x0C) (by decide) rfl rfl (by decide +kernel), by decide +kernel⟩

theorem test_meets_WritebackTakesABuffer : ∃ (a : Agent) (l : Line) (d : LineData) (w : WayNo) (p : Option Agent)
    (b : BufferNo) (i : MemTagNo) (s : State), s.recordsLawful ∧ s.atRest ∧ s.noHeadWaits ∧ (s.port a).state = .online ∧
    s.takesHead a (.writeback l d) ∧ s.busy l = none ∧ s.calm (setOf l) ∧ s.noneAwaiting (setOf l) ∧
    s.lineRec l = some (w, { state := .exclusive, holders := AgentSet.only a, pin := p }) ∧ s.freeBufferNo = some b ∧
    s.claimQueue = [] ∧ (s.tag i).op = none ∧ (∀ j, j < i → (s.tag j).op ≠ none) ∧
    (∀ c, (s.buffer c).state = .writing → (s.buffer c).line ≠ l) :=
  ⟨1, 0x12345, 3, 7, none, 0, 1,
   arrived (issued (holding opened 0x12345 7 (exclusive 1 none)) 0 { claimant := .entry 0, write := false, line := 9 }) 1
     (.writeback 0x12345 3),
   lawful_one 0x12345 7 (exclusive 1 none) (by decide) rfl rfl (by decide +kernel), by decide +kernel⟩

theorem test_meets_WritebackFromANonHolder : ∃ (a : Agent) (l : Line) (d : LineData) (s : State), s.atRest ∧
    s.noHeadWaits ∧ (s.port a).state = .online ∧ s.takesHead a (.writeback l d) ∧ s.busy l = none ∧
    s.calm (setOf l) ∧ s.listed l a = false ∧ (s.port a).waiters = [] ∧ (s.port a).output.length < 16 :=
  ⟨1, 0x12345, 3, arrived opened 1 (.writeback 0x12345 3), by decide +kernel⟩

theorem test_meets_DropOnAnIdleLine : ∃ (a : Agent) (l : Line) (w : WayNo) (h : AgentSet) (s u : State),
    (s.atRest ∧ s.noHeadWaits ∧ (s.port a).state = .online ∧ s.takesHead a (.drop l) ∧ s.busy l = none ∧
      s.calm (setOf l) ∧ s.listed l a = false) ∧ u.recordsLawful ∧
    (u.atRest ∧ u.noHeadWaits ∧ (u.port a).state = .online ∧ u.takesHead a (.drop l) ∧ u.busy l = none ∧
      u.calm (setOf l) ∧ u.lineRec l = some (w, { state := .shared, holders := h, pin := none }) ∧
      AgentSet.has h a ∧ AgentSet.remove h a ≠ 0) :=
  ⟨0, 0x12345, 5, 0x21, arrived opened 0 (.drop 0x12345), arrived (holding opened 0x12345 5 (shared 0x21)) 0 (.drop 0x12345),
   by decide +kernel, lawful_one 0x12345 5 (shared 0x21) (by decide) rfl rfl (by decide +kernel), by decide +kernel⟩

/-- A LOCKED-READ of A4 that is PINNED. -/
def pinned : Entry :=
  { Entry.free 9 with
    kind := .req .lockedRead, origin := some (4, 1), line := 0x12345, phase := .pinned, pinTimer := some 40
    reply := .placed, copy := some (exclusive 4 (some 4)), pinCounted := true }

/-- The line that it pins. -/
def pinnedLine : State := (holding opened 0x12345 3 (exclusive 4 (some 4))).setEntry 11 pinned

theorem test_meets_UnpinAndPinExpiryEndThePin_late : ∃ (a : Agent) (l : Line) (s : State), s.atRest ∧ s.noHeadWaits ∧
    (s.port a).state = .online ∧ s.takesHead a (.unpin l none) ∧ (s.port a).waiters = [] ∧
    (s.port a).output.length < 16 ∧ s.busy l = none ∧ s.calm (setOf l) :=
  ⟨4, 0x12345, arrived opened 4 (.unpin 0x12345 none), by decide +kernel⟩

theorem test_meets_UnpinAndPinExpiryEndThePin : ∃ (a : Agent) (l : Line) (e : EntryNo) (w : WayNo) (label : Label)
    (d : LineData) (i : MemTagNo) (left : Nat) (s u : State), s.recordsLawful ∧ u.recordsLawful ∧
    (∀ x ∈ [s, u], x.atRest ∧ x.running = true ∧ x.noHeadWaits ∧ x.calm (setOf l) ∧ x.noneAwaiting (setOf l) ∧
      x.busy l = some e ∧
      x.entry e = { x.entry e with
        kind := .req .lockedRead, origin := some (a, label), line := l, phase := .pinned, reply := .placed
        orphaned := false, pending := Vector.replicate 6 none, deferred := [], recheck := false, rebuild := false
        poisonOwed := false, breaking := false, saves := false } ∧
      x.memOp e = none ∧ x.owingBuffer l = none ∧
      x.lineRec l = some (w, { state := .exclusive, holders := AgentSet.only a, pin := some a }) ∧
      (x.port a).state = .online ∧ (x.port a).waiters = [] ∧ (x.port a).output.length < 16) ∧
    s.takesHead a (.unpin l none) ∧ (s.entry e).pinTimer = some left ∧
    (u.takesHead a (.unpin l (some d)) ∧ (u.entry e).wrote = false ∧ (u.entry e).mask = 0 ∧ u.tagReady l i) :=
  ⟨4, 0x12345, 11, 3, 1, 77, 0, 40, arrived pinnedLine 4 (.unpin 0x12345 none),
   arrived pinnedLine 4 (.unpin 0x12345 (some 77)),
   lawful_one 0x12345 3 (exclusive 4 (some 4)) (by decide) rfl rfl (by decide +kernel),
   lawful_one 0x12345 3 (exclusive 4 (some 4)) (by decide) rfl rfl (by decide +kernel), by decide +kernel⟩

/-- A line busy with an entry that waits for A2's answer to RETURN, and A2's WRITEBACK of it. -/
def absorbing (k : Kind) : State :=
  arrived ((holding opened 0x12345 3 (exclusive 2 none)).setEntry 6 { reading with
    kind := k, phase := .recalling, copy := some (exclusive 2 none)
    pending := reading.pending.set 2 (some { kind := .return, placed := true }) }) 2 (.writeback 0x12345 77)

theorem absorbing_lawful (k : Kind) : (absorbing k).recordsLawful :=
  lawful_one 0x12345 3 (exclusive 2 none) (by decide) rfl rfl (copies_setEntry (by decide +kernel) (by simp; decide))

theorem test_meets_AbsorbedWritebacksAreKeptOrWritten : ∃ (a : Agent) (l : Line) (d : LineData) (e : EntryNo) (w : WayNo)
    (i : MemTagNo), ∀ k ∈ [Kind.req .readOwn, .req .lockedRead, .retire, .sweepRecall], (absorbing k).recordsLawful ∧
    let s := absorbing k
    s.atRest ∧ s.noHeadWaits ∧ (s.port a).state = .online ∧ s.takesHead a (.writeback l d) ∧ (s.port a).waiters = [] ∧
    (s.port a).output.length < 16 ∧ s.calm (setOf l) ∧ s.noneAwaiting (setOf l) ∧ s.busy l = some e ∧
    s.entry e = { s.entry e with
      phase := .recalling, data := .none, mask := 0, reply := .none, orphaned := false, wrote := false
      poisonOwed := false, rebuild := false, refused := false, saves := false } ∧
    (s.entry e).pending[a] = some { kind := .return, placed := true } ∧ s.memOp e = none ∧
    s.lineRec l = some (w, { state := .exclusive, holders := AgentSet.only a, pin := none }) ∧ s.tagReady l i ∧
    (s.entry e).kind = k :=
  ⟨2, 0x12345, 77, 6, 3, 0, by simp only [List.forall_mem_cons]; exact
    ⟨⟨absorbing_lawful _, by decide +kernel⟩, ⟨absorbing_lawful _, by decide +kernel⟩,
     ⟨absorbing_lawful _, by decide +kernel⟩, ⟨absorbing_lawful _, by decide +kernel⟩, fun _ h => absurd h (by simp)⟩⟩

/-! ### Hypotheses that can be met: the memory port, scrubber and sweep -/

/-- No other tag has an operation of the entry. -/
theorem only_tag {s : State} {i : MemTagNo} {e : EntryNo} (h : ∀ j, j ≠ i → (s.tag j).op = none) :
    ∀ (j : MemTagNo) (o : TagOp), j ≠ i → (s.tag j).op = some o → o.claim.claimant ≠ .entry e := by
  intro j o hj ho
  rw [h j hj] at ho
  exact absurd ho (by simp)

/-- Every operation is issued. -/
theorem all_issued {s : State} (h : ∀ j, (s.tag j).op.all TagOp.issued) :
    ∀ (j : MemTagNo) (o : TagOp), (s.tag j).op = some o → o.issued = true := by
  intro j o ho
  have := h j
  rw [ho] at this
  exact this

/-- Every operation is issued, or is this tag's. -/
theorem others_issued {s : State} {j : MemTagNo} {l : Line} (h : ∀ m, m ≠ j → (s.tag m).op.all TagOp.issued) :
    ∀ (m : MemTagNo) (o : TagOp), m ≠ j → (s.tag m).op = some o → o.issued = true ∨ o.claim.line ≠ l := by
  intro m o hm ho
  have := h m hm
  rw [ho] at this
  exact Or.inl this

/-- A table whose only active entry has no pin, place or deferred request that the law forbids. -/
theorem table_one {s : State} (h1 : ∀ e f, (s.entry e).phase ≠ .free → (s.entry f).phase ≠ .free → e = f)
    (h2 : ∀ e, ((s.entry e).deferred.map Request.agent).Nodup ∧
      (∀ q ∈ (s.entry e).deferred, q.line = (s.entry e).line) ∧ ((s.entry e).phase = .free → (s.entry e).deferred = []))
    (h3 : ∀ e, (s.entry e).phase ≠ .pinned) (h4 : s.pinCount ≤ 4 ∧ s.placesHeld ≤ 20) : s.tableLawful :=
  ⟨fun e f he hf _ => h1 e f he hf, fun e => ⟨h2 e, fun hp => absurd hp (h3 e)⟩, h4.1, h4.2⟩

/-- A READ-SHARED whose memory write is out, its grant placed, with two deferred requests. -/
def handing : State :=
  (issued (holding opened 0x12345 3 (shared 0x26)) 0 { claimant := .entry 6, write := true, line := 0x12345 }).setEntry 6
    { Entry.free 255 with
      kind := .req .readShared, origin := some (1, 4), line := 0x12345, phase := .writingMemory, reply := .placed
      data := .fromHolder, wrote := true
      deferred := [plainRequest 4 .readShared 7 0x12345 2, plainRequest 5 .readOwn 7 0x12345 0] }

theorem test_meets_DeferredRequestsWaitAndAreHandedOver_handed : ∃ (i : MemTagNo) (q : Request) (rest : List Request)
    (e : EntryNo) (l : Line) (w : WayNo) (h : AgentSet) (left : Nat) (s : State), s.tableLawful ∧
    (∀ j o, j ≠ i → (s.tag j).op = some o → o.claim.claimant ≠ .entry e) ∧ s.atRest ∧ s.running = true ∧
    s.noHeadWaits ∧
    (s.tag i).op = some { claim := { claimant := .entry e, write := true, line := l }, issued := true, left := left } ∧
    (∀ j, j < i → (s.tag j).op ≠ none) ∧ s.claimQueue = [] ∧ (∀ b, (s.buffer b).state = .free) ∧
    s.entry e = { s.entry e with
      line := l, phase := .writingMemory, pending := Vector.replicate 6 none, deferred := q :: rest, recheck := false
      orphaned := false, reply := .placed, poisonOwed := false, rebuild := false, breaking := false, saves := false } ∧
    (s.entry e).kind = .req .readShared ∧ q.kind = .readShared ∧ s.calm (setOf l) ∧ s.noneAwaiting (setOf l) ∧
    s.lineRec l = some (w, { state := .shared, holders := h, pin := none }) ∧
    regionCheck s.settings q.kind q.agent l = none :=
  ⟨0, plainRequest 4 .readShared 7 0x12345 2, [plainRequest 5 .readOwn 7 0x12345 0], 6, 0x12345, 3, 0x26, 3, handing,
   table_one (by decide +kernel) (by decide +kernel) (by decide +kernel) (by decide +kernel), only_tag (by decide +kernel),
   by decide +kernel⟩

theorem test_meets_LateMemoryRepliesAreCounted : ∃ s u : State, (s.atRest ∧ s.running = false) ∧ u.atRest ∧
    (∀ i o, i.val = (7 : Byte).toNat → (u.tag i).op = some o → (u.tag i).use ≠ 6 ∨ o.issued = false ∨ o.claim.write = true) ∧
    (∀ i o, i.val = (8 : Byte).toNat → (u.tag i).op = some o → (u.tag i).use ≠ 7 ∨ o.issued = false ∨ o.claim.write = false) :=
  ⟨{ ready with unitState := .lost }, issued ready 7 { claimant := .entry 0, write := false, line := 0 },
   by decide +kernel, by decide +kernel,
   fun i o hi _ => Or.inl (by have : i = 7 := Fin.ext hi
                              subst this; decide +kernel),
   fun i _ hi _ => absurd hi (by have := i.isLt; show ¬ i.val = 8; omega)⟩

theorem test_meets_RepliesAndLineFieldsAreReadByTheirCodes : ∃ (tag status : Byte) (s : State), s.atRest ∧ 7 < tag.toNat ∧
    status ≠ 0 ∧ status ≠ 1 := ⟨8, 3, ready, by decide +kernel⟩

/-- A READ-SHARED of A0 that waits for its memory read with way 6 in hand. -/
def missing : State :=
  (issued opened 7 { claimant := .entry 19, write := false, line := 0x12345 }).setEntry 19
    { Entry.free 255 with
      kind := .req .readShared, origin := some (0, 7), line := 0x12345, phase := .readingMemory, first := 2
      reserved := some 6, mayWrite := true }

theorem test_meets_ReadSharedIsGrantedOnItsData : ∃ (i : MemTagNo) (e : EntryNo) (a : Agent) (label : Label)
    (l : Line) (w : WayNo) (f : Beat) (left : Nat) (s : State), s.recordsLawful ∧
    (∀ j o, j ≠ i → (s.tag j).op = some o → o.claim.claimant ≠ .entry e) ∧ s.atRest ∧ s.running = true ∧
    (s.tag i).op = some { claim := { claimant := .entry e, write := false, line := l }, issued := true, left := left } ∧
    s.entry e = { Entry.free (s.entry e).use with
      kind := .req .readShared, origin := some (a, label), line := l, phase := .readingMemory, first := f
      reserved := some w, mayWrite := true } ∧
    s.busy l = some e ∧ s.lookup l = none ∧ s.enabled (setOf l) w ∧ s.wayTag (setOf l) w = none ∧ s.calm (setOf l) ∧
    (s.port a).state = .online ∧ (s.port a).waiters = [] ∧ (s.port a).output.length < 16 ∧ s.noHeadWaits ∧
    s.awaiting = [] ∧ s.claimQueue = [] ∧ s.owingBuffer l = none :=
  ⟨7, 19, 0, 7, 0x12345, 6, 2, 3, missing, lawful_none rfl rfl (by decide +kernel),
   only_tag (by decide +kernel),
   by decide +kernel⟩

/-- A writeback buffer of A2 whose write is out under tag 4. -/
def buffered : State :=
  (issued ready 4 { claimant := .buffer 5, write := true, line := 0x12345 }).setBuffer 5
    { WbBuffer.free with state := .writing, line := 0x12345, agent := 2, data := 1 }

theorem test_meets_MemDoneFreesTheBuffer : ∃ (i : MemTagNo) (b : BufferNo) (left : Nat) (s : State),
    (∀ j o, (s.tag j).op = some o → o.issued = true) ∧ s.atRest ∧ s.running = true ∧
    (s.tag i).op = some { claim := { claimant := .buffer b, write := true, line := (s.buffer b).line }, issued := true
                          left := left } ∧
    s.claimQueue = [] ∧ s.bufferWaiters = [] ∧ (s.buffer b).state = .writing ∧ (s.buffer b).late = false ∧
    (s.port (s.buffer b).agent).state = .online ∧ (s.port (s.buffer b).agent).waiters = [] ∧
    (s.port (s.buffer b).agent).output.length < 16 :=
  ⟨4, 5, 3, buffered,
   all_issued (by decide +kernel),
   by decide +kernel⟩

/-- The same buffer's line busy with an UNCACHED-READ of A5 whose read is HELD under tag 6. -/
def heldBehind : State :=
  ((issued opened 4 { claimant := .buffer 5, write := true, line := 0x12345 }).setBuffer 5
    { WbBuffer.free with state := .writing, line := 0x12345, agent := 2, data := 1 }).setTag 6
      { use := 7, op := some { claim := { claimant := .entry 6, write := false, line := 0x12345 }, issued := false, left := 0 } }
  |>.setEntry 6 { Entry.free 9 with
      kind := .req .uncachedRead, origin := some (5, 4), line := 0x12345, phase := .readingMemory, first := 3
      mayWrite := true }

theorem test_meets_WriteFaultsOweOrPoison_owing : ∃ (i : MemTagNo) (l : Line) (left : Nat) (b : BufferNo) (f : EntryNo)
    (s : State), (∀ j o, (s.tag j).op = some o → o.issued = true) ∧ s.atRest ∧ s.running = true ∧ s.claimQueue = [] ∧
    s.owingBuffer l = none ∧
    (s.tag i).op = some { claim := { claimant := .buffer b, write := true, line := l }, issued := true, left := left } ∧
    (s.buffer b).state = .writing ∧ (s.buffer b).line = l ∧ (s.buffer b).late = false ∧
    (s.port (s.buffer b).agent).ready ∧ s.busy l = some f :=
  ⟨4, 0x12345, 3, 5, 6, buffered.setEntry 6 { reading with
     phase := .recalling, pending := reading.pending.set 4 (some { kind := .return, placed := true }) },
   all_issued (by decide +kernel), by decide +kernel⟩

theorem test_meets_WriteFaultsOweOrPoison_held : ∃ (i j : MemTagNo) (l : Line) (left k : Nat) (b : BufferNo) (e : EntryNo)
    (v : WayNo) (c : Agent) (label : Label) (first : Beat) (s : State), s.recordsLawful ∧
    (∀ m o, m ≠ j → (s.tag m).op = some o → o.issued = true ∨ o.claim.line ≠ l) ∧
    (∀ m, m ≠ j → (s.tag m).op.all (fun o => o.claim.claimant != .entry e)) ∧ s.atRest ∧ s.running = true ∧
    s.claimQueue = [] ∧ s.owingBuffer l = none ∧
    (s.tag i).op = some { claim := { claimant := .buffer b, write := true, line := l }, issued := true, left := left } ∧
    (s.buffer b).state = .writing ∧ (s.buffer b).line = l ∧ (s.buffer b).late = false ∧
    (s.port (s.buffer b).agent).ready ∧ s.noHeadWaits ∧ s.calm (setOf l) ∧ s.noneAwaiting (setOf l) ∧
    s.busy l = some e ∧ s.lookup l = none ∧ s.freeSearch (setOf l) = some v ∧
    s.entry e = { Entry.free (s.entry e).use with
      kind := .req .uncachedRead, origin := some (c, label), line := l, phase := .readingMemory, first := first
      mayWrite := true } ∧
    (s.tag j).op = some { claim := { claimant := .entry e, write := false, line := l }, issued := false, left := k } ∧
    s.bufferWaiters = [] ∧ (s.port c).state = .online ∧ (s.port c).waiters = [] ∧ (s.port c).output.length < 15 :=
  ⟨4, 6, 0x12345, 3, 0, 5, 6, 0, 5, 4, 3, heldBehind, lawful_none rfl rfl (by decide +kernel),
   others_issued (by decide +kernel), by decide +kernel, by decide +kernel⟩

/-- An UNCACHED-WRITE of A5 whose memory write is out. -/
def uncachedWriting (s : State) : State :=
  (issued s 4 { claimant := .entry 6, write := true, line := 0x12345 }).setEntry 6 { Entry.free 9 with
    kind := .req .uncachedWrite, origin := some (5, 4), line := 0x12345, phase := .writingMemory, data := .merged
    wrote := true }

theorem full_lawful {r : Rec} (h : r.lawful) : (full r).lawful := by
  refine ⟨fun w => ?_, fun v w t hv hw => ?_, by simp only [full]; decide, fun w => ?_⟩
  · simp [Way.lawful, full, h]
  · have e : some (BitVec.ofNat 15 v.val) = some (BitVec.ofNat 15 w.val) := by simpa [full] using hv.trans hw.symm
    exact (by decide : ∀ v w : WayNo, some (BitVec.ofNat 15 v.val) = some (BitVec.ofNat 15 w.val) → v = w) v w e
  · have := (by decide : ∀ w : WayNo, w ∈ ([7, 6, 5, 4, 3, 2, 1, 0] : List WayNo)) w
    simp [full, this]

theorem full_ne_cleared (r : Rec) : full r ≠ ASet.cleared := fun e =>
  absurd (congrArg (fun x => x.order.value) e) (by simp [full, ASet.cleared])

theorem test_meets_WriteFaultsOweOrPoison_uncached : ∃ (i : MemTagNo) (l : Line) (left : Nat) (e : EntryNo) (c : Agent)
    (label : Label) (v : WayNo) (s u : State), s.recordsLawful ∧ u.recordsLawful ∧
    (∀ k o, k ≠ i → (s.tag k).op = some o → o.claim.claimant ≠ .entry e) ∧
    (∀ k o, k ≠ i → (u.tag k).op = some o → o.claim.claimant ≠ .entry e) ∧
    (∀ x ∈ [s, u], x.atRest ∧ x.running = true ∧ x.claimQueue = [] ∧ x.owingBuffer l = none ∧
      (x.tag i).op = some { claim := { claimant := .entry e, write := true, line := l }, issued := true, left := left } ∧
      x.noHeadWaits ∧ x.calm (setOf l) ∧ x.noneAwaiting (setOf l) ∧ x.busy l = some e ∧ x.lookup l = none ∧
      x.entry e = { x.entry e with
        kind := .req .uncachedWrite, origin := some (c, label), line := l, phase := .writingMemory
        pending := Vector.replicate 6 none, data := .merged, deferred := [], reserved := none, recheck := false
        orphaned := false, reply := .none, poisonOwed := false, rebuild := false, breaking := false, saves := false } ∧
      (x.port c).state = .online ∧ (x.port c).waiters = [] ∧ (x.port c).output.length < 16) ∧
    s.freeSearch (setOf l) = some v ∧ u.freeSearch (setOf l) = none :=
  ⟨4, 0x12345, 3, 6, 5, 4, 0, uncachedWriting opened, uncachedWriting (filled opened (shared 1)),
   lawful_none rfl rfl (by decide +kernel),
   lawful_set (setOf 0x12345) (full (shared 1)) (full_lawful (by decide)) (full_ne_cleared _) rfl rfl (by decide +kernel),
   only_tag (by decide +kernel), only_tag (by decide +kernel), by decide +kernel⟩

/-- A READ-SHARED of A1 whose line A1, A2 and A5 share, with its grant placed. -/
def owesPoison (s : State) (x : Entry) : State :=
  (holding s 0x12345 3 (shared 0x26)).setEntry 6 { x with
    kind := .req .readShared, origin := some (1, 4), line := 0x12345, data := .fromHolder, reply := .placed, wrote := true
    copy := some (shared 0x26) }

theorem test_meets_WriteFaultsOweOrPoison_recalls : ∃ (i : MemTagNo) (l : Line) (left : Nat) (e : EntryNo) (c : Agent)
    (label : Label) (w : WayNo) (h : AgentSet) (s : State), s.recordsLawful ∧
    (∀ k o, k ≠ i → (s.tag k).op = some o → o.claim.claimant ≠ .entry e) ∧ s.atRest ∧ s.running = true ∧
    s.claimQueue = [] ∧ s.owingBuffer l = none ∧
    (s.tag i).op = some { claim := { claimant := .entry e, write := true, line := l }, issued := true, left := left } ∧
    s.noHeadWaits ∧ s.calm (setOf l) ∧ s.noneAwaiting (setOf l) ∧ s.busy l = some e ∧
    s.lineRec l = some (w, { state := .shared, holders := h, pin := none }) ∧
    s.entry e = { s.entry e with
      kind := .req .readShared, origin := some (c, label), line := l, phase := .writingMemory
      pending := Vector.replicate 6 none, orphaned := false, reply := .placed, rebuild := false } ∧
    (∀ x, AgentSet.has h x → (s.port x).ready) :=
  ⟨4, 0x12345, 3, 6, 1, 4, 3, 0x26,
   owesPoison (issued opened 4 { claimant := .entry 6, write := true, line := 0x12345 })
     { Entry.free 9 with phase := .writingMemory },
   lawful_one 0x12345 3 (shared 0x26) (by decide) rfl rfl (by decide +kernel), only_tag (by decide +kernel),
   by decide +kernel⟩

theorem test_meets_WriteFaultsOweOrPoison_answered : ∃ (b : Agent) (held : Bool) (e : EntryNo) (l : Line) (w : WayNo)
    (h : AgentSet) (s : State), s.recordsLawful ∧ s.atRest ∧ s.noHeadWaits ∧ s.calm (setOf l) ∧
    s.noneAwaiting (setOf l) ∧ s.busy l = some e ∧ s.memOp e = none ∧ s.owingBuffer l = none ∧
    s.takesHead b (.recallAck (entryByte e) (s.entry e).use held) ∧
    s.lineRec l = some (w, { state := .shared, holders := h, pin := none }) ∧
    s.entry e = { s.entry e with
      kind := .req .readShared, line := l, phase := .recalling, recheck := false, orphaned := false, deferred := []
      pending := (Vector.replicate 6 none).set b (some { kind := .invalidate, placed := true }), reserved := none
      reply := .placed, poisonOwed := true, rebuild := false, breaking := false, saves := false } ∧
    AgentSet.has (s.entry e).faultRecalls b ∧ (s.port b).state = .online ∧ (∀ x, AgentSet.has h x → (s.port x).state = .online) :=
  ⟨2, true, 6, 0x12345, 3, 0x26,
   arrived (owesPoison opened { Entry.free 9 with
     phase := .recalling, poisonOwed := true, faultRecalls := 0x26
     pending := (Vector.replicate 6 none).set 2 (some { kind := .invalidate, placed := true }) }) 2 (.recallAck 6 9 true),
   lawful_one 0x12345 3 (shared 0x26) (by decide) rfl rfl (by decide +kernel), by decide +kernel⟩

/-- An UNCACHED-READ of A5 that waits for its memory read. -/
def uncached : State :=
  (issued opened 0 { claimant := .entry 0, write := false, line := 0x3FFFFFF }).setEntry 0
    { Entry.free 255 with
      kind := .req .uncachedRead, origin := some (5, 0), line := 0x3FFFFFF, phase := .readingMemory, first := 3
      mayWrite := true }

theorem test_meets_MemoryTimeoutRefusesTheRead : ∃ (i : MemTagNo) (e : EntryNo) (a : Agent) (label : Label) (l : Line)
    (f : Beat) (left : Nat) (s : State),
    (∀ j o, j ≠ i → (s.tag j).op = some o → o.claim.claimant ≠ .entry e) ∧ s.atRest ∧ s.running = true ∧
    (s.tag i).op = some { claim := { claimant := .entry e, write := false, line := l }, issued := true, left := left } ∧
    s.entry e = { Entry.free (s.entry e).use with
      kind := .req .uncachedRead, origin := some (a, label), line := l, phase := .readingMemory, first := f
      mayWrite := true } ∧
    (s.port a).state = .online ∧ (s.port a).waiters = [] ∧ (s.port a).output.length < 16 ∧ s.noHeadWaits ∧
    s.awaiting = [] ∧ s.claimQueue = [] ∧ s.owingBuffer l = none :=
  ⟨0, 0, 5, 0, 0x3FFFFFF, 3, 3, uncached,
   only_tag (by decide +kernel),
   by decide +kernel⟩

/-- The scrubber runs, at the last set. -/
def scrubbing : State := { opened with scrub := { cursor := 2047, passes := 0xFFFFFFFF, timer := some 0 } }

theorem test_meets_ScrubberReadsASetAndRunsWhileEnabled :
    (∃ s : State, s.atRest ∧ s.running = true ∧ s.scrub.timer.isSome ∧ s.settings.scrubEnable = true ∧
      s.settings.scrubInterval ≠ 0 ∧ s.calm s.scrub.cursor ∧ s.scrub.cursor = 2047) ∧
    (∃ s : State, ¬ (s.running = true ∧ s.settings.scrubEnable = true ∧ s.settings.scrubInterval ≠ 0)) :=
  ⟨⟨scrubbing, by decide +kernel⟩, ⟨State.reset, by decide⟩⟩

/-- The sweep engine at way 2 of set 0x86. -/
def sweeping (s : State) (l : Line) (w : WayNo) : State :=
  { s with sweep := { Sweep.reset with
      state := .processing, cursor := setOf l, way := w
      criteria := [{ kind := .region, joinSet := 5, remaining := 7, skip := false }] } }

theorem test_meets_SweepReadsAWayAndGapEnds : ∃ (l : Line) (e : EntryNo) (s u v x y : State),
    (s.atRest ∧ s.running = true ∧ s.sweep.state = .processing ∧ s.calm s.sweep.cursor ∧ s.sweep.way ≠ 7 ∧
      s.wayLine s.sweep.cursor s.sweep.way = none) ∧
    (u.atRest ∧ u.running = true ∧ u.sweep.state = .processing ∧ u.calm u.sweep.cursor ∧ u.sweep.way ≠ 7 ∧
      u.wayLine u.sweep.cursor u.sweep.way = some l ∧ u.busy l = some e) ∧
    (v.atRest ∧ v.running = true ∧ v.sweep.state = .processing ∧ v.calm v.sweep.cursor ∧ v.sweep.way ≠ 7 ∧
      v.wayLine v.sweep.cursor v.sweep.way = some l ∧ v.busy l = none ∧ v.judgeLine l = []) ∧
    (x.atRest ∧ x.running = true ∧ x.sweep.state = .processing ∧ x.calm x.sweep.cursor ∧ x.sweep.way ≠ 7 ∧
      x.wayLine x.sweep.cursor x.sweep.way = some l ∧ x.busy l = none ∧ x.judgeLine l ≠ []) ∧
    (y.atRest ∧ y.running = true ∧ y.sweep.state = .gap) :=
  ⟨0x12345, 6, sweeping opened 0x12345 6, sweeping ((holding opened 0x12345 6 (shared 1)).setEntry 6 reading) 0x12345 6,
   sweeping (holding opened 0x12345 6 (shared 1)) 0x12345 6, sweeping (holding ready 0x12345 0 (shared 1)) 0x12345 0,
   { opened with sweep := { (sweeping opened 0x12345 6).sweep with state := .gap, gapLeft := some 0 } },
   by decide +kernel⟩

/-- The sweep engine at the line's way, with A2's port FAILED. -/
def stripping (r : Rec) : State :=
  sweeping ((holding opened 0x12345 3 r).modPort 2 (fun p => { p with state := .failed, holding := 7 })) 0x12345 3

theorem test_meets_SweepReadsAWayAndGapEnds_failed : ∃ (a : Agent) (l : Line) (h g : AgentSet) (s u v : State),
    s.recordsLawful ∧ u.recordsLawful ∧ v.recordsLawful ∧
    (∀ x ∈ [s, u, v], x.atRest ∧ x.running = true ∧ x.sweep.state = .processing ∧ x.soundSet x.sweep.cursor ∧
      x.noLost x.sweep.cursor ∧ x.sweep.way ≠ 7 ∧ x.noneAwaiting x.sweep.cursor ∧
      x.wayLine x.sweep.cursor x.sweep.way = some l ∧ x.busy l = none ∧ (x.port a).state = .failed) ∧
    ((s.recAt s.sweep.cursor s.sweep.way) = { state := .shared, holders := h, pin := none } ∧ AgentSet.has h a ∧
      h ≠ AgentSet.only a ∧ (∀ c, c ≠ a → AgentSet.has h c → (s.port c).state ≠ .failed) ∧
      s.judge l { state := .shared, holders := AgentSet.remove h a, pin := none } = []) ∧
    ((u.recAt u.sweep.cursor u.sweep.way) = { state := .shared, holders := g, pin := none } ∧ g = AgentSet.only a) ∧
    (v.recAt v.sweep.cursor v.sweep.way) = { state := .exclusive, holders := g, pin := none } :=
  ⟨2, 0x12345, 0x24, 4, stripping (shared 0x24), stripping (shared 4), stripping (exclusive 2 none),
   lawful_one 0x12345 3 (shared 0x24) (by decide) rfl rfl (by decide +kernel),
   lawful_one 0x12345 3 (shared 4) (by decide) rfl rfl (by decide +kernel),
   lawful_one 0x12345 3 (exclusive 2 none) (by decide) rfl rfl (by decide +kernel), by decide +kernel⟩

/-- The sweep engine with a SWEEP-RECALL claim for the line. -/
def claiming (s : State) : State :=
  { s with sweep := { (sweeping s 0x12345 3).sweep with
      state := .claiming, claim := some { line := 0x12345, recalls := [(2, .return)] } } }

theorem test_meets_SweepReadsAWayAndGapEnds_grant : ∃ (e b : EntryNo) (l : Line) (js : List (Agent × RecallKind))
    (w : WayNo) (r : Rec) (s u v : State),
    (∀ x ∈ [s, u, v], x.atRest ∧ x.running = true ∧ x.noHeadWaits ∧ x.rebuildClaims = [] ∧ x.awaiting = [] ∧
      x.sweep.claim = some { line := l, recalls := js } ∧ x.sweep.way ≠ 7 ∧ x.freeEntry internalPool = some e) ∧
    s.busy l = some b ∧
    (u.busy l = none ∧ u.calm (setOf l) ∧ u.judgeLine l = [] ∧ u.memOp e = none ∧ u.noneAwaiting (setOf l) ∧
      u.owingBuffer l = none) ∧
    (v.busy l = none ∧ v.calm (setOf l) ∧ v.lineRec l = some (w, r) ∧ v.judge l r ≠ [] ∧ v.memOp e = none ∧
      (∀ p ∈ v.judge l r, (v.port p.1).ready)) :=
  ⟨20, 6, 0x12345, [(2, .return)], 3, exclusive 2 none, claiming (opened.setEntry 6 reading),
   claiming (holding opened 0x12345 3 (exclusive 2 none)), claiming (holding ready 0x12345 3 (exclusive 2 none)),
   by decide +kernel⟩

/-! ### Hypotheses that can be met: way allocation -/

/-- A request admitted for an absent line. -/
def admitted (k : ReqKind) (s : State) : State := asked s { waiting with kind := k }

/-- Another line of the same set with way 0 reserved, way 0 free and the other ways POISONED. -/
def reservedWay : State :=
  { filled opened Rec.poisoned with sets := [((setOf 0x12345).toNat, { full Rec.poisoned with
      ways := (full Rec.poisoned).ways.set 0 Way.cleared, order := ⟨[7, 6, 5, 4, 3, 2, 1], 0⟩ })] }.setEntry 6
    { reading with line := lineOf (setOf 0x12345) 99, reserved := some 0 }

theorem test_meets_AnAbsentLineAsksForAWay : ∃ (a : Agent) (q r : Request) (e f : EntryNo) (w v : WayNo) (i : MemTagNo)
    (l : Line) (s t u x : State),
    (s.admits a q [] e ∧ q.kind = .lockedRead ∧ s.pinCount < 4 ∧ regionCheck s.settings q.kind a q.line = none ∧
      s.calm (setOf q.line) ∧ s.lookup q.line = none ∧ s.memOp e = none ∧ (∀ m ∈ s.awaiting, m.entry ≠ e) ∧
      s.freeSearch (setOf q.line) = some w ∧ s.tagReady q.line i) ∧
    (t.admits a r [] e ∧ r.kind = .readOwn ∧ regionCheck t.settings r.kind a r.line = none ∧ t.calm (setOf r.line) ∧
      t.lookup r.line = none ∧ t.memOp e = none ∧ (∀ m ∈ t.awaiting, m.entry ≠ e) ∧
      t.freeSearch (setOf r.line) = none ∧ t.nameVictim (setOf r.line) = .victim v l) ∧
    (u.admits a r [] f ∧ regionCheck u.settings r.kind a r.line = none ∧ u.calm (setOf r.line) ∧
      u.lookup r.line = none ∧ u.memOp f = none ∧ (∀ m ∈ u.awaiting, m.entry ≠ f) ∧
      u.freeSearch (setOf r.line) = none ∧ u.nameVictim (setOf r.line) = .wait) ∧
    (x.admits a r [] e ∧ regionCheck x.settings r.kind a r.line = none ∧ x.calm (setOf r.line) ∧
      x.lookup r.line = none ∧ x.memOp e = none ∧ (∀ m ∈ x.awaiting, m.entry ≠ e) ∧
      x.freeSearch (setOf r.line) = none ∧ x.nameVictim (setOf r.line) = .none ∧ x.noneAwaiting (setOf r.line) ∧
      x.owingBuffer r.line = none ∧ (x.port a).waiters = [] ∧ (x.port a).output.length < 16) :=
  ⟨3, { waiting with kind := .lockedRead }, { waiting with kind := .readOwn }, 0, 0, 0, 0, 0, lineOf (setOf 0x12345) 0,
   admitted .lockedRead opened, admitted .readOwn (filled opened (shared 1)), admitted .readOwn reservedWay,
   admitted .readOwn (filled opened Rec.poisoned), by decide +kernel⟩

/-- A READ-OWN in AWAITING-WAY. -/
def awaitingWay : Entry := { reading with phase := .awaitingWay }

/-- It waits alone with this stand. -/
def stands (s : State) (d : EntryNo) (x : Stand) : State :=
  { s with awaiting := [{ entry := d, stand := x }] }.setEntry d awaitingWay

theorem test_meets_RetirementsAndWakesGiveAWay_grant : ∃ (e d : EntryNo) (l : Line) (w : WayNo)
    (before after : List Awaiting) (s : State), s.atRest ∧ s.running = true ∧ s.rebuildClaims = [] ∧
    s.freeEntry internalPool = some e ∧ (s.entry d).phase = .awaitingWay ∧
    s.awaiting = before ++ { entry := d, stand := .claimWaiting l w } :: after ∧
    before.all (fun m => m.stand == .noClaim) ∧ (∀ m ∈ before ++ after, m.entry ≠ d) ∧ s.busy l = none :=
  ⟨20, 4, 9, 7, [{ entry := 2, stand := .noClaim }], [],
   { stands (filled opened (shared 1)) 4 .noClaim with
     awaiting := [{ entry := 2, stand := .noClaim }, { entry := 4, stand := .claimWaiting 9 7 }] }, by decide +kernel⟩

/-- Every way of set 2047 disabled. -/
def noWays (s : State) : State :=
  { s with marks := ways.map (fun w => (16376 + w.val, { Marks.clear with disable := true })) }

theorem noWays_lawful : (noWays (stands opened 4 .noClaim)).arrayLawful :=
  ⟨fun _ => ASet.lawful_cleared, fun n w _ => by simp [State.aset, noWays, stands, opened, ready, State.reset, storeGet,
    State.setEntry, ASet.cleared, Way.cleared], rfl, by decide +kernel⟩

theorem test_meets_RetirementsAndWakesGiveAWay_enable : ∃ (set : BitVec 16) (way : Byte) (n : SetNo) (w : WayNo)
    (d : EntryNo) (i : MemTagNo) (s : State), s.arrayLawful ∧ s.frameReady ∧ s.running = true ∧ set.toNat = n.toNat ∧
    way.toNat = w.val ∧ s.soundSet n ∧ (s.mark n w).disable = true ∧ s.isReserved n w = false ∧ s.freeSearch n = none ∧
    s.awaiting = [{ entry := d, stand := .noClaim }] ∧ setOf (s.entry d).line = n ∧
    s.entry d = { s.entry d with
      kind := .req .readOwn, phase := .awaitingWay, reserved := none, data := .none, reply := .none, orphaned := false
      poisonOwed := false, rebuild := false, saves := false } ∧
    s.memOp d = none ∧ s.tagReady (s.entry d).line i :=
  ⟨2047, 7, 2047, 7, 4, 0, (noWays (stands opened 4 .noClaim)).setEntry 4 { awaitingWay with line := 2047 },
   noWays_lawful, by decide +kernel⟩

theorem test_meets_RetirementsAndWakesGiveAWay_pass : ∃ (i : MemTagNo) (e d : EntryNo) (w v : WayNo) (data : LineData)
    (left : Nat) (s : State),
    (∀ j o, j ≠ i → (s.tag j).op = some o → o.claim.claimant ≠ .entry e ∧ o.claim.claimant ≠ .entry d) ∧ s.atRest ∧
    s.running = true ∧ s.noHeadWaits ∧
    (s.tag i).op = some { claim := { claimant := .entry e, write := true, line := (s.entry e).line }, issued := true
                          left := left } ∧
    (∀ j, j < i → (s.tag j).op ≠ none) ∧ s.claimQueue = [] ∧ (∀ b, (s.buffer b).state = .free) ∧
    s.entry e = { Entry.free (s.entry e).use with
      kind := .retire, line := (s.entry e).line, phase := .writingMemory, data := .fromHolder, buffer := data
      dependent := some d, reserved := some w, victim := some v, wrote := true } ∧
    s.awaiting = [{ entry := d, stand := .retireActive e }] ∧ setOf (s.entry d).line = setOf (s.entry e).line ∧
    s.entry d = { s.entry d with
      kind := .req .readOwn, phase := .awaitingWay, reserved := none, data := .none, reply := .none, orphaned := false
      poisonOwed := false, rebuild := false, saves := false } :=
  ⟨0, 23, 4, 7, 7, 5, 3,
   (issued (stands opened 4 (.retireActive 23)) 0
     { claimant := .entry 23, write := true, line := lineOf (setOf 0x12345) 9 }).setEntry 23
     { Entry.free 3 with
       kind := .retire, line := lineOf (setOf 0x12345) 9, phase := .writingMemory, data := .fromHolder, buffer := 5
       dependent := some 4, reserved := some 7, victim := some 7, wrote := true },
   fun j o hj ho => ⟨only_tag (i := 0) (by decide +kernel) j o hj ho, only_tag (i := 0) (by decide +kernel) j o hj ho⟩,
   by decide +kernel⟩

/-! ### Hypotheses that can be met: sweep ends and damaged words -/

/-- The sweep engine at way 7 of a set with these criteria. -/
def sweepEnd (s : State) (n : SetNo) (l : List Criterion) : State :=
  { s with sweep := { Sweep.reset with state := .processing, cursor := n, way := 7, criteria := l } }

theorem test_meets_SweepJudgesRecordsAndFinishesSets : ∃ (l : Line) (a : Agent) (w : WayNo) (s u v x y z : State),
    s.lineRec l = none ∧ u.lineRec l = some (w, exclusive a none) ∧
    (v.atRest ∧ v.running = true ∧ v.sweep.state = .processing ∧ v.sweep.way = 7 ∧ v.soundSet v.sweep.cursor ∧
      v.noLost v.sweep.cursor ∧ v.wayLine v.sweep.cursor 7 = none ∧ v.sweep.criteria =
        [{ kind := .region, joinSet := 0, remaining := 1, skip := false }]) ∧
    (x.atRest ∧ x.running = true ∧ x.sweep.state = .processing ∧ x.sweep.way = 7 ∧ x.soundSet x.sweep.cursor ∧
      x.noLost x.sweep.cursor ∧ x.wayLine x.sweep.cursor 7 = some l ∧ x.busy l = none ∧ x.judgeLine l = [] ∧
      x.failedListed l none = [] ∧ x.sweep.criteria = [{ kind := .region, joinSet := 0, remaining := 1, skip := true }]) ∧
    (y.atRest ∧ y.running = true ∧ y.sweep.state = .processing ∧ y.sweep.way = 7 ∧ y.soundSet y.sweep.cursor ∧
      y.noLost y.sweep.cursor ∧ y.wayLine y.sweep.cursor 7 = none ∧ y.sweep.cursor.toNat % 64 = 63 ∧
      y.settings.sweepGap ≠ 0 ∧ y.sweep.criteria = [{ kind := .region, joinSet := 0, remaining := 2, skip := false }]) ∧
    (z.atRest ∧ z.running = true ∧ z.sweep.state = .processing ∧ z.sweep.way = 7 ∧ z.soundSet z.sweep.cursor ∧
      z.noLost z.sweep.cursor ∧ z.wayLine z.sweep.cursor 7 = none ∧ (z.port a).state = .failed ∧
      (z.port a).autoOffline = true ∧ (z.port a).holding = 0 ∧
      z.sweep.criteria = [{ kind := .strip a, joinSet := 0, remaining := 1, skip := false }]) :=
  ⟨0x12345, 4, 3, opened, pinnedLine.setEntry 11 (Entry.free 0) |>.modWay (setOf 0x12345) 3 (fun y =>
     { y with state := ⟨exclusive 4 none, 0⟩ }),
   sweepEnd opened 2047 [{ kind := .region, joinSet := 0, remaining := 1, skip := false }],
   sweepEnd (holding opened 0x12345 7 (shared 1)) (setOf 0x12345)
     [{ kind := .region, joinSet := 0, remaining := 1, skip := true }],
   sweepEnd opened 63 [{ kind := .region, joinSet := 0, remaining := 2, skip := false }],
   sweepEnd (opened.modPort 4 (fun p => { p with state := .failed, autoOffline := true })) 5
     [{ kind := .strip 4, joinSet := 0, remaining := 1, skip := false }], by decide +kernel⟩

/-- A set with one way in use whose stored words have these bits flipped. -/
def damagedSet (f1 f2 : BitVec 22) (fs : BitVec 18) (fo : BitVec 35) : ASet :=
  { ways := ASet.cleared.ways.set 6
      { tag1 := ⟨some (tagOf 0x12345), f1⟩, tag2 := ⟨some (tagOf 0x12345), f2⟩, state := ⟨shared 1, fs⟩ }
    order := ⟨[6], fo⟩ }

/-- The scrubber at that set. -/
def damaged (f1 f2 : BitVec 22) (fs : BitVec 18) (fo : BitVec 35) : State :=
  { scrubbing with
    scrub := { cursor := setOf 0x12345, passes := 0, timer := some 0 }
    sets := [((setOf 0x12345).toNat, damagedSet f1 f2 fs fo)] }

theorem damaged_lawful (f1 f2 : BitVec 22) (fs : BitVec 18) (fo : BitVec 35) : (damaged f1 f2 fs fo).recordsLawful := by
  refine lawful_set _ (damagedSet f1 f2 fs fo) ?_ ?_ rfl rfl ?_
  · exact ASet.lawful_install (x := ASet.cleared) ASet.lawful_cleared 6
      { tag1 := ⟨some (tagOf 0x12345), f1⟩, tag2 := ⟨some (tagOf 0x12345), f2⟩, state := ⟨shared 1, fs⟩ }
      (tagOf 0x12345) rfl rfl (by decide : (shared 1).lawful = true)
      (fun v _ => by simp [ASet.cleared, Way.cleared]) ⟨[6], fo⟩ (by simp [ASet.cleared])
  · intro e
    exact absurd (congrArg (fun x => x.order.value) e) (by simp [damagedSet, ASet.cleared])
  · intro e
    have h : ((damaged f1 f2 fs fo).entry e).copy = none :=
      (by decide +kernel : ∀ e : EntryNo, (scrubbing.entry e).copy = none) e
    rw [h]
    rfl

theorem test_meets_oneFlip_manyFlips : oneFlip (1#18 <<< 17) ∧ oneFlip (1#35 <<< 34) ∧ oneFlip (1#22 <<< 0) ∧
    manyFlips 3#18 ∧ manyFlips (1#35 <<< 34 ||| 1#35) ∧ manyFlips 0x300000#22 :=
  ⟨⟨17, by decide, rfl⟩, ⟨34, by decide, rfl⟩, ⟨0, by decide, rfl⟩, ⟨0, 1, by decide⟩, ⟨0, 34, by decide⟩,
   ⟨20, 21, by decide⟩⟩

theorem test_meets_DamagedWordsAreRepairedOrLost_soft :
    (∀ x ∈ [damaged 0 0 (1#18 <<< 17) 0, damaged 0x300000 0 0 0, damaged 0 1 0 0, damaged 0 0 0 (1#35 <<< 34),
        damaged 0 0 0 (1#35 <<< 34 ||| 1#35)],
      x.scrubReady ∧ x.noLost x.scrub.cursor ∧ (x.wayTag x.scrub.cursor 6).isSome ∧
      (x.mark x.scrub.cursor 6).disable = false ∧
      (∀ v : WayNo, v ≠ 6 → ((x.aset x.scrub.cursor).ways[v]).sound = true)) ∧
    ((damaged 0 0 0 3).aset (setOf 0x12345)).ways[6].sound = true := by decide +kernel

theorem test_meets_DamagedWordsAreRepairedOrLost_hard : ∃ (l : Line) (e : EntryNo) (r : Rec) (s u v : State),
    (∀ x ∈ [s, u], x.scrubReady ∧ x.noLost x.scrub.cursor ∧ x.wayLine x.scrub.cursor 6 = some l ∧
      (∀ v : WayNo, v ≠ 6 → ((x.aset x.scrub.cursor).ways[v]).sound = true) ∧
      (x.aset x.scrub.cursor).order.flips = 0) ∧
    (s.busy l = none ∧ s.rebuildClaims = []) ∧
    (u.busy l = some e ∧ (u.entry e).phase ≠ .starting ∧ (u.entry e).rebuild = false ∧ (u.entry e).copy = some r) ∧
    (v.scrubReady ∧ v.noLost v.scrub.cursor ∧ (v.mark v.scrub.cursor 6).disable = false ∧
      (∀ w : WayNo, w < 6 → ((v.aset v.scrub.cursor).ways[w]).sound = true)) :=
  ⟨0x12345, 6, shared 1, damaged 0 0 3 0, (damaged 0 0 3 0).setEntry 6 { reading with copy := some (shared 1) },
   damaged 3 3 0 0, by decide +kernel⟩

/-! ### Hypotheses that can be met: rebuilds and orphans -/

/-- A line whose state part is lost, its way due for disabling or not. -/
def lostLine (due : Bool) : State :=
  (holding opened 0x12345 3 (shared 0x3F)).putMark (setOf 0x12345) 3
    { strike := true, disable := false, lost := true, due := due }

theorem test_meets_RebuildsBroadcastAndEnd_broadcast : ∃ (e : EntryNo) (l : Line) (w : WayNo) (c : RebuildClaim)
    (rest : List RebuildClaim) (s : State), s.atRest ∧ s.running = true ∧ s.noHeadWaits ∧ s.tagsSound (setOf l) ∧
    s.lookup l = some w ∧ s.isLost (setOf l) w = true ∧ s.rebuildClaims = c :: rest ∧ c.line = l ∧
    s.freeEntry internalPool = some e ∧ s.busy l = none ∧ s.memOp e = none ∧ (∃ a, (s.port a).attached = true) ∧
    (∃ a, (s.port a).state = .failed) ∧ (∀ a, (s.port a).attached = true → (s.port a).ready) :=
  ⟨20, 0x12345, 3, { line := 0x12345, set := setOf 0x12345, way := 3 }, [],
   { (lostLine true).modPort 4 (fun p => { p with state := .failed }) with
     rebuildClaims := [{ line := 0x12345, set := setOf 0x12345, way := 3 }] }, by decide +kernel⟩

/-- Its REBUILD entry, which waits for A2's answer; A0 is noted FAILED, and A4 settled or not. -/
def lastAnswer (due : Bool) (n : Note) (m : Resp) : State :=
  arrived ((lostLine due).setEntry 20 { Entry.free 9 with
    kind := .rebuild, line := 0x12345, phase := .recalling, rebuild := true, reserved := some 3
    notes := #v[.failed, .neither, .neither, .neither, n, .neither]
    pending := (Vector.replicate 6 none).set 2 (some { kind := .return, placed := true }) }) 2 m

theorem lastAnswer_lawful (due : Bool) (n : Note) (m : Resp) : (lastAnswer due n m).recordsLawful :=
  lawful_mark (u := holding opened 0x12345 3 (shared 0x3F))
    (lawful_one 0x12345 3 (shared 0x3F) (by decide) rfl rfl (by decide +kernel)) (setOf 0x12345) 3
    { strike := true, disable := false, lost := true, due := due } rfl rfl rfl
    (copies_setEntry (s := opened) (by decide +kernel) rfl)

theorem test_meets_RebuildsBroadcastAndEnd_answer : ∃ (e : EntryNo) (l : Line) (w : WayNo) (b : Agent) (u : WayNo)
    (i : MemTagNo), ∀ due n m, (lastAnswer due n m).recordsLawful ∧
    (∀ s ∈ [lastAnswer true .neither (.recallAck 20 9 false), lastAnswer false .settled (.recallAck 20 9 true),
        lastAnswer true .settled (.recallData 20 9 77 false)],
      s.atRest ∧ s.running = true ∧ s.noHeadWaits ∧ s.tagsSound (setOf l) ∧ s.lookup l = some w ∧
      s.isLost (setOf l) w = true ∧ s.busy l = some e ∧ s.owingBuffer l = none ∧ s.noneAwaiting (setOf l) ∧
      s.entry e = { s.entry e with
        kind := .rebuild, origin := none, mask := 0, deferred := [], reserved := some w, recheck := false
        reply := .none, poisonOwed := false, rebuild := true, breaking := false } ∧
      (∀ a : Agent, (s.entry e).notes[a] = .failed → (s.port a).state ≠ .draining) ∧
      (s.entry e).phase = .recalling ∧ (s.entry e).data = .none ∧ (s.entry e).wrote = false ∧ s.memOp e = none ∧
      (s.entry e).pending = (Vector.replicate 6 none).set b (some { kind := .return, placed := true }) ∧
      (s.entry e).notes[b] ≠ .failed ∧ (s.port b).state = .online ∧ s.freeSearch (setOf l) = some u ∧ s.tagReady l i) ∧
    (lastAnswer true .neither (.recallAck 20 9 false)).takesHead b (.recallAck (entryByte e) 9 false) ∧
    (lastAnswer false .settled (.recallAck 20 9 true)).takesHead b (.recallAck (entryByte e) 9 true) ∧
    (lastAnswer true .settled (.recallData 20 9 77 false)).takesHead b (.recallData (entryByte e) 9 77 false) :=
  ⟨20, 0x12345, 3, 2, 0, 0, fun due n m => ⟨lastAnswer_lawful due n m, by decide +kernel⟩⟩

/-- Its write out under tag 5. -/
def rebuildWrites : State :=
  (issued (lastAnswer true .settled (.drop 5)) 5 { claimant := .entry 20, write := true, line := 0x12345 }).modEntry 20
    (fun x => { x with
      phase := .writingMemory, data := .fromHolder, wrote := true, pending := Vector.replicate 6 none })

theorem test_meets_RebuildsBroadcastAndEnd_written : ∃ (e : EntryNo) (l : Line) (w : WayNo) (i : MemTagNo) (left : Nat)
    (s : State), s.recordsLawful ∧ (∀ j o, j ≠ i → (s.tag j).op = some o → o.claim.claimant ≠ .entry e) ∧ s.atRest ∧
    s.running = true ∧ s.noHeadWaits ∧ s.tagsSound (setOf l) ∧ s.lookup l = some w ∧ s.isLost (setOf l) w = true ∧
    s.busy l = some e ∧ s.owingBuffer l = none ∧ s.noneAwaiting (setOf l) ∧
    s.entry e = { s.entry e with
      kind := .rebuild, origin := none, mask := 0, deferred := [], reserved := some w, recheck := false
      reply := .none, poisonOwed := false, rebuild := true, breaking := false } ∧
    (∀ a : Agent, (s.entry e).notes[a] = .failed → (s.port a).state ≠ .draining) ∧
    (s.entry e).phase = .writingMemory ∧ (s.entry e).pending = Vector.replicate 6 none ∧
    (s.tag i).op = some { claim := { claimant := .entry e, write := true, line := l }, issued := true, left := left } ∧
    s.claimQueue = [] ∧ (s.freeSearch (setOf l)).isSome = true :=
  ⟨20, 0x12345, 3, 5, 3, rebuildWrites,
   lawful_mark (u := holding opened 0x12345 3 (shared 0x3F))
     (lawful_one 0x12345 3 (shared 0x3F) (by decide) rfl rfl (by decide +kernel)) (setOf 0x12345) 3
     { strike := true, disable := false, lost := true, due := true } rfl rfl rfl (by decide +kernel),
   only_tag (by decide +kernel), by decide +kernel⟩

/-- One entry of A3 active, with a request of A3 deferred on it. -/
def ofA3 (s : State) (x : Entry) : State :=
  s.setEntry 6 { x with origin := some (3, 1), line := 0x12345, deferred := [plainRequest 3 .readOwn 5 0x12345 0] }

theorem test_meets_AgentFailureOrphansEntries_own : ∃ (a : Agent) (e : EntryNo) (l : Line) (label : Label) (m : OutMsg)
    (i : MemTagNo) (s u : State),
    (∀ x ∈ [s, u], x.atRest ∧ x.running = true ∧ (∀ b, b ≠ a → (x.port b).headWaits = false) ∧
      (x.port a).state = .online ∧ (∀ f, f ≠ e → (x.entry f).phase = .free) ∧ x.bufferWaiters = [] ∧ x.capture = none ∧
      x.entry e = { x.entry e with line := l, poisonOwed := false, rebuild := false, saves := false }) ∧
    (s.entry e = { s.entry e with
        kind := .req .lockedRead, origin := some (a, label), phase := .readingMemory, pending := Vector.replicate 6 none
        data := .none, reply := .none } ∧
      (s.port a).waiters = [] ∧ s.memOp e = some false) ∧
    (u.entry e = { u.entry e with
        kind := .req .readOwn, origin := some (a, label), phase := .replying, pending := Vector.replicate 6 none
        data := .fromHolder, reply := .waiting, wrote := false } ∧
      (u.port a).waiters = [{ producer := .reply e, msg := m }] ∧ u.memOp e = none ∧ u.lineRec l = none ∧
      u.tagReady l i) :=
  ⟨3, 6, 0x12345, 1, .grantExclusive 1 0x12345 [] false, 0,
   ofA3 (issued opened 5 { claimant := .entry 6, write := false, line := 0x12345 })
     { Entry.free 9 with kind := .req .lockedRead, phase := .readingMemory, pinCounted := true },
   ofA3 (opened.modPort 3 (fun p => { p with
       output := List.replicate 16 .joinAck
       waiters := [{ producer := .reply 6, msg := .grantExclusive 1 0x12345 [] false }] }))
     { Entry.free 9 with kind := .req .readOwn, phase := .replying, data := .fromHolder, reply := .waiting },
   by decide +kernel⟩

theorem test_meets_AgentFailureOrphansEntries_other : ∃ (a c : Agent) (e : EntryNo) (l : Line) (label : Label) (w : WayNo)
    (h : AgentSet) (s : State), s.recordsLawful ∧ s.atRest ∧ s.running = true ∧
    (∀ b, b ≠ a → (s.port b).headWaits = false) ∧ (s.port a).state = .online ∧
    (∀ f, f ≠ e → (s.entry f).phase = .free) ∧ s.bufferWaiters = [] ∧ s.capture = none ∧
    s.entry e = { s.entry e with line := l, poisonOwed := false, rebuild := false, saves := false } ∧ c ≠ a ∧
    s.entry e = { s.entry e with
      kind := .req .readOwn, origin := some (c, label), phase := .readingMemory, data := .none, reply := .none
      orphaned := false } ∧
    (s.entry e).pending[a] = some { kind := .invalidate, placed := true } ∧ (s.port a).waiters = [] ∧
    s.memOp e = some false ∧ s.calm (setOf l) ∧
    s.lineRec l = some (w, { state := .shared, holders := h, pin := none }) ∧ AgentSet.has h a ∧
    AgentSet.remove h a ≠ 0 :=
  ⟨2, 1, 6, 0x12345, 4, 5, 0x0C, invalidating,
   lawful_one 0x12345 5 (shared 0x0C) (by decide) rfl rfl (by decide +kernel), by decide +kernel⟩

theorem test_meets_AgentFailureOrphansEntries_data : ∃ (i : MemTagNo) (e : EntryNo) (a : Agent) (label : Label) (l : Line)
    (w : WayNo) (left : Nat) (s : State), (∀ j o, j ≠ i → (s.tag j).op = some o → o.claim.claimant ≠ .entry e) ∧
    s.atRest ∧ s.running = true ∧ s.noHeadWaits ∧
    (s.tag i).op = some { claim := { claimant := .entry e, write := false, line := l }, issued := true, left := left } ∧
    (s.entry e).kind = .req .readOwn ∧
    s.entry e = { s.entry e with
      origin := some (a, label), line := l, phase := .readingMemory, pending := Vector.replicate 6 none, data := .none
      deferred := [], reserved := some w, recheck := false, orphaned := true, reply := .none, poisonOwed := false
      rebuild := false, breaking := false, saves := false } ∧
    s.noneAwaiting (setOf l) ∧ s.claimQueue = [] ∧ s.owingBuffer l = none :=
  ⟨5, 6, 1, 4, 0x12345, 2, 3,
   (issued opened 5 { claimant := .entry 6, write := false, line := 0x12345 }).setEntry 6
     { reading with orphaned := true, reserved := some 2 },
   only_tag (by decide +kernel), by decide +kernel⟩

/-! ### Hypotheses that can be met: maintenance -/

/-- A command in execution. -/
def executing (b : Bool) : State :=
  { ready with executing := some { command := .clearUnit, answer := { status := .ok, data := [] }, discard := b } }

theorem test_meets_FrameEvents_busy : ∃ (c : Instr) (k : MaintCmd) (x : Execution) (s : State),
    s.resetPin = false ∧ s.executing = some x ∧ c.maintenance = some k :=
  ⟨.captureRead, .captureRead, _, executing false, rfl, rfl, rfl⟩

theorem test_meets_FrameEvents : ∃ (x y : Execution) (s u v : State), (s.resetPin = false ∧ s.executing = none) ∧
    (u.resetPin = false ∧ u.executing = some x ∧ x.discard = false) ∧
    (v.resetPin = false ∧ v.executing = some y ∧ y.discard = true) :=
  ⟨_, _, ready, executing false, executing true, ⟨rfl, rfl⟩, ⟨rfl, rfl, rfl⟩, ⟨rfl, rfl, rfl⟩⟩

theorem test_meets_frameReady : ∃ s u : State, (s.frameReady ∧ s.running = true ∧ s.capture = none) ∧
    (u.frameReady ∧ u.running = false ∧ u.capture ≠ none) :=
  ⟨ready, { ready with unitState := .lost, capture := some (Report.blank .tagLost 4) }, by decide +kernel⟩

theorem test_meets_RegisterWordsAreReadAsTheyStand_index : ready.frameReady ∧ (27 : Byte).toNat ≤ 27 ∧ 27 < (28 : Byte).toNat := by
  decide +kernel

theorem test_meets_RegisterWordsAreReadAsTheyStand : ∃ (a : Agent) (s : State), (s.port a).holding ≤ 16384 ∧
    (s.port a).holding = 16384 ∧ s.pinCount ≤ 4 ∧ s.pinCount = 4 :=
  ⟨5, ([0, 1, 2, 3] : List EntryNo).foldl (fun s e => s.setEntry e { reading with pinCounted := true })
    (ready.modPort 5 (fun p => { p with holding := 16384 })), by decide +kernel⟩

theorem test_meets_WordsAreWritten : ready.frameReady ∧ (65535 : BitVec 32).toNat ≤ 65535 ∧
    65535 < (65536 : BitVec 32).toNat ∧ (10 ≤ (10 : Byte).toNat ∧ (27 : Byte).toNat ≤ 27) ∧ 27 < (28 : Byte).toNat := by
  decide +kernel

theorem test_meets_InspectShowsAWay : ∃ (set : BitVec 16) (way : Byte) (n : SetNo) (w : WayNo) (t : RecTag)
    (s u v : State), set.toNat = n.toNat ∧ way.toNat = w.val ∧
    (s.frameReady ∧ s.running = true ∧ s.calm n ∧ (s.mark n w).disable = true) ∧
    (u.frameReady ∧ u.running = true ∧ u.calm n ∧ (u.mark n w).disable = false ∧ u.wayTag n w = none) ∧
    (v.frameReady ∧ v.running = true ∧ v.calm n ∧ v.wayTag n w = some t) :=
  ⟨2047, 7, 2047, 7, 0, { opened with marks := [(16383, { Marks.clear with disable := true })] }, opened,
   holding opened 2047 7 (shared 3), by decide +kernel⟩

theorem test_meets_RefusedCommandsChangeNothing : ∃ (k : MaintCmd) (s u : State), s.frameReady ∧
    (Instr.wayEnable 2048 0).maintenance = some k ∧ 2048 ≤ (2048 : BitVec 16).toNat ∧
    (u.frameReady ∧ u.running = false ∧ (Instr.wayEnable 2047 7).maintenance = some k ∧ (2047 : BitVec 16).toNat < 2048 ∧
      (7 : Byte).toNat < 8) :=
  ⟨.wayEnable, ready, { ready with unitState := .initializing }, by decide +kernel⟩

theorem test_meets_RefusedCommandsChangeNothing_inject : ready.frameReady ∧
    { ready with unitState := .lost }.frameReady ∧ { ready with unitState := .lost }.running = false ∧
    (∀ p ∈ [0, 1, 2, 3, 4], (Instr.inject 0 0 p 2 17 17).maintenance = some .inject) ∧
    (let bits := fun (p : Byte) => if p = 2 then 18 else if p = 3 then 35 else 22
     bits 0 ≤ (22 : Byte).toNat ∧ bits 1 ≤ (22 : Byte).toNat ∧ bits 2 ≤ (18 : Byte).toNat ∧ bits 3 ≤ (35 : Byte).toNat ∧
     (21 : Byte).toNat < bits 1 ∧ (17 : Byte).toNat < bits 2 ∧ (34 : Byte).toNat < bits 3) := by decide +kernel

/-! ### Hypotheses that can be met: regions -/

/-- Enabled, base 0xFFFE, size 2, readable by all, writable by A0. -/
def lastTwo : BitVec 64 := 0x03FFFE0000023F01

theorem test_meets_RegionReadReturnsTheSlot : ∃ (slot past : Byte) (g : SlotNo) (s t : State) (x : Execution),
    s.frameReady ∧ slot.toNat = g.val ∧ 16 ≤ past.toNat ∧ s.settings.regions = State.reset.settings.regions ∧
    exec (.regionWrite past lastTwo) s = .next t ∧ t.executing = some x ∧ x.answer.status = .badArg :=
  ⟨15, 16, 15, ready, ready.answered .regionWrite { status := .badArg, data := [] },
   { command := .regionWrite, answer := { status := .badArg, data := [] }, discard := false },
   by decide +kernel, by decide, by decide, rfl, rfl, rfl, rfl⟩

theorem test_meets_RegionWriteChecksItsArguments : ∃ (slot : Byte) (g : SlotNo) (s : State), s.frameReady ∧
    slot.toNat = g.val ∧ (regionOfBytes 0x0000000000000000).size = 0 ∧ 65536 < (regionOfBytes 0x0000000100010000).size ∧
    65536 < (regionOfBytes 0x03FFFF0000020000).base + (regionOfBytes 0x03FFFF0000020000).size ∧
    (AgentSet.has (regionOfBytes 0x0000000000010102).writeSet 1 = true ∧
      AgentSet.has (regionOfBytes 0x0000000000010102).readSet 1 = false) ∧
    (1 ≤ (regionOfBytes lastTwo).size ∧ (regionOfBytes lastTwo).size ≤ 65536 ∧
      (regionOfBytes lastTwo).base + (regionOfBytes lastTwo).size ≤ 65536 ∧
      (∀ a : Agent, AgentSet.has (regionOfBytes lastTwo).writeSet a = true →
        AgentSet.has (regionOfBytes lastTwo).readSet a = true) ∧
      opened.frameReady ∧ opened.overlapsOther g (regionOfBytes lastTwo) = true ∧
      s.overlapsOther g (regionOfBytes lastTwo) = false) ∧
    (regionOfBytes 0x0000000000010000).enabled = false ∧
    regionOf { oneRegion true with regions := ((oneRegion true).regions.set 15
      { enabled := true, base := 1, size := 2, readSet := 0, writeSet := 0, cacheable := true }) } 1024 =
      some { enabled := true, base := 1, size := 2, readSet := 0, writeSet := 0, cacheable := true } :=
  ⟨15, 15, ready, by decide +kernel⟩

theorem test_meets_EnabledRegionsDoNotOverlap : ∃ (slot : Byte) (d : BitVec 64) (g h : SlotNo) (s u : State),
    s.frameReady ∧ slot.toNat = g.val ∧ (regionOfBytes d).sound ∧ (regionOfBytes d).enabled = true ∧ h ≠ g ∧
    (s.region h).enabled = true ∧ (regionOfBytes d).overlaps (s.region h) = true ∧
    (u.frameReady ∧ ∀ h : SlotNo, h ≠ g → (u.region h).enabled = true → (regionOfBytes d).overlaps (u.region h) = false) :=
  ⟨15, lastTwo, 15, 0, opened, ready, by decide +kernel⟩

theorem test_meets_adjacent_regions : ∃ r q : Region, 1 ≤ r.size ∧ 1 ≤ q.size ∧ r.base + r.size = q.base :=
  ⟨{ Region.reset with size := 0xFFFE }, regionOfBytes lastTwo, by decide +kernel⟩

theorem test_meets_RegionWriteIsTaken : ∃ (slot : Byte) (d : BitVec 64) (g : SlotNo) (s u v : State),
    slot.toNat = g.val ∧ (regionOfBytes d).sound ∧
    (s.frameReady ∧ s.overlapsOther g (regionOfBytes d) = false ∧ s.running = false) ∧
    (u.frameReady ∧ u.overlapsOther g (regionOfBytes d) = false ∧ u.running = true ∧ (u.entry 0).phase ≠ .free ∧
      u.sweep.state = .idle ∧ (u.sweep.criteria.filter (fun d => d.kind == .region)).length ≤ 1) ∧
    (v.frameReady ∧ v.overlapsOther g (regionOfBytes d) = false ∧ v.running = true ∧ v.hasCriterion .region = true ∧
      (v.sweep.criteria.filter (fun d => d.kind == .region)).length ≤ 1) :=
  ⟨15, lastTwo, 15, { ready with unitState := .lost }, ready.setEntry 0 reading, sweeping ready 0x12345 3,
   by decide +kernel⟩

/-! ### Hypotheses that can be met: the other maintenance commands -/

theorem test_meets_PortResetActsByPortState : ∃ (agent : Byte) (a : Agent) (s u v x : State), agent.toNat = a.val ∧
    (s.frameReady ∧ s.running = true ∧ (s.port a).state = .offline) ∧
    (u.frameReady ∧ u.running = true ∧ (u.port a).state = .failed ∧ u.hasCriterion (.strip a) = true) ∧
    (v.frameReady ∧ v.running = true ∧ (v.port a).state = .failed ∧ v.hasCriterion (.strip a) = false) ∧
    (x.frameReady ∧ x.running = true ∧ (x.port a).state = .online) :=
  ⟨5, 5, ready.modPort 5 (fun p => { p with state := .offline }),
   { ready with
     ports := ready.ports.set 5 { Port.reset with state := .failed }
     sweep := { Sweep.reset with
       state := .processing, criteria := [{ kind := .strip 5, joinSet := 0, remaining := 9, skip := true }] } },
   ready.modPort 5 (fun p => { p with state := .failed }), ready, by decide +kernel⟩

theorem test_meets_ClearUnitDropsAllWork : ∃ (a : Agent) (s : State), s.frameReady ∧ (s.port a).state = .offline ∧
    (s.port 1).state ≠ .offline :=
  ⟨0, ready.modPort 0 (fun p => { p with state := .offline }), by decide +kernel⟩

theorem test_meets_InjectFlipsAStoredBit : ∃ (set : BitVec 16) (way i : Byte) (n : SetNo) (w : WayNo) (s : State),
    s.arrayLawful ∧ s.frameReady ∧ s.running = true ∧ set.toNat = n.toNat ∧ way.toNat = w.val ∧ i.toNat < 18 :=
  ⟨2047, 7, 17, 2047, 7, ready, lawful_empty rfl rfl, by decide +kernel⟩

theorem test_meets_ClearPoisonFreesTheRecord : ∃ (line : BitVec 32) (l : Line) (e : EntryNo) (w : WayNo)
    (s u v x : State), line.toNat = l.toNat ∧
    (s.frameReady ∧ s.running = true ∧ s.calm (setOf l) ∧ s.busy l = some e) ∧
    (u.frameReady ∧ u.running = true ∧ u.calm (setOf l) ∧ u.busy l = none ∧ u.lineRec l = none) ∧
    (v.frameReady ∧ v.running = true ∧ v.calm (setOf l) ∧ v.busy l = none ∧ v.lineRec l = some (w, shared 1) ∧
      (shared 1).state ≠ .poisoned) ∧ x.recordsLawful ∧
    (x.frameReady ∧ x.running = true ∧ x.calm (setOf l) ∧ x.busy l = none ∧ x.noneAwaiting (setOf l) ∧
      x.lineRec l = some (w, { state := .poisoned, holders := 0, pin := none })) :=
  ⟨0x12345, 0x12345, 6, 4, opened.setEntry 6 reading, opened, holding opened 0x12345 4 (shared 1),
   holding opened 0x12345 4 Rec.poisoned, by decide +kernel, by decide +kernel, by decide +kernel, by decide +kernel,
   lawful_one 0x12345 4 Rec.poisoned (by decide) rfl rfl (by decide +kernel), by decide +kernel⟩

theorem test_meets_WayEnableClearsTheMarks : ∃ (set : BitVec 16) (way : Byte) (n : SetNo) (w : WayNo) (s u v : State),
    set.toNat = n.toNat ∧ way.toNat = w.val ∧
    (s.frameReady ∧ s.running = true ∧ s.soundSet n ∧ (s.wayTag n w).isSome) ∧
    (u.frameReady ∧ u.running = true ∧ u.soundSet n ∧ u.isReserved n w = true) ∧ v.arrayLawful ∧
    (v.frameReady ∧ v.running = true ∧ v.soundSet n ∧ v.wayTag n w = none ∧ v.isReserved n w = false ∧ v.noneAwaiting n) :=
  ⟨2047, 7, 2047, 7, holding opened 2047 7 (shared 1), opened.setEntry 0 { reading with line := 2047, reserved := some 7 },
   opened, by decide, by decide, by decide +kernel, by decide +kernel, lawful_empty rfl rfl, by decide +kernel⟩

theorem test_meets_CaptureReadReturnsAndClears : ∃ (s u : State) (r : Report), (s.frameReady ∧ s.capture = none) ∧
    (u.frameReady ∧ u.capture = some r) :=
  ⟨ready, { ready with capture := some (Report.blank .protocol 4) }, _, ⟨by decide +kernel, rfl⟩, ⟨by decide +kernel, rfl⟩⟩

/-! ### Hypotheses that can be met: the laws -/

theorem test_meets_EveryStepKeepsTheRecordsLawful : ∃ s t : State, s.recordsLawful ∧ step s = .next t :=
  ⟨ready, _, lawful_none rfl rfl (by decide +kernel), rfl⟩

theorem test_meets_EveryStepKeepsTheQueuesBounded : ∃ s t : State, s.portsBounded ∧ s.countersBounded ∧ step s = .next t :=
  ⟨ready, _, by unfold State.portsBounded Port.bounded; decide +kernel, by unfold State.countersBounded; decide +kernel, rfl⟩

theorem test_meets_EveryStepKeepsTheSettingsLawful : ∃ s t : State, s.settings.lawful ∧ step s = .next t :=
  ⟨ready, _, by unfold Settings.lawful Settings.timersInRange Settings.regionsSound; decide +kernel, rfl⟩

theorem test_meets_EveryStepKeepsTheTableLawful : ∃ s t : State, s.tableLawful ∧ step s = .next t :=
  ⟨ready, _, State.tableLawful_allFree (by decide +kernel), rfl⟩

/-! ### Single steps on the states above -/

/-- R148: an INVALIDATE that was pending before the write fault, answered while the POISON is owed, frees the record of
its last sharer, and the POISON goes where the free-way search says. -/
theorem test_a_recall_from_before_the_fault_frees_the_record :
    (match exec (.responseHandlerRecallReply 2) (arrived ((holding opened 0x12345 3 (shared 4)).setEntry 6
       { Entry.free 9 with
         kind := .req .readOwn, origin := some (1, 4), line := 0x12345, phase := .recalling, orphaned := true, wrote := true
         data := .fromHolder, copy := some (shared 4), poisonOwed := true
         pending := (Vector.replicate 6 none).set 2 (some { kind := .invalidate, placed := true }) })
       2 (.recallAck 6 9 false)) with
     | .next t => t.lineRec 0x12345 == some (0, Rec.poisoned) && t.entry 6 == Entry.free 9
     | _ => false) = true := by decide +kernel

/-- R57, R160: a completion with recheck set judges by the region table, with no REGION criterion in the list. -/
theorem test_a_recheck_judges_after_REGION_has_left :
    (match exec (.responseHandlerRecallReply 2) (arrived ((holding ready 0x12345 3 (shared 0x0C)).setEntry 20
       { Entry.free 9 with
         kind := .sweepRecall, line := 0x12345, phase := .recalling, recheck := true
         pending := (Vector.replicate 6 none).set 2 (some { kind := .invalidate, placed := true }) })
       2 (.recallAck 20 9 true)) with
     | .next t => t.sweep.criteria == [] && (t.entry 20).kind == .sweepRecall &&
         (t.entry 20).pending[3] == some { kind := .invalidate, placed := true } &&
         t.lineRec 0x12345 == some (3, shared 8)
     | _ => false) = true := by decide +kernel

/-- R2, R191: the claim of CLEAR-POISON repairs a damaged tag copy before it finds the line busy. -/
theorem test_clear_poison_of_a_busy_line_verifies :
    (match exec (.clearPoison 0x12345) ((damaged 0 1 0 0).setEntry 6 { reading with copy := some (shared 1) }) with
     | .next t => ((t.aset (setOf 0x12345)).ways[6]).tag2.flips == 0 && t.counters.soft == 1 &&
         t.executing.map (fun x => x.answer.status) == some .busy
     | _ => false) = true := by decide +kernel

end Sys2Proof.Tests
end

section
/-! SUPPORT. The region commands at a frame that is taken: one rule for commands, the laws of region descriptors, and what
REGION-READ and REGION-WRITE answer. -/

namespace Sys2Proof.Machine

/-! ### A command at a frame that is taken (R188) -/

/-- What readiness for a frame says. -/
theorem State.frameReady_iff {s : State} : s.frameReady ↔ s.atRest ∧ s.executing = none := by
  simp [State.frameReady, Option.isNone_iff_eq_none]

/-- A state at rest has nothing to do at the end of an event. -/
theorem State.finish_atRest {s : State} (h : s.atRest) : s.finish = s := by
  obtain ⟨-, hwork, hports⟩ := State.atRest_iff.1 h
  exact State.finish_quiet hwork hports

/-- A command whose frame is taken, and whose effect leaves the unit at rest, executes with its answer. -/
theorem State.frame_command {s : State} (h : s.frameReady) (k : MaintCmd) (f : State → State × Answer)
    (hrest : (f s).1.atRest) : s.frame (fun s => s.command k f) = .next ((f s).1.answered k (f s).2) := by
  obtain ⟨hs, hidle⟩ := State.frameReady_iff.1 h
  have hreset : s.resetPin = false := (State.atRest_iff.1 hs).1
  simp [State.frame, State.command, hreset, hidle, State.finish_atRest hrest, State.answered]

@[simp] theorem State.answered_region (s : State) (k : MaintCmd) (x : Answer) (g : SlotNo) :
    (s.answered k x).region g = s.region g := rfl

@[simp] theorem State.answered_executing (s : State) (k : MaintCmd) (x : Answer) :
    (s.answered k x).executing = some { command := k, answer := x, discard := false } := rfl

/-! ### Slot arguments (R189) -/

theorem slotArg_of_toNat {slot : Byte} {g : SlotNo} (h : slot.toNat = g.val) : slotArg slot = some g := by
  simp [slotArg, h]

theorem slotArg_past {slot : Byte} (h : 16 ≤ slot.toNat) : slotArg slot = none := by
  simp [slotArg, h]

/-! ### Sound descriptors (R152) -/

/-- The first set is within the second when each of its agents is in the second. -/
theorem AgentSet.subset_iff (h k : AgentSet) :
    AgentSet.subset h k = true ↔ ∀ a : Agent, AgentSet.has h a = true → AgentSet.has k a = true := by
  simp only [AgentSet.subset, AgentSet.has, beq_iff_eq]
  constructor
  · intro hempty a ha
    have hbit : (h &&& ~~~k).getLsbD a.val = false := by rw [hempty]; exact BitVec.getLsbD_zero
    simpa [ha] using hbit
  · intro hsub
    refine BitVec.eq_of_getLsbD_eq fun i hi => ?_
    have hagent : h.getLsbD i = true → k.getLsbD i = true := hsub ⟨i, hi⟩
    by_cases hh : h.getLsbD i = true
    · simp [hagent hh]
    · simp [hh]

/-- The bound on the base alone follows from the others, a size being at least 1. -/
theorem Region.sound_iff (r : Region) :
    r.sound = true ↔ 1 ≤ r.size ∧ r.size ≤ 65536 ∧ r.base + r.size ≤ 65536 ∧
      ∀ a : Agent, AgentSet.has r.writeSet a = true → AgentSet.has r.readSet a = true := by
  simp only [Region.sound, Bool.and_eq_true, decide_eq_true_eq, AgentSet.subset_iff]
  rw [show Config.regionUnits = 65536 from rfl]
  constructor
  · rintro ⟨⟨⟨⟨hmin, hmax⟩, -⟩, hend⟩, hsets⟩
    exact ⟨hmin, hmax, hend, hsets⟩
  · rintro ⟨hmin, hmax, hend, hsets⟩
    exact ⟨⟨⟨⟨hmin, hmax⟩, by omega⟩, hend⟩, hsets⟩

/-! ### Overlap (R153) -/

theorem Region.overlaps_iff (r q : Region) :
    r.overlaps q = true ↔ r.base < q.base + q.size ∧ q.base < r.base + r.size := by
  simp [Region.overlaps]

/-- Regions that are not empty overlap in the greater of their bases, if at all. -/
theorem Region.overlaps_iff_common_unit {r q : Region} (hr : 1 ≤ r.size) (hq : 1 ≤ q.size) :
    r.overlaps q = true ↔ ∃ u, r.base ≤ u ∧ u < r.base + r.size ∧ q.base ≤ u ∧ u < q.base + q.size := by
  rw [Region.overlaps_iff]
  constructor
  · rintro ⟨hrq, hqr⟩
    exact ⟨max r.base q.base, by omega, by omega, by omega, by omega⟩
  · rintro ⟨u, hru, hur, hqu, huq⟩
    exact ⟨by omega, by omega⟩

theorem Region.overlaps_adjacent {r q : Region} (h : r.base + r.size = q.base) : r.overlaps q = false := by
  rw [Bool.eq_false_iff, ne_eq, Region.overlaps_iff]
  omega

/-- Only an enabled descriptor overlaps, and only an enabled slot other than its own. -/
theorem State.overlapsOther_iff (s : State) (g : SlotNo) (r : Region) :
    s.overlapsOther g r = true ↔
      r.enabled = true ∧ ∃ h : SlotNo, h ≠ g ∧ (s.region h).enabled = true ∧ r.overlaps (s.region h) = true := by
  simp [State.overlapsOther, Lawful.mem_slots, and_assoc]

/-- A disabled descriptor is compared with no slot. -/
theorem State.overlapsOther_disabled (s : State) (g : SlotNo) {r : Region} (h : r.enabled = false) :
    s.overlapsOther g r = false := by
  simp [State.overlapsOther, h]

/-! ### The taking of a descriptor (R154) -/

/-- A criterion that joins changes the sweep engine alone. -/
theorem State.sweepJoin_frame (s : State) (k : CritKind) : ∃ w, s.sweepJoin k = { s with sweep := w } := by
  unfold State.sweepJoin
  split
  · exact ⟨_, rfl⟩
  · exact ⟨s.sweep, rfl⟩

/-- A descriptor that is taken goes into its slot; besides, only entries and the sweep engine can change. -/
theorem State.takeRegion_frame (s : State) (g : SlotNo) (r : Region) : ∃ x w,
    s.takeRegion g r =
      { s with settings := { s.settings with regions := s.settings.regions.set g r }, entries := x, sweep := w } := by
  unfold State.takeRegion
  dsimp only
  split
  · obtain ⟨w, hw⟩ := State.sweepJoin_frame
      (s.set (fun t => { t with regions := t.regions.set g r })).recheckAll .region
    exact ⟨_, w, hw⟩
  · exact ⟨s.entries, s.sweep, rfl⟩

theorem State.takeRegion_region_same (s : State) (g : SlotNo) (r : Region) : (s.takeRegion g r).region g = r := by
  obtain ⟨x, w, htake⟩ := s.takeRegion_frame g r
  simp [htake, State.region]

theorem State.takeRegion_region_other (s : State) {g h : SlotNo} (r : Region) (hne : h ≠ g) :
    (s.takeRegion g r).region h = s.region h := by
  obtain ⟨x, w, htake⟩ := s.takeRegion_frame g r
  have hval : g.val ≠ h.val := fun e => hne (Fin.ext e.symm)
  simp [htake, State.region, Vector.getElem_set_ne, hval]

theorem State.takeRegion_atRest {s : State} (h : s.atRest) (g : SlotNo) (r : Region) : (s.takeRegion g r).atRest := by
  obtain ⟨x, w, htake⟩ := s.takeRegion_frame g r
  rw [htake]
  exact h

/-! ### What REGION-WRITE answers (R152, R153) -/

theorem State.regionWrite_pastSlot (s : State) {slot : Byte} (d : BitVec 64) (h : slotArg slot = none) :
    s.regionWrite slot d = (s, .only .badArg) := by
  simp [State.regionWrite, h]

theorem State.regionWrite_unsound (s : State) (slot : Byte) {d : BitVec 64} (h : (regionOfBytes d).sound = false) :
    s.regionWrite slot d = (s, .only .badArg) := by
  cases hslot : slotArg slot with
  | none => exact s.regionWrite_pastSlot d hslot
  | some g => simp [State.regionWrite, hslot, h]

theorem State.regionWrite_overlap {s : State} {slot : Byte} {d : BitVec 64} {g : SlotNo} (hslot : slotArg slot = some g)
    (hsound : (regionOfBytes d).sound = true) (hover : s.overlapsOther g (regionOfBytes d) = true) :
    s.regionWrite slot d = (s, .only .overlap) := by
  simp [State.regionWrite, hslot, hsound, hover]

theorem State.regionWrite_taken {s : State} {slot : Byte} {d : BitVec 64} {g : SlotNo} (hslot : slotArg slot = some g)
    (hsound : (regionOfBytes d).sound = true) (hover : s.overlapsOther g (regionOfBytes d) = false) :
    s.regionWrite slot d = (s.takeRegion g (regionOfBytes d), .only .ok) := by
  simp [State.regionWrite, hslot, hsound, hover]

/-- A REGION-WRITE is refused with nothing changed, or taken with OK. -/
theorem State.regionWrite_cases (s : State) (slot : Byte) (d : BitVec 64) :
    (∃ t, s.regionWrite slot d = (s, .only t) ∧ (t = .badArg ∨ t = .overlap)) ∨
      ∃ g, s.regionWrite slot d = (s.takeRegion g (regionOfBytes d), .only .ok) := by
  cases hslot : slotArg slot with
  | none => exact .inl ⟨.badArg, s.regionWrite_pastSlot d hslot, .inl rfl⟩
  | some g =>
    cases hsound : (regionOfBytes d).sound with
    | false => exact .inl ⟨.badArg, s.regionWrite_unsound slot hsound, .inl rfl⟩
    | true =>
      cases hover : s.overlapsOther g (regionOfBytes d) with
      | true => exact .inl ⟨.overlap, State.regionWrite_overlap hslot hsound hover, .inr rfl⟩
      | false => exact .inr ⟨g, State.regionWrite_taken hslot hsound hover⟩

/-! ### The two commands at a frame that is taken -/

/-- A REGION-READ changes nothing, in any unit state. -/
theorem exec_regionRead_ready {s : State} (h : s.frameReady) {slot : Byte} {x : Answer}
    (hx : s.regionRead slot = (s, x)) : exec (.regionRead slot) s = .next (s.answered .regionRead x) := by
  rw [exec_regionRead, State.frame_command h, hx]
  rw [hx]; exact (State.frameReady_iff.1 h).1

theorem exec_regionWrite_ready {s : State} (h : s.frameReady) (slot : Byte) (d : BitVec 64) :
    exec (.regionWrite slot d) s =
      .next ((s.regionWrite slot d).1.answered .regionWrite (s.regionWrite slot d).2) := by
  have hs : s.atRest := (State.frameReady_iff.1 h).1
  refine (exec_regionWrite slot d s).trans (State.frame_command h _ _ ?_)
  obtain ⟨t, hrefused, -⟩ | ⟨g, htaken⟩ := s.regionWrite_cases slot d
  · rw [hrefused]; exact hs
  · rw [htaken]; exact State.takeRegion_atRest hs g _

theorem exec_regionWrite_badArg {s : State} (h : s.frameReady) {slot : Byte} {d : BitVec 64}
    (hbad : slotArg slot = none ∨ (regionOfBytes d).sound = false) :
    exec (.regionWrite slot d) s = .next (s.answered .regionWrite { status := .badArg, data := [] }) := by
  rw [exec_regionWrite_ready h]
  obtain hslot | hsound := hbad
  · rw [s.regionWrite_pastSlot d hslot]; rfl
  · rw [s.regionWrite_unsound slot hsound]; rfl

theorem exec_regionWrite_overlap {s : State} (h : s.frameReady) {slot : Byte} {d : BitVec 64} {g : SlotNo}
    (hslot : slot.toNat = g.val) (hsound : (regionOfBytes d).sound = true)
    (hover : s.overlapsOther g (regionOfBytes d) = true) :
    exec (.regionWrite slot d) s = .next (s.answered .regionWrite { status := .overlap, data := [] }) := by
  rw [exec_regionWrite_ready h, State.regionWrite_overlap (slotArg_of_toNat hslot) hsound hover]; rfl

theorem exec_regionWrite_taken {s : State} (h : s.frameReady) {slot : Byte} {d : BitVec 64} {g : SlotNo}
    (hslot : slot.toNat = g.val) (hsound : (regionOfBytes d).sound = true)
    (hover : s.overlapsOther g (regionOfBytes d) = false) :
    exec (.regionWrite slot d) s =
      .next ((s.takeRegion g (regionOfBytes d)).answered .regionWrite { status := .ok, data := [] }) := by
  rw [exec_regionWrite_ready h, State.regionWrite_taken (slotArg_of_toNat hslot) hsound hover]; rfl

/-- A REGION-WRITE answered other than OK leaves every slot as it stood. -/
theorem exec_regionWrite_notOk_region {s t : State} (h : s.frameReady) {slot : Byte} {d : BitVec 64} {x : Execution}
    (hexec : exec (.regionWrite slot d) s = .next t) (hx : t.executing = some x) (hnot : x.answer.status ≠ .ok)
    (g : SlotNo) : t.region g = s.region g := by
  rw [exec_regionWrite_ready h] at hexec
  obtain rfl := Host.Outcome.next.inj hexec
  obtain rfl := Option.some.inj hx
  obtain ⟨u, hrefused, -⟩ | ⟨k, htaken⟩ := s.regionWrite_cases slot d
  · rw [hrefused]; rfl
  · exact absurd (by rw [htaken]; rfl) hnot

/-! ### The bytes of a descriptor (R155) -/

/-- Byte 0 of a descriptor: bit 0 enabled, bit 1 cacheable (R189). -/
theorem flagByte_eq (enabled cacheable : Bool) :
    (BitVec.ofBool enabled).setWidth 8 ||| ((BitVec.ofBool cacheable).setWidth 8 <<< 1) =
      (if enabled then 1 else 0) + (if cacheable then 2 else 0 : Byte) := by
  revert enabled cacheable; decide

/-- REGION-READ of a slot answers the bytes of its descriptor. -/
theorem exec_regionRead_slot {s : State} (h : s.frameReady) {slot : Byte} {g : SlotNo} (hslot : slot.toNat = g.val) :
    exec (.regionRead slot) s =
      .next (s.answered .regionRead { status := .ok, data := bytesOfRegion (s.region g) }) :=
  exec_regionRead_ready h (by simp [State.regionRead, slotArg_of_toNat hslot])

theorem exec_regionRead_past {s : State} (h : s.frameReady) {slot : Byte} (hslot : 16 ≤ slot.toNat) :
    exec (.regionRead slot) s = .next (s.answered .regionRead { status := .badArg, data := [] }) :=
  exec_regionRead_ready h (by simp [State.regionRead, slotArg_past hslot, Answer.only])

/-- While the table stands as power-on leaves it, every slot holds the reset descriptor (R150). -/
theorem State.region_of_reset {s : State} (h : s.settings.regions = State.reset.settings.regions) (g : SlotNo) :
    s.region g = Region.reset := by
  rw [State.region, h]
  exact Vector.getElem_replicate g.isLt

/-! ### The region check of a line in a region (R151, R156) -/

theorem inRange_of_regionOf {t : Settings} {l : Line} {r : Region} (h : regionOf t l = some r) : inRange t l = true := by
  simp [inRange, h]

theorem readRight_of_regionOf {t : Settings} {l : Line} {r : Region} (h : regionOf t l = some r) (a : Agent) :
    readRight t a l = AgentSet.has r.readSet a := by
  simp [readRight, h]

theorem regionCheck_no_readRight {t : Settings} {l : Line} {a : Agent} (hin : inRange t l = true)
    (hread : readRight t a l = false) (k : ReqKind) : regionCheck t k a l = some .protect := by
  simp [regionCheck, hin, hread]

end Sys2Proof.Machine
end

section
/-! The statements of the access regions settled. -/

namespace Sys2Proof.Machine

/-- Settles O45: the answer is read off the slot's bytes, and a REGION-WRITE not answered OK keeps every slot. -/
theorem regionReadReturnsTheSlot : Obligations.RegionReadReturnsTheSlot := by
  intro slot d s ready
  refine ⟨fun g hslot => ?read, exec_regionRead_past ready, fun hslot hreset => ?powerOn,
    fun t x hexec hx hstatus => ?kept⟩
  case read =>
    rw [exec_regionRead_slot ready hslot, bytesOfRegion, flagByte_eq]
  case powerOn =>
    rw [exec_regionRead_slot ready (g := ⟨slot.toNat, hslot⟩) rfl, State.region_of_reset hreset]
    rfl
  case kept =>
    refine exec_regionWrite_notOk_region ready hexec hx fun hok => ?_
    rw [hok] at hstatus
    simp at hstatus

/-- Settles O46: each listed fault of the arguments makes the descriptor unsound or the slot none (R152); without one it
is sound, and the overlap test decides. -/
theorem regionWriteChecksItsArguments : Obligations.RegionWriteChecksItsArguments := by
  refine ⟨fun slot d s ready => ⟨fun hbad => ?badArg, fun g hslot hmin hmax hend hsets => ?sound⟩,
    fun t l r k a hregion hempty => ?emptyReadSet⟩
  case badArg =>
    refine exec_regionWrite_badArg ready (hbad.imp slotArg_past fun hfault => ?_)
    rw [Bool.eq_false_iff, ne_eq, Region.sound_iff]
    rintro ⟨hmin, hmax, hend, hsets⟩
    obtain hsize | hsize | hbase | hpast | ⟨a, hwrite, hread⟩ := hfault
    · omega
    · omega
    · omega
    · omega
    · exact Bool.false_ne_true (hread.symm.trans (hsets a hwrite))
  case sound =>
    have hsound := (Region.sound_iff (regionOfBytes d)).2 ⟨hmin, hmax, hend, hsets⟩
    exact ⟨exec_regionWrite_overlap ready hslot hsound,
      fun hover => ⟨_, exec_regionWrite_taken ready hslot hsound hover, s.takeRegion_region_same g _, rfl⟩,
      s.overlapsOther_disabled g⟩
  case emptyReadSet =>
    have hin : inRange t l = true := inRange_of_regionOf hregion
    have hread : readRight t a l = false := by simp [readRight_of_regionOf hregion, hempty, AgentSet.has]
    exact ⟨hin, regionCheck_no_readRight hin hread k⟩

/-- Settles O47: overlap is a common unit, and the comparison is with the enabled slots other than the descriptor's own
(R153). -/
theorem enabledRegionsDoNotOverlap : Obligations.EnabledRegionsDoNotOverlap := by
  refine ⟨fun r q => Region.overlaps_iff_common_unit, fun r q => Region.overlaps_adjacent,
    fun slot d g h s ready hslot hsound hon hne hother hover => ?refused, fun slot d g s ready hslot hsound hclear => ?taken⟩
  case refused =>
    exact exec_regionWrite_overlap ready hslot hsound ((s.overlapsOther_iff g _).2 ⟨hon, h, hne, hother, hover⟩)
  case taken =>
    have hover : s.overlapsOther g (regionOfBytes d) = false := by
      rw [Bool.eq_false_iff, ne_eq, State.overlapsOther_iff]
      rintro ⟨hon, h, hne, hother, hlap⟩
      obtain hoff | hnone := hclear
      · exact Bool.false_ne_true (hoff.symm.trans hon)
      · exact Bool.false_ne_true ((hnone h hne hother).symm.trans hlap)
    exact ⟨_, exec_regionWrite_taken ready hslot hsound hover, s.takeRegion_region_same g _,
      fun h hne => s.takeRegion_region_other _ hne, rfl⟩

end Sys2Proof.Machine
end

section
/-! SUPPORT. How codes and line fields are read: memory replies of no known kind, tag and status bytes, and the line field
of an agent message. -/

namespace Sys2Proof.Machine

/-! ### Memory replies that are late (R144) -/

/-- Counting a late memory reply sets off no work, and is the whole event. -/
theorem State.event_countLateMem {s : State} (h : s.atRest) {f : State → State} (hf : f s = s.countLateMem) :
    s.event f = .next s.countLateMem := by
  obtain ⟨-, hwork, hports⟩ := State.atRest_iff.1 h
  rw [State.event_quiet h f (by rw [hf]; exact hwork) (by rw [hf]; exact hports), hf]

/-- A tag byte above 7 is no tag's number, so its reply is taken for no operation. -/
theorem State.takenOp_tagAbove (s : State) {tag : Byte} (h : 7 < tag.toNat) (use : UseNo) (write : Bool) :
    s.takenOp tag use write = none := by
  refine List.findSome?_eq_none_iff.2 fun t _ => ?_
  have hne : t.val ≠ tag.toNat := by omega
  cases hop : (s.tag t).op with
  | none => rfl
  | some o => simp [hne]

theorem State.memDataArrives_untaken {s : State} {tag : Byte} {use : UseNo} (h : s.takenOp tag use false = none)
    (status : Byte) (d : LineData) : s.memDataArrives tag use status d = s.countLateMem := by
  simp [State.memDataArrives, h]

theorem State.memDoneArrives_untaken {s : State} {tag : Byte} {use : UseNo} (h : s.takenOp tag use true = none)
    (status : Byte) : s.memDoneArrives tag use status = s.countLateMem := by
  simp [State.memDoneArrives, h]

theorem exec_unknownMemoryReply_late {s : State} (h : s.atRest) (kind : Byte) :
    exec (.unknownMemoryReply kind) s = .next s.countLateMem :=
  (exec_unknownMemoryReply kind s).trans (State.event_countLateMem h rfl)

theorem exec_memData_tagAbove {s : State} (h : s.atRest) {tag : Byte} (htag : 7 < tag.toNat) (use : UseNo)
    (status : Byte) (d : LineData) : exec (.memData tag use status d) s = .next s.countLateMem :=
  (exec_memData tag use status d s).trans
    (State.event_countLateMem h (State.memDataArrives_untaken (s.takenOp_tagAbove htag use false) status d))

theorem exec_memDone_tagAbove {s : State} (h : s.atRest) {tag : Byte} (htag : 7 < tag.toNat) (use : UseNo)
    (status : Byte) : exec (.memDone tag use status) s = .next s.countLateMem :=
  (exec_memDone tag use status s).trans
    (State.event_countLateMem h (State.memDoneArrives_untaken (s.takenOp_tagAbove htag use true) status))

/-! ### Status codes (R146, R147) -/

/-- MEM-DATA: a status other than GOOD (0) and CORRECTED (1) is taken as UNCORRECTABLE (2). -/
theorem State.memDataTaken_uncorrectable {status : Byte} (hgood : status ≠ 0) (hcorrected : status ≠ 1) (s : State)
    (c : MemClaim) (d : LineData) : s.memDataTaken c status d = s.memDataTaken c 2 d := by
  rw [State.memDataTaken, beq_false_of_ne hgood, beq_false_of_ne hcorrected]; rfl

/-- MEM-DONE: a status other than GOOD (0) is taken as FAILED (3). -/
theorem State.memDoneTaken_failed {status : Byte} (hgood : status ≠ 0) (s : State) (c : MemClaim) :
    s.memDoneTaken c status = s.memDoneTaken c 3 := by
  rw [State.memDoneTaken, beq_false_of_ne hgood]; rfl

theorem exec_memData_uncorrectable {status : Byte} (hgood : status ≠ 0) (hcorrected : status ≠ 1) (tag : Byte)
    (use : UseNo) (d : LineData) (s : State) :
    exec (.memData tag use status d) s = exec (.memData tag use 2 d) s := by
  simp only [exec_memData, State.memDataArrives, State.memDataTaken_uncorrectable hgood hcorrected]

theorem exec_memDone_failed {status : Byte} (hgood : status ≠ 0) (tag : Byte) (use : UseNo) (s : State) :
    exec (.memDone tag use status) s = exec (.memDone tag use 3) s := by
  simp only [exec_memDone, State.memDoneArrives, State.memDoneTaken_failed hgood]

/-! ### The line field (R195) -/

/-- Bits 26 to 31 of a line field name no part of the line. -/
theorem lineOfField_masked (v : LineField) : lineOfField (v &&& 0x03FFFFFF) = lineOfField v := by
  calc lineOfField (v &&& 0x03FFFFFF)
      = lineOfField v &&& (0x03FFFFFF#32).setWidth 26 := BitVec.setWidth_and
    _ = lineOfField v &&& BitVec.allOnes 26 := by rw [show (0x03FFFFFF#32).setWidth 26 = BitVec.allOnes 26 by decide]
    _ = lineOfField v := BitVec.and_allOnes

end Sys2Proof.Machine
end

section
/-! The statement of the codes and line fields settled. -/

namespace Sys2Proof.Machine

/-- Settles O30: a reply that names no tag is late, each status byte is read by the two or three codes R195 gives it, and
every agent message reads its line field through lineOfField, which drops bits 26 to 31. -/
theorem repliesAndLineFieldsAreReadByTheirCodes : Obligations.RepliesAndLineFieldsAreReadByTheirCodes := by
  refine ⟨fun tag use status d kind s rest => ⟨?unknownKind, fun htag => ?tagAbove⟩,
    fun tag use status d s => ⟨?dataStatus, ?doneStatus⟩, fun a k f d m u v s => ?lineField⟩
  case unknownKind => exact exec_unknownMemoryReply_late rest kind
  case tagAbove => exact ⟨exec_memData_tagAbove rest htag use status d, exec_memDone_tagAbove rest htag use status⟩
  case dataStatus => exact fun hgood hcorrected => exec_memData_uncorrectable hgood hcorrected tag use d s
  case doneStatus => exact fun hgood => exec_memDone_failed hgood tag use s
  case lineField =>
    simp only [exec_readShared, exec_readOwn, exec_upgrade, exec_uncachedRead, exec_uncachedWrite, exec_lockedRead,
      exec_writeback, exec_drop, exec_unpin, lineOfField_masked, and_self]

end Sys2Proof.Machine
end

section
/-! SUPPORT. Every command keeps the laws: one case per constructor of Instr over the lemmas of Laws/Keeps and
Laws/Lawful. -/

namespace Sys2Proof.Machine

namespace Lawful

variable {s t : State}

/-- An event whose effect is internal work keeps the laws. -/
theorem event_keeps (f : State → State) (hf : Keeps false s (f s)) (h : s.event f = .next t) : Lawful s t :=
  event s t f hf.lawful h

/-- A maintenance command whose effect keeps the laws keeps them with its frame. -/
theorem frame_command (k : MaintCmd) (f : State → State × Answer) (hf : Lawful s (f s).1)
    (h : s.frame (fun s => s.command k f) = .next t) : Lawful s t :=
  frame s t _ (command s k f hf) h

/-- The frame's own fields are not spoken of by any law (R187, R188). -/
theorem link_fields (s : State) (x : Option Execution) (y : Option Answer) :
    Lawful s { s with executing := x, answer := y } := same rfl rfl rfl (fun l => l) rfl rfl rfl

theorem answerBusy (s : State) (x : Execution) : Lawful s (s.answerBusy x) := link_fields s _ _

theorem abortFrame (s : State) : Lawful s s.abortFrame := link_fields s _ _

theorem unknownCommand (s : State) : Lawful s (match s.executing with
    | some x => s.answerBusy x
    | none => { s with answer := some (.only .badArg) }) := by
  split
  · exact answerBusy s _
  · exact link_fields s s.executing _

theorem commandWhileBusy (s : State) : Lawful s (match s.executing with
    | some x => s.answerBusy x
    | none => s) := by
  split
  · exact answerBusy s _
  · exact refl s

theorem endExecution (s : State) : Lawful s s.endExecution := by
  unfold State.endExecution
  split
  · exact link_fields s _ _
  · exact refl s

theorem unknownMessage (s : State) (a : Agent) :
    Keeps false s (if s.takes a then s.reportProtocol .unexpected a none none else s) := by
  split
  · exact (Keeps.refl s).reportProtocol _ _ _ _
  · exact Keeps.refl s

theorem resetRelease (s : State) :
    Lawful s (if s.resetPin then { s with resetPin := false }.followLinks.startWalk else s) := by
  split
  · exact ((same rfl rfl rfl (fun l => l) rfl rfl rfl : Lawful s { s with resetPin := false }).trans
      (followLinks _)).trans (startWalk _)
  · exact refl s

theorem clearAlerts (s : State) (v : BitVec 32) : Lawful s (s.clearAlerts v) := same rfl rfl rfl (fun l => l) rfl rfl rfl

theorem setAlertEnable (s : State) (v : BitVec 32) : Lawful s (s.setAlertEnable v) := set s _ (fun l => l)

/-- Every command keeps the laws. -/
theorem exec {c : Instr} (h : exec c s = .next t) : Lawful s t := by
  have k : Keeps false s s := Keeps.refl s
  cases c with
  | resetAssert =>
    rw [exec_resetAssert] at h
    cases h; exact powerOn s
  | resetRelease =>
    rw [exec_resetRelease] at h
    cases h; exact resetRelease s
  | clearWalkSet =>
    rw [exec_clearWalkSet] at h
    exact event s t _ (walkSet s) h
  | linkUp a =>
    rw [exec_linkUp] at h
    exact (recordLink s a true).trans (event _ t _ (linkRises _ a) h)
  | linkDown a =>
    rw [exec_linkDown] at h
    exact (recordLink s a false).trans (event _ t _ (linkFalls _ a) h)
  | readShared a label line first =>
    rw [exec_readShared] at h
    exact event_keeps _ (k.arriveRequest _) h
  | readOwn a label line first =>
    rw [exec_readOwn] at h
    exact event_keeps _ (k.arriveRequest _) h
  | upgrade a label line =>
    rw [exec_upgrade] at h
    exact event_keeps _ (k.arriveRequest _) h
  | uncachedRead a label line first =>
    rw [exec_uncachedRead] at h
    exact event_keeps _ (k.arriveRequest _) h
  | uncachedWrite a label line data mask =>
    rw [exec_uncachedWrite] at h
    exact event_keeps _ (k.arriveRequest _) h
  | lockedRead a label line first =>
    rw [exec_lockedRead] at h
    exact event_keeps _ (k.arriveRequest _) h
  | recallAck a entry use held =>
    rw [exec_recallAck] at h
    exact event_keeps _ (k.arriveResponse _ _) h
  | recallData a entry use data kept =>
    rw [exec_recallData] at h
    exact event_keeps _ (k.arriveResponse _ _) h
  | writeback a line data =>
    rw [exec_writeback] at h
    exact event_keeps _ (k.arriveResponse _ _) h
  | drop a line =>
    rw [exec_drop] at h
    exact event_keeps _ (k.arriveResponse _ _) h
  | unpin a line data =>
    rw [exec_unpin] at h
    exact event_keeps _ (k.arriveResponse _ _) h
  | join a =>
    rw [exec_join] at h
    exact event_keeps _ (k.joinPort a) h
  | leave a =>
    rw [exec_leave] at h
    exact event_keeps _ (k.leavePort a) h
  | unknownMessage a kind =>
    rw [exec_unknownMessage] at h
    exact event_keeps _ (unknownMessage s a) h
  | outputMessageSent a =>
    rw [exec_outputMessageSent] at h
    exact event_keeps _ (k.messageSent a) h
  | admissionExamine a =>
    rw [exec_admissionExamine] at h
    refine event_keeps _ ?_ h
    unfold State.admissionExamine
    split
    · exact k
    · exact (k.examine a).push _
  | internalPoolGrant =>
    rw [exec_internalPoolGrant] at h
    exact event s t _ (grantInternal s) h
  | responseHandlerRecallReply a =>
    rw [exec_responseHandlerRecallReply] at h
    exact event_keeps _ (k.handle a _) h
  | responseHandlerWriteback a =>
    rw [exec_responseHandlerWriteback] at h
    exact event_keeps _ (k.handle a _) h
  | responseHandlerDrop a =>
    rw [exec_responseHandlerDrop] at h
    exact event_keeps _ (k.handle a _) h
  | responseHandlerUnpin a =>
    rw [exec_responseHandlerUnpin] at h
    exact event_keeps _ (k.handle a _) h
  | recallTimerExpiry a entry use =>
    rw [exec_recallTimerExpiry] at h
    exact event_keeps _ (k.recallExpires a entry use) h
  | memData tag use status data =>
    rw [exec_memData] at h
    exact event_keeps _ (k.memDataArrives tag use status data) h
  | memDone tag use status =>
    rw [exec_memDone] at h
    exact event_keeps _ (k.memDoneArrives tag use status) h
  | memoryTimerExpiry tag =>
    rw [exec_memoryTimerExpiry] at h
    exact event_keeps _ (k.memTimeout tag) h
  | pinTimerExpiry entry =>
    rw [exec_pinTimerExpiry] at h
    exact event_keeps _ (k.pinExpires entry) h
  | scrubIntervalExpiry =>
    rw [exec_scrubIntervalExpiry] at h
    exact event_keeps _ k.scrubExpires h
  | sweepRead =>
    rw [exec_sweepRead] at h
    exact event s t _ (sweepWay s) h
  | sweepGapExpiry =>
    rw [exec_sweepGapExpiry] at h
    exact event s t _ (gapExpires s) h
  | frameAborted =>
    rw [exec_frameAborted] at h
    exact frame s t _ (abortFrame s) h
  | unknownCommand byte =>
    rw [exec_unknownCommand] at h
    exact frame s t _ (unknownCommand s) h
  | commandWhileBusy =>
    rw [exec_commandWhileBusy] at h
    exact frame s t _ (commandWhileBusy s) h
  | readWord index =>
    rw [exec_readWord] at h
    refine frame_command _ _ ?_ h
    unfold State.readWord
    split <;> exact refl s
  | writeWord index value =>
    rw [exec_writeWord] at h
    exact frame_command _ _ (writeWord s index value) h
  | writeAlertPending value =>
    rw [exec_writeAlertPending] at h
    exact frame_command _ _ (clearAlerts s value) h
  | writeAlertEnable value =>
    rw [exec_writeAlertEnable] at h
    exact frame_command _ _ (setAlertEnable s value) h
  | scrubEnable on =>
    rw [exec_scrubEnable] at h
    exact frame_command _ _ (setConfig s _ _) h
  | soleReaderExclusive on =>
    rw [exec_soleReaderExclusive] at h
    exact frame_command _ _ (setConfig s _ _) h
  | inspect set way =>
    rw [exec_inspect] at h
    exact frame_command _ _ (inspect s set way) h
  | regionRead slot =>
    rw [exec_regionRead] at h
    exact frame_command _ _ (regionRead s slot) h
  | regionWrite slot descriptor =>
    rw [exec_regionWrite] at h
    exact frame_command _ _ (regionWrite s slot descriptor) h
  | portReset agent =>
    rw [exec_portReset] at h
    exact frame_command _ _ (portReset s agent) h
  | clearUnit =>
    rw [exec_clearUnit] at h
    exact frame_command _ _ (clearUnit s) h
  | inject set way part count bitA bitB =>
    rw [exec_inject] at h
    exact frame_command _ _ (inject s set way part count bitA bitB) h
  | clearPoison line =>
    rw [exec_clearPoison] at h
    exact frame_command _ _ (clearPoison s line) h
  | wayEnable set way =>
    rw [exec_wayEnable] at h
    exact frame_command _ _ (wayEnable s set way) h
  | captureRead =>
    rw [exec_captureRead] at h
    exact frame_command _ _ (captureRead s) h
  | unknownMemoryReply kind =>
    rw [exec_unknownMemoryReply] at h
    exact event_keeps _ k.countLateMem h
  | commandExecutionEnd =>
    rw [exec_commandExecutionEnd] at h
    exact frame s t _ (endExecution s) h

/-- The queue of commands is not spoken of by any law. -/
theorem pending (s : State) (l : List Instr) : Lawful s { s with pending := l } := same rfl rfl rfl (fun l => l) rfl rfl rfl

/-- Every step keeps the laws: a command from the front of the queue, or a microsecond of time. -/
theorem step (h : step s = .next t) : Lawful s t := by
  unfold Machine.step at h
  split at h
  · cases h; exact tick s
  · next c rest _ => exact (pending s rest).trans (exec h)

end Lawful

/-! ### What the law of the table says in the spec's numbers -/

/-- Agents that differ are at most six. -/
theorem length_le_six_of_nodup_agents {l : List Agent} (h : l.Nodup) : l.length ≤ 6 := by
  simpa using h.length_le_card

theorem Entry.deferred_length_le {x : Entry} (h : x.lawful) : x.deferred.length ≤ 6 := by
  simpa using length_le_six_of_nodup_agents h.1.1

end Sys2Proof.Machine
end

section
/-! The invariants of every step settled. -/

namespace Sys2Proof.Machine

/-- Settles O57: every step keeps the laws, the record law among them. -/
theorem everyStepKeepsTheRecordsLawful : Obligations.EveryStepKeepsTheRecordsLawful :=
  fun _ _ hlaw hstep => (Lawful.step hstep).law hlaw

/-- Settles O58: every step keeps the laws of the queues and of the counters. -/
theorem everyStepKeepsTheQueuesBounded : Obligations.EveryStepKeepsTheQueuesBounded :=
  fun _ _ hports hcounters hstep => ⟨(Lawful.step hstep).ports hports, (Lawful.step hstep).counters hcounters⟩

/-- Settles O59: every step keeps the law of the settings. -/
theorem everyStepKeepsTheSettingsLawful : Obligations.EveryStepKeepsTheSettingsLawful :=
  fun _ _ hlaw hstep => (Lawful.step hstep).settings hlaw

/-- Settles O60: every step keeps the law of the table, whose bounds are the spec's; six deferred, as the agents of a
deferred list differ. -/
theorem everyStepKeepsTheTableLawful : Obligations.EveryStepKeepsTheTableLawful := by
  intro s t hlaw hstep
  have ht : t.tableLawful := (Lawful.step hstep).table hlaw
  obtain ⟨hline, hentries, hpins, hplaces⟩ := ht
  exact ⟨⟨hline, hentries, hpins, hplaces⟩, hline,
    fun e => ⟨Entry.deferred_length_le (hentries e), (hentries e).2⟩, hpins, hplaces⟩

end Sys2Proof.Machine
end

section
/-! SUPPORT. The algebra of the named updates of State: internal work set apart from the rest, two writes of one item, writes of
different items in either order, and what an item reads as it stands. -/

namespace Sys2Proof.Machine

variable (s : State)

/-! ### Internal work set apart -/

/-- The state with this internal work due. -/
def State.due (s : State) (l : List Task) : State := { s with work := l }

@[simp] theorem State.due_resetPin (l : List Task) : (s.due l).resetPin = s.resetPin := rfl
@[simp] theorem State.due_physLink (l : List Task) : (s.due l).physLink = s.physLink := rfl
@[simp] theorem State.due_unitState (l : List Task) : (s.due l).unitState = s.unitState := rfl
@[simp] theorem State.due_walk (l : List Task) : (s.due l).walk = s.walk := rfl
@[simp] theorem State.due_sets (l : List Task) : (s.due l).sets = s.sets := rfl
@[simp] theorem State.due_marks (l : List Task) : (s.due l).marks = s.marks := rfl
@[simp] theorem State.due_ports (l : List Task) : (s.due l).ports = s.ports := rfl
@[simp] theorem State.due_entries (l : List Task) : (s.due l).entries = s.entries := rfl
@[simp] theorem State.due_position (l : List Task) : (s.due l).position = s.position := rfl
@[simp] theorem State.due_rebuildClaims (l : List Task) : (s.due l).rebuildClaims = s.rebuildClaims := rfl
@[simp] theorem State.due_awaiting (l : List Task) : (s.due l).awaiting = s.awaiting := rfl
@[simp] theorem State.due_buffers (l : List Task) : (s.due l).buffers = s.buffers := rfl
@[simp] theorem State.due_bufferWaiters (l : List Task) : (s.due l).bufferWaiters = s.bufferWaiters := rfl
@[simp] theorem State.due_tags (l : List Task) : (s.due l).tags = s.tags := rfl
@[simp] theorem State.due_claimQueue (l : List Task) : (s.due l).claimQueue = s.claimQueue := rfl
@[simp] theorem State.due_memSent (l : List Task) : (s.due l).memSent = s.memSent := rfl
@[simp] theorem State.due_settings (l : List Task) : (s.due l).settings = s.settings := rfl
@[simp] theorem State.due_sweep (l : List Task) : (s.due l).sweep = s.sweep := rfl
@[simp] theorem State.due_scrub (l : List Task) : (s.due l).scrub = s.scrub := rfl
@[simp] theorem State.due_capture (l : List Task) : (s.due l).capture = s.capture := rfl
@[simp] theorem State.due_counters (l : List Task) : (s.due l).counters = s.counters := rfl
@[simp] theorem State.due_alertPending (l : List Task) : (s.due l).alertPending = s.alertPending := rfl
@[simp] theorem State.due_unitTime (l : List Task) : (s.due l).unitTime = s.unitTime := rfl
@[simp] theorem State.due_executing (l : List Task) : (s.due l).executing = s.executing := rfl
@[simp] theorem State.due_answer (l : List Task) : (s.due l).answer = s.answer := rfl
@[simp] theorem State.due_pending (l : List Task) : (s.due l).pending = s.pending := rfl
@[simp] theorem State.due_work (l : List Task) : (s.due l).work = l := rfl
@[simp] theorem State.due_port (l : List Task) (i : Agent) : (s.due l).port i = s.port i := rfl
@[simp] theorem State.due_entry (l : List Task) (i : EntryNo) : (s.due l).entry i = s.entry i := rfl
@[simp] theorem State.due_buffer (l : List Task) (i : BufferNo) : (s.due l).buffer i = s.buffer i := rfl
@[simp] theorem State.due_tag (l : List Task) (i : MemTagNo) : (s.due l).tag i = s.tag i := rfl
@[simp] theorem State.due_aset (l : List Task) (i : SetNo) : (s.due l).aset i = s.aset i := rfl
@[simp] theorem State.due_mark (l : List Task) (i : SetNo) (j : WayNo) : (s.due l).mark i j = s.mark i j := rfl
@[simp] theorem State.due_running (l : List Task) : (s.due l).running = s.running := rfl

theorem State.due_self {s : State} {l : List Task} (h : s.work = l) : s.due l = s := s.withWork l h
@[simp] theorem State.due_due (k l : List Task) : (s.due k).due l = s.due l := rfl
@[simp] theorem State.due_push (l : List Task) (t : Task) : (s.due l).push t = s.due (l ++ [t]) := rfl
theorem State.push_eq_due (t : Task) : s.push t = s.due (s.work ++ [t]) := rfl

@[simp] theorem State.due_setPort (l : List Task) (a : Agent) (p : Port) :
    (s.due l).setPort a p = (s.setPort a p).due l := rfl
@[simp] theorem State.due_setEntry (l : List Task) (e : EntryNo) (x : Entry) :
    (s.due l).setEntry e x = (s.setEntry e x).due l := rfl
@[simp] theorem State.due_setBuffer (l : List Task) (b : BufferNo) (x : WbBuffer) :
    (s.due l).setBuffer b x = (s.setBuffer b x).due l := rfl
@[simp] theorem State.due_setTag (l : List Task) (i : MemTagNo) (x : MemTag) :
    (s.due l).setTag i x = (s.setTag i x).due l := rfl
@[simp] theorem State.due_putSet (l : List Task) (n : SetNo) (x : ASet) :
    (s.due l).putSet n x = (s.putSet n x).due l := rfl
@[simp] theorem State.due_putMark (l : List Task) (n : SetNo) (w : WayNo) (m : Marks) :
    (s.due l).putMark n w m = (s.putMark n w m).due l := rfl
@[simp] theorem State.due_raise (l : List Task) (c : Nat) : (s.due l).raise c = (s.raise c).due l := rfl

/-! ### Two writes of one item -/

@[simp] theorem State.setPort_setPort (a : Agent) (p q : Port) : (s.setPort a p).setPort a q = s.setPort a q := by
  simp [State.setPort, Vector.set_set]

@[simp] theorem State.setEntry_setEntry (e : EntryNo) (x y : Entry) : (s.setEntry e x).setEntry e y = s.setEntry e y := by
  simp [State.setEntry, Vector.set_set]

@[simp] theorem State.setBuffer_setBuffer (b : BufferNo) (x y : WbBuffer) :
    (s.setBuffer b x).setBuffer b y = s.setBuffer b y := by
  simp [State.setBuffer, Vector.set_set]

@[simp] theorem State.setTag_setTag (i : MemTagNo) (x y : MemTag) : (s.setTag i x).setTag i y = s.setTag i y := by
  simp [State.setTag, Vector.set_set]

/-- Two writes of one key of a canonical store: the second. -/
theorem storePut_put {β : Type} [DecidableEq β] {d : β} {m : List (Nat × β)} (w : storeWf d m) (k : Nat) (v u : β) :
    storePut d (storePut d m k v) k u = storePut d m k u := by
  suffices H : ∀ b, storeWfFrom d b m → storePut d (storePut d m k v) k u = storePut d m k u from H 0 w
  clear w
  intro b w
  induction m generalizing b with
  | nil => by_cases hv : v = d <;> simp [storePut, hv]
  | cons p m ih =>
    obtain ⟨k', v'⟩ := p
    simp only [storeWfFrom, Bool.and_eq_true, decide_eq_true_eq] at w
    obtain ⟨⟨-, -⟩, wm⟩ := w
    rcases Nat.lt_trichotomy k k' with h | h | h
    · by_cases hv : v = d <;> simp [storePut, h, hv]
    · subst h
      by_cases hv : v = d
      · simp only [storePut, hv, lt_irrefl, if_false, if_true]
        cases m with
        | nil => simp [storePut]
        | cons q m =>
          obtain ⟨j, x⟩ := q
          simp only [storeWfFrom, Bool.and_eq_true, decide_eq_true_eq] at wm
          simp [storePut, show k < j by omega]
      · simp [storePut, hv]
    · have h1 : ¬ k < k' := by omega
      have h2 : ¬ k = k' := by omega
      simp only [storePut, h1, h2, if_false, ih _ wm]

theorem State.putSet_putSet {s : State} (h : storeWf ASet.cleared s.sets) (n : SetNo) (x y : ASet) :
    (s.putSet n x).putSet n y = s.putSet n y := by
  simp only [State.putSet, storePut_put h]

theorem State.putMark_putMark {s : State} (h : storeWf Marks.clear s.marks) (n : SetNo) (w : WayNo) (m k : Marks) :
    (s.putMark n w m).putMark n w k = s.putMark n w k := by
  simp only [State.putMark, storePut_put h]

/-! ### An item written as it stands -/

@[simp] theorem State.setPort_self (a : Agent) : s.setPort a (s.port a) = s := by
  simp [State.setPort, State.port]

@[simp] theorem State.setTag_self (i : MemTagNo) : s.setTag i (s.tag i) = s := by
  simp [State.setTag, State.tag]

@[simp] theorem State.setBuffer_self (b : BufferNo) : s.setBuffer b (s.buffer b) = s := by
  simp [State.setBuffer, State.buffer]

theorem State.setEntry_of_eq {s : State} {e : EntryNo} {x : Entry} (h : s.entry e = x) : s.setEntry e x = s := by
  rw [← h]; exact s.setEntry_self e

theorem State.setPort_of_eq {s : State} {a : Agent} {p : Port} (h : s.port a = p) : s.setPort a p = s := by
  rw [← h]; exact s.setPort_self a

@[simp] theorem State.setBuffer_buffer_ne {b c : BufferNo} (x : WbBuffer) (h : b ≠ c) :
    (s.setBuffer b x).buffer c = s.buffer c := by
  simp [State.setBuffer_buffer, h]

@[simp] theorem State.setTag_tag_ne {t u : MemTagNo} (x : MemTag) (h : t ≠ u) : (s.setTag t x).tag u = s.tag u := by
  simp [State.setTag_tag, h]

/-! ### Writes of different items: ports outside entries, entries outside buffers, buffers outside tags, tags outside the
record array -/

@[simp] theorem State.setPort_setEntry (a : Agent) (p : Port) (e : EntryNo) (x : Entry) :
    (s.setPort a p).setEntry e x = (s.setEntry e x).setPort a p := rfl
@[simp] theorem State.setPort_setBuffer (a : Agent) (p : Port) (b : BufferNo) (x : WbBuffer) :
    (s.setPort a p).setBuffer b x = (s.setBuffer b x).setPort a p := rfl
@[simp] theorem State.setPort_setTag (a : Agent) (p : Port) (i : MemTagNo) (x : MemTag) :
    (s.setPort a p).setTag i x = (s.setTag i x).setPort a p := rfl
@[simp] theorem State.setPort_putSet (a : Agent) (p : Port) (n : SetNo) (x : ASet) :
    (s.setPort a p).putSet n x = (s.putSet n x).setPort a p := rfl
@[simp] theorem State.setPort_putMark (a : Agent) (p : Port) (n : SetNo) (w : WayNo) (m : Marks) :
    (s.setPort a p).putMark n w m = (s.putMark n w m).setPort a p := rfl
@[simp] theorem State.setEntry_setBuffer (e : EntryNo) (y : Entry) (b : BufferNo) (x : WbBuffer) :
    (s.setEntry e y).setBuffer b x = (s.setBuffer b x).setEntry e y := rfl
@[simp] theorem State.setEntry_setTag (e : EntryNo) (y : Entry) (i : MemTagNo) (x : MemTag) :
    (s.setEntry e y).setTag i x = (s.setTag i x).setEntry e y := rfl
@[simp] theorem State.setEntry_putSet (e : EntryNo) (y : Entry) (n : SetNo) (x : ASet) :
    (s.setEntry e y).putSet n x = (s.putSet n x).setEntry e y := rfl
@[simp] theorem State.setEntry_putMark (e : EntryNo) (y : Entry) (n : SetNo) (w : WayNo) (m : Marks) :
    (s.setEntry e y).putMark n w m = (s.putMark n w m).setEntry e y := rfl
@[simp] theorem State.setBuffer_setTag (b : BufferNo) (y : WbBuffer) (i : MemTagNo) (x : MemTag) :
    (s.setBuffer b y).setTag i x = (s.setTag i x).setBuffer b y := rfl
@[simp] theorem State.setBuffer_putSet (b : BufferNo) (y : WbBuffer) (n : SetNo) (x : ASet) :
    (s.setBuffer b y).putSet n x = (s.putSet n x).setBuffer b y := rfl
@[simp] theorem State.setTag_putSet (i : MemTagNo) (y : MemTag) (n : SetNo) (x : ASet) :
    (s.setTag i y).putSet n x = (s.putSet n x).setTag i y := rfl

/-- Two ports written in either order. -/
theorem State.setPort_comm {a b : Agent} (h : a ≠ b) (p q : Port) :
    (s.setPort a p).setPort b q = (s.setPort b q).setPort a p := by
  simp only [State.setPort]
  rw [Vector.set_comm _ _ (fun e => h (Fin.ext e))]

/-- Two entries written in either order. -/
theorem State.setEntry_comm {e f : EntryNo} (h : e ≠ f) (x y : Entry) :
    (s.setEntry e x).setEntry f y = (s.setEntry f y).setEntry e x := by
  simp only [State.setEntry]
  rw [Vector.set_comm _ _ (fun c => h (Fin.ext c))]

/-- An active entry changed, as a write. -/
theorem State.modEntry_active {s : State} {e : EntryNo} (h : (s.entry e).phase ≠ .free) (f : Entry → Entry) :
    s.modEntry e f = s.setEntry e (f (s.entry e)) := by
  rw [State.modEntry_eq, Entry.change_active h]

/-- A change that leaves an entry as it stands. -/
theorem State.modEntry_fixed {s : State} {e : EntryNo} {f : Entry → Entry} (h : f (s.entry e) = s.entry e) :
    s.modEntry e f = s := by
  rw [State.modEntry_eq]
  unfold Entry.change
  split
  · exact s.setEntry_self e
  · rw [h]; exact s.setEntry_self e

end Sys2Proof.Machine
end

section
/-! SUPPORT. Running the internal work of an event item by item, and when no departure is to be finished after it. -/

namespace Sys2Proof.Machine

/-! ### Departures (R28) -/

/-- No port has a departure to finish. -/
def State.undrained (s : State) : Prop := ∀ a, (s.port a).drained = false

theorem State.atRest_undrained {s : State} (h : s.atRest) : s.undrained := (State.atRest_iff.1 h).2.2

theorem State.atRest_resetPin {s : State} (h : s.atRest) : s.resetPin = false := (State.atRest_iff.1 h).1

theorem State.atRest_work {s : State} (h : s.atRest) : s.work = [] := (State.atRest_iff.1 h).2.1

theorem State.undrained_setPort {s : State} (h : s.undrained) {a : Agent} {p : Port} (hp : p.drained = false) :
    (s.setPort a p).undrained := by
  intro b
  rw [State.setPort_port]
  split
  · exact hp
  · exact h b

theorem Port.attached_iff {p : Port} : p.attached = true ↔ p.state = .online ∨ p.state = .draining := by
  simp [Port.attached]

/-- A port with a message in its response queue has no departure to finish. -/
theorem Port.drained_responses {p : Port} (h : p.responses ≠ []) : p.drained = false := by
  simp [Port.drained, h]

theorem Port.drained_holding {p : Port} (h : p.holding ≠ 0) : p.drained = false := by
  simp [Port.drained, h]

theorem Port.drained_labels {p : Port} (h : p.labels ≠ []) : p.drained = false := by
  simp [Port.drained, h]

theorem Port.drained_recalls {p : Port} (h : p.recalls ≠ []) : p.drained = false := by
  simp [Port.drained, h]

theorem Port.drained_waiters {p : Port} (h : p.waiters ≠ []) : p.drained = false := by
  simp [Port.drained, h]

/-! ### Work item by item (log 11) -/

/-- The internal work of the first state is done, in so many items, and leaves the second; no item leaves a departure to
finish. -/
inductive Works : Nat → State → State → Prop where
  | none {s : State} (h : s.work = []) : Works 0 s s
  | item {n : Nat} {s t u : State} {k : Task} {l : List Task} (hw : s.work = k :: l) (ht : (s.due l).runTask k = t)
      (hd : t.undrained) (h : Works n t u) : Works (n + 1) s u

theorem Works.settle {n : Nat} {s t : State} (h : Works n s t) : ∀ m, n ≤ m → Machine.settle m s = t := by
  induction h with
  | @none s h =>
    intro m _
    cases m with
    | zero => rfl
    | succ m => simp [Machine.settle, h]
  | @item n s t u k l hw ht hd h ih =>
    intro m hm
    cases m with
    | zero => omega
    | succ m =>
      unfold Machine.settle
      rw [hw]
      dsimp only
      change Machine.settle m ((s.due l).runTask k).testDrained = u
      rw [ht, State.testDrained_none hd]
      exact ih m (by omega)

/-- The end of an event whose work is done in so many items. -/
theorem Works.finish {n : Nat} {s t : State} (h : Works n s t) (hd : s.undrained) (hn : n ≤ Config.workBound := by decide) :
    s.finish = t := by
  unfold State.finish
  rw [State.testDrained_none hd]
  exact h.settle _ hn

/-- An item with nothing to do is passed over. -/
theorem Works.pass {n : Nat} {s t : State} {k : Task} {l : List Task} (hw : s.work = k :: l) (hi : s.idles k = true)
    (hk : ∀ e a, k ≠ .notHeld e a) (hd : s.undrained) (h : Works n (s.due l) t) : Works (n + 1) s t := by
  refine .item hw (State.runTask_idle ?_ hk) hd h
  cases k <;> exact hi

/-- The last item, with nothing left after it. -/
theorem Works.last {s t : State} {k : Task} (hw : s.work = [k]) (ht : (s.due []).runTask k = t) (hd : t.undrained)
    (h : t.work = []) : Works 1 s t := .item hw ht hd (.none h)

/-- Work that has nothing to do is dropped. -/
theorem Works.idle {s : State} (h : ∀ k ∈ s.work, s.idles k = true ∧ ∀ e a, k ≠ .notHeld e a) (hd : s.undrained) :
    Works s.work.length s (s.due []) := by
  generalize hl : s.work = l at h
  induction l generalizing s with
  | nil =>
    rw [State.due_self hl]
    exact .none hl
  | cons k l ih =>
    obtain ⟨hi, hk⟩ := h k (by simp)
    refine .pass hl hi hk hd ?_
    refine ih (s := s.due l) hd rfl (fun j hj => ?_)
    obtain ⟨hi', hk'⟩ := h j (List.mem_cons_of_mem _ hj)
    exact ⟨by cases j <;> exact hi', hk'⟩

/-- The item that a state with its work set apart takes first. -/
theorem Works.step {n : Nat} {s t u : State} {k : Task} {l : List Task} (ht : (s.due l).runTask k = t) (hd : t.undrained)
    (h : Works n t u) : Works (n + 1) (s.due (k :: l)) u := .item rfl ht hd h

theorem State.runTask_running {s : State} (h : s.running = true) (k : Task) : s.runTask k = match k with
    | .advance e => s.advance e
    | .start e => s.start e
    | .notHeld e a => s.applyReply e a .failed
    | .readFault e u => if (s.entry e).use == u then s.readBad e else s
    | .wake n => s.wakeSet n
    | .admission => s.admissionRound
    | .serveBuffers => s.serveWaiters
    | .outputPlace a => s.givePlace a := by
  unfold State.runTask
  rw [h]
  rfl

/-- An event with its work. -/
theorem Works.event {n : Nat} {s t : State} {f : State → State} (hs : s.resetPin = false) (h : Works n (f s) t)
    (hd : (f s).undrained) (hn : n ≤ Config.workBound := by decide) : s.event f = .next t := by
  rw [State.event_eq hs, h.finish hd hn]

end Sys2Proof.Machine
end

section
/-! SUPPORT. The step, RESET, the clear walk and the links: what each leaves. -/

namespace Sys2Proof.Machine

/-! ### Lines, sets and tags (R1) -/

theorem toNat_tagOf (l : Line) : (tagOf l).toNat = l.toNat / 2048 := by
  have := l.isLt
  simp only [tagOf, BitVec.extractLsb'_toNat, Nat.shiftRight_eq_div_pow]
  omega

theorem toNat_setOf (l : Line) : (setOf l).toNat = (l.toNat % 2048) ^^^ ((l.toNat / 2048) % 2048) := by
  simp [setOf, BitVec.toNat_xor, BitVec.extractLsb'_toNat, BitVec.toNat_setWidth, toNat_tagOf]

theorem tagOf_lineOf (n : SetNo) (t : RecTag) : tagOf (lineOf n t) = t := by
  apply BitVec.eq_of_getLsbD_eq
  intro i hi
  simp only [tagOf, lineOf, BitVec.getLsbD_extractLsb', BitVec.getLsbD_append]
  simp [hi, show ¬ 11 + i < 11 by omega]

/-- The low eleven bits of a line that a set and a tag name. -/
theorem low_lineOf (n : SetNo) (t : RecTag) : (lineOf n t).extractLsb' 0 11 = n ^^^ t.setWidth 11 := by
  apply BitVec.eq_of_getLsbD_eq
  intro i hi
  simp only [lineOf, BitVec.getLsbD_extractLsb', BitVec.getLsbD_append]
  simp [hi]

theorem setOf_lineOf (n : SetNo) (t : RecTag) : setOf (lineOf n t) = n := by
  rw [setOf, low_lineOf, tagOf_lineOf, BitVec.xor_assoc, BitVec.xor_self, BitVec.xor_zero]

theorem lineOf_setOf_tagOf (l : Line) : lineOf (setOf l) (tagOf l) = l := by
  rw [lineOf, setOf, BitVec.xor_assoc, BitVec.xor_self, BitVec.xor_zero]
  apply BitVec.eq_of_getLsbD_eq
  intro i hi
  rw [BitVec.getLsbD_append]
  simp only [tagOf, BitVec.getLsbD_extractLsb']
  split
  · next h => simp [h]
  · next h => simp [show i - 11 < 15 by omega, show 11 + (i - 11) = i by omega]

theorem toNat_lineOf (n : SetNo) (t : RecTag) :
    (lineOf n t).toNat = t.toNat * 2048 + (n.toNat ^^^ (t.toNat % 2048)) := by
  have hlow : n.toNat ^^^ (t.toNat % 2048) < 2 ^ 11 :=
    Nat.xor_lt_two_pow n.isLt (Nat.mod_lt _ (by decide))
  rw [lineOf, BitVec.toNat_append, BitVec.toNat_xor, BitVec.toNat_setWidth,
    show (2 : Nat) ^ 11 = 2048 by decide, ← Nat.shiftLeft_add_eq_or_of_lt hlow, Nat.shiftLeft_eq]

/-! ### Time (log 2) -/

theorem tickTimer_eq_map (x : Option Nat) : tickTimer x = x.map (fun n => n - 1) := by cases x <;> rfl

theorem State.tick_released {s : State} (h : s.resetPin = false) : s.tick = { s with
    unitTime := s.unitTime + 1
    ports := s.ports.map (fun (p : Port) => { p with recalls := p.recalls.map (fun r => { r with left := r.left - 1 }) })
    entries := s.entries.map (fun (x : Entry) => { x with pinTimer := tickTimer x.pinTimer })
    tags := s.tags.map (fun (t : MemTag) => { t with op := t.op.map (fun o => { o with left := o.left - 1 }) })
    sweep := { s.sweep with gapLeft := tickTimer s.sweep.gapLeft }
    scrub := { s.scrub with timer := tickTimer s.scrub.timer } } := by
  unfold State.tick
  rw [if_neg (by simp [h])]

/-! ### The clear walk (R20) -/

/-- The marks that the clear walk leaves of a way: strike and disable kept (R16, R179). -/
def Marks.walked (m : Marks) : Marks := { m with lost := false, due := false }

theorem State.walkMark_eq (n : SetNo) (s : State) (w : WayNo) : State.walkMark n s w = s.putMark n w (s.mark n w).walked :=
  rfl

/-- The walk over some ways of a set changes marks alone: those of these ways. -/
theorem State.walkMarks {s : State} (h : storeWf Marks.clear s.marks) (n : SetNo) (l : List WayNo) :
    ∃ m, l.foldl (State.walkMark n) s = { s with marks := m } ∧
      ∀ k v, State.mark { s with marks := m } k v = if k = n ∧ v ∈ l then (s.mark k v).walked else s.mark k v := by
  induction l generalizing s with
  | nil => exact ⟨s.marks, rfl, fun k v => by simp [State.mark]⟩
  | cons w l ih =>
    obtain ⟨m, hm, hread⟩ := ih (s := s.putMark n w (s.mark n w).walked) (storeWf_put _ _ h)
    refine ⟨m, hm, fun k v => ?_⟩
    rw [show State.mark { s with marks := m } k v =
      State.mark { s.putMark n w (s.mark n w).walked with marks := m } k v from rfl, hread, State.putMark_mark h]
    by_cases hk : n = k
    · subst hk
      by_cases hv : w = v
      · subst hv
        by_cases hl : w ∈ l <;> simp [hl, Marks.walked]
      · simp [hv, Ne.symm hv]
    · simp [hk, Ne.symm hk]

/-- The clear walk over a set, before it moves on: the set cleared and its marks walked. -/
theorem State.walkAll {s : State} (h : s.arrayLawful) (n : SetNo) :
    ∃ m, ways.foldl (State.walkMark n) (s.putSet n ASet.cleared) = { s.putSet n ASet.cleared with marks := m } ∧
      ∀ k v, State.mark { s with marks := m } k v = if k = n then (s.mark k v).walked else s.mark k v := by
  obtain ⟨m, hm, hread⟩ := State.walkMarks (s := s.putSet n ASet.cleared) h.2.2.2 n ways
  refine ⟨m, hm, fun k v => ?_⟩
  have hkv := hread k v
  simp only [mem_ways, and_true] at hkv
  exact hkv

theorem ASet.cleared_way (w : WayNo) : ASet.cleared.ways[w] = Way.cleared := by
  simp [ASet.cleared]

/-- The state after the clear walk has written its set, with these marks, and moved on. -/
def State.walked (s : State) (m : List (Nat × Marks)) : State :=
  { s.putSet s.walk ASet.cleared with marks := m, walk := nextSet s.walk }

/-- The clear walk's step: its set is written, and after set 2047 the unit is RUNNING with INIT-DONE pending. -/
theorem State.walkSet_eq {s : State} (h : s.arrayLawful) (hinit : s.unitState = .initializing) :
    ∃ m, s.walkSet = (if s.walk = 2047 then
          (State.raise { s.walked m with unitState := .running } alertInitDone).refreshScrub
        else s.walked m) ∧
      ∀ k v, State.mark { s with marks := m } k v = if k = s.walk then (s.mark k v).walked else s.mark k v := by
  obtain ⟨m, hm, hread⟩ := State.walkAll h s.walk
  refine ⟨m, ?_, hread⟩
  unfold State.walkSet
  rw [if_neg (by simp [hinit])]
  dsimp only
  rw [hm]
  by_cases hlast : s.walk = 2047
  · rw [if_pos hlast, if_pos (by rw [hlast]; decide)]; rfl
  · rw [if_neg hlast, if_neg (fun e => hlast (by rw [eq_of_beq e]; decide))]; rfl

/-- What the walk leaves to be read: its set free, its marks walked, everything else as it was. -/
theorem State.walked_reads {s : State} (h : s.arrayLawful) {m : List (Nat × Marks)}
    (hread : ∀ k v, State.mark { s with marks := m } k v = if k = s.walk then (s.mark k v).walked else s.mark k v) :
    (∀ w : WayNo, ((s.walked m).aset s.walk).ways[w].tag1 = ⟨none, 0⟩ ∧
      ((s.walked m).aset s.walk).ways[w].tag2 = ⟨none, 0⟩ ∧ ((s.walked m).aset s.walk).ways[w].state.flips = 0 ∧
      ((s.walked m).aset s.walk).ways[w].state.value.holders = 0 ∧
      ((s.walked m).aset s.walk).ways[w].state.value.pin = none) ∧
    ((s.walked m).aset s.walk).order = ⟨[], 0⟩ ∧ (∀ n, n ≠ s.walk → (s.walked m).aset n = s.aset n) ∧
    (∀ w, (s.walked m).mark s.walk w = { s.mark s.walk w with lost := false, due := false }) ∧
    (∀ n w, n ≠ s.walk → (s.walked m).mark n w = s.mark n w) := by
  have hcleared : (s.walked m).aset s.walk = ASet.cleared := (State.putSet_aset h.2.2.1 _ _ _).trans (if_pos rfl)
  refine ⟨fun w => ?_, by rw [hcleared]; rfl, fun n hn => (State.putSet_aset h.2.2.1 _ _ _).trans (if_neg (Ne.symm hn)),
    fun w => (hread s.walk w).trans (if_pos rfl), fun n w hn => (hread n w).trans (if_neg hn)⟩
  rw [hcleared, ASet.cleared_way]
  exact ⟨rfl, rfl, rfl, rfl, rfl⟩

/-- The scrubber's timer where it runs. -/
theorem State.refreshScrub_runs {s : State}
    (h : s.running = true ∧ s.settings.scrubEnable = true ∧ s.settings.scrubInterval ≠ 0) :
    s.refreshScrub = { s with scrub := { s.scrub with
      timer := some (s.scrub.timer.getD s.settings.scrubInterval.toNat) } } := by
  obtain ⟨hrun, hen, hint⟩ := h
  unfold State.refreshScrub
  rw [if_pos (by rw [hrun, hen, bne_iff_ne.2 hint]; rfl)]
  cases htimer : s.scrub.timer with
  | none => rfl
  | some n =>
    simp only [Option.getD_some]
    rw [← htimer]

theorem State.refreshScrub_stops {s : State}
    (h : ¬ (s.running = true ∧ s.settings.scrubEnable = true ∧ s.settings.scrubInterval ≠ 0)) :
    s.refreshScrub = { s with scrub := { s.scrub with timer := none } } := by
  unfold State.refreshScrub
  rw [if_neg (fun hall => h (by simpa [and_assoc] using hall))]

/-! ### Links (R24) -/

theorem State.atRest_recordLink {s : State} (h : s.atRest) (a : Agent) (up : Bool) : (s.recordLink a up).atRest := h

/-- The link of a port has no say in its departure. -/
theorem Port.drained_link {p : Port} (up : Bool) : Port.drained { p with link := up } = p.drained := rfl

theorem State.linkFalls_quiet {s : State} {a : Agent} (h : s.running = false ∨ (s.port a).state = .failed) :
    s.linkFalls a = s.setPort a { s.port a with link := false } := by
  unfold State.linkFalls
  rcases h with h | h
  · simp [h, State.modPort_eq]
  · simp [h, State.modPort_eq]

theorem State.linkFalls_offline {s : State} {a : Agent} (hrun : s.running = true) (h : (s.port a).state = .offline) :
    s.linkFalls a = s.setPort a { s.port a with link := false, output := [] } := by
  unfold State.linkFalls
  simp [h, hrun, State.modPort_eq]

end Sys2Proof.Machine
end

section
/-! The statements of the step, of lines, of RESET and of the links settled. -/

namespace Sys2Proof.Machine

/-- Settles O1: by the definition of a step. -/
theorem stepRunsTheFrontCommand : Obligations.StepRunsTheFrontCommand := by
  intro c rest s hpending
  unfold step
  rw [hpending]

/-- Settles O2: the tick, item by item. -/
theorem emptyQueueIsOneMicrosecond : Obligations.EmptyQueueIsOneMicrosecond := by
  intro s hempty
  have hstep : step s = .next s.tick := by unfold step; rw [hempty]
  refine ⟨fun hpin => ?asserted, fun hpin => ⟨s.tick, hstep, ?released⟩⟩
  case asserted => rw [hstep, State.tick, hpin]; rfl
  case released =>
    rw [State.tick_released hpin]
    refine ⟨rfl, fun a => ?_, fun e => ?_, fun i => ?_, ?_, ?_, rfl⟩ <;>
      simp [State.port, State.entry, State.tag, tickTimer_eq_map]

/-- Settles O3: each row is an event, a frame or RESET, and each of these answers a next state. -/
theorem noCommandStops : Obligations.NoCommandStops := by
  intro c s
  cases c <;> exact ⟨_, rfl⟩

/-- Settles O4: the power-on values, read item by item. -/
theorem resetAssertGivesPowerOnValues : Obligations.ResetAssertGivesPowerOnValues := by
  intro s
  have hentry : ∀ e, s.powerOn.entry e = Entry.free 0 := fun e => by simp [State.powerOn, State.reset, State.entry]
  refine ⟨s.powerOn, exec_resetAssert s, rfl, rfl, rfl, rfl, fun n w => rfl, fun a => ?port, fun e => ?entry, ?pins, rfl,
    rfl, rfl, rfl, rfl, fun b => ?buffer, fun i => ?tag, rfl, fun g => ?region, rfl, rfl, rfl, rfl, rfl, rfl, rfl, rfl,
    rfl, rfl, rfl, rfl, rfl, rfl, rfl, rfl, rfl, rfl⟩
  case port => simp [State.powerOn, State.reset, State.port, Port.reset]
  case entry => rw [hentry]; simp [Entry.free]
  case pins => simp [State.pinCount, hentry, Entry.free]
  case buffer => simp [State.powerOn, State.reset, State.buffer, WbBuffer.free]
  case tag => simp [State.powerOn, State.reset, State.tag, MemTag.reset]
  case region => simp [State.powerOn, State.reset, State.region, Settings.reset, Region.reset]

/-- Settles O5: the release, and one set of the walk with its end after set 2047. -/
theorem clearWalkRunsAfterReset : Obligations.ClearWalkRunsAfterReset := by
  refine ⟨fun s hpin => ?release, fun s hrest hinit hlaw => ?walk⟩
  case release =>
    refine ⟨State.startWalk (State.followLinks { s with resetPin := false }), ?_, rfl, rfl, fun a => ?_, rfl⟩
    · rw [exec_resetRelease, hpin]; rfl
    · simp [State.startWalk, State.followLinks, State.port]
  case walk =>
    obtain ⟨m, hwalk, hmarks⟩ := State.walkSet_eq hlaw hinit
    obtain ⟨hways, horder, hsets, hmark, hother⟩ := State.walked_reads hlaw hmarks
    have hevent : ∀ u : State, s.walkSet = u → u.work = [] → u.ports = s.ports → exec .clearWalkSet s = .next u := by
      intro u hu hw hp
      rw [exec_clearWalkSet, State.event_quiet hrest _ (by rw [hu]; exact hw), hu]
      intro a
      rw [hu, State.port, hp]; exact State.atRest_undrained hrest a
    have hwork : s.work = [] := State.atRest_work hrest
    by_cases hlast : s.walk = 2047
    · rw [if_pos hlast] at hwalk
      by_cases hscrub : s.settings.scrubEnable = true ∧ s.settings.scrubInterval ≠ 0
      · replace hwalk := hwalk.trans (State.refreshScrub_runs ⟨rfl, hscrub⟩)
        refine ⟨_, hevent _ hwalk hwork rfl, hways, horder, hsets, hmark, hother, rfl,
          fun _ => ⟨rfl, rfl, ?_⟩, fun h => absurd hlast h, rfl⟩
        rw [if_pos hscrub]; rfl
      · replace hwalk := hwalk.trans (State.refreshScrub_stops fun h => hscrub h.2)
        refine ⟨_, hevent _ hwalk hwork rfl, hways, horder, hsets, hmark, hother, rfl,
          fun _ => ⟨rfl, rfl, ?_⟩, fun h => absurd hlast h, rfl⟩
        rw [if_neg hscrub]; rfl
    · rw [if_neg hlast] at hwalk
      exact ⟨_, hevent _ hwalk hwork rfl, hways, horder, hsets, hmark, hother, rfl, fun h => absurd h hlast,
        fun _ => ⟨hinit, rfl, rfl⟩, rfl⟩

/-- Settles O6: LINK_UP sets the link item; LINK_DOWN where no port fails clears it, with the output queue of an OFFLINE
port. -/
theorem linkChanges : Obligations.LinkChanges := by
  intro a s hrest
  have hport : (s.port a).drained = false := State.atRest_undrained hrest a
  have hrest' := fun up => State.atRest_recordLink hrest a up
  refine ⟨?up, fun h => ?quiet, fun hrun hoff => ?offline⟩
  case up =>
    rw [exec_linkUp]
    exact State.event_port (hrest' true) _ a { s.port a with link := true } rfl hport
  case quiet =>
    rw [exec_linkDown]
    exact State.event_port (hrest' false) _ a { s.port a with link := false }
      (State.linkFalls_quiet (s := s.recordLink a false) h) hport
  case offline =>
    rw [exec_linkDown]
    refine State.event_port (hrest' false) _ a { s.port a with link := false, output := [] }
      (State.linkFalls_offline (s := s.recordLink a false) hrun hoff) (Port.drained_state ?_)
    rw [show (_ : Port).state = (s.port a).state from rfl, hoff]; decide

/-- Settles O18: the four checks in order, for each kind. -/
theorem regionCheckTakesTheFirstFailure : Obligations.RegionCheckTakesTheFirstFailure := by
  intro t k a l
  refine ⟨fun hin => ?_, fun hin hread => regionCheck_no_readRight hin hread k, fun hin hread hwrite hk => ?_,
    fun hin hread hcache hk => ?_, fun hin hread hwrite hcache hk => ?_, fun hin hread hk => ?_,
    fun hin hread hk hcache => ?_, fun hin hread hwrite hk => ?_⟩
  · simp [regionCheck, hin]
  · rcases hk with rfl | rfl | rfl | rfl <;> simp [regionCheck, hin, hread, hwrite, ReqKind.writeType]
  · subst hk; simp [regionCheck, hin, hread, hcache, ReqKind.writeType, ReqKind.cached]
  · rcases hk with rfl | rfl | rfl <;> simp [regionCheck, hin, hread, hwrite, hcache, ReqKind.cached]
  · subst hk; simp [regionCheck, hin, hread, ReqKind.writeType, ReqKind.cached]
  · subst hk; simp [regionCheck, hin, hread, hcache, ReqKind.writeType]
  · rcases hk with hcache | rfl
    · simp [regionCheck, hin, hread, hwrite, hcache]
    · simp [regionCheck, hin, hread, hwrite, ReqKind.cached]

/-- Settles O55: set and tag are the low and the high bits of a line, folded by an exclusive or. -/
theorem setAndTagNameOneLine : Obligations.SetAndTagNameOneLine :=
  ⟨fun l => ⟨toNat_setOf l, toNat_tagOf l, lineOf_setOf_tagOf l⟩,
    fun n t => ⟨setOf_lineOf n t, tagOf_lineOf n t, toNat_lineOf n t⟩⟩

/-- Settles O56: the part at reset is one at power-on, whose laws stand on their own. -/
theorem resetKeepsTheLaws : Obligations.ResetKeepsTheLaws := by
  have hentry : ∀ e, State.reset.entry e = Entry.free 0 := fun e => by simp [State.reset, State.entry]
  refine ⟨⟨Lawful.arrayLawful_empty rfl rfl, fun e r hr => ?copies⟩, fun a => ?ports, ?counters, Lawful.settings_reset,
    State.tableLawful_allFree fun e => ?table⟩
  case copies => rw [hentry] at hr; simp [Entry.free] at hr
  case ports => simp [State.reset, State.port, Port.bounded, Port.reset]
  case counters => simp [State.countersBounded, State.reset, Counters.reset]
  case table => rw [hentry]; simp [Entry.free]

end Sys2Proof.Machine
end

section
/-! SUPPORT. The maintenance link: what a frame does, the register window bit by bit, the arguments of commands, and the
effects of the commands that touch no record. -/

namespace Sys2Proof.Machine

/-! ### Frames (R188) -/

theorem State.frame_eq {s : State} (h : s.resetPin = false) (f : State → State) : s.frame f = .next (f s) := by
  simp [State.frame, h]

/-- Every maintenance command is a frame that makes an effect and executes under its name. -/
theorem exec_maintenance {c : Instr} {k : MaintCmd} (h : c.maintenance = some k) :
    ∃ f : State → State × Answer, ∀ s : State, exec c s = s.frame (fun s => s.command k f) := by
  cases c
  case readWord i => cases h; exact ⟨_, exec_readWord i⟩
  case writeWord i v => cases h; exact ⟨_, exec_writeWord i v⟩
  case writeAlertPending v => cases h; exact ⟨_, exec_writeAlertPending v⟩
  case writeAlertEnable v => cases h; exact ⟨_, exec_writeAlertEnable v⟩
  case scrubEnable on => cases h; exact ⟨_, exec_scrubEnable on⟩
  case soleReaderExclusive on => cases h; exact ⟨_, exec_soleReaderExclusive on⟩
  case inspect n w => cases h; exact ⟨_, exec_inspect n w⟩
  case regionRead g => cases h; exact ⟨_, exec_regionRead g⟩
  case regionWrite g d => cases h; exact ⟨_, exec_regionWrite g d⟩
  case portReset a => cases h; exact ⟨_, exec_portReset a⟩
  case clearUnit => cases h; exact ⟨_, exec_clearUnit⟩
  case inject n w p m i j => cases h; exact ⟨_, exec_inject n w p m i j⟩
  case clearPoison l => cases h; exact ⟨_, exec_clearPoison l⟩
  case wayEnable n w => cases h; exact ⟨_, exec_wayEnable n w⟩
  case captureRead => cases h; exact ⟨_, exec_captureRead⟩
  all_goals cases h

theorem State.command_busy {s : State} {x : Execution} (h : s.executing = some x) (k : MaintCmd)
    (f : State → State × Answer) : s.command k f = s.answerBusy x := by
  unfold State.command; rw [h]

/-- A command whose frame is taken, with the internal work that its effect makes due. -/
theorem State.frame_command_finish {s : State} (h : s.frameReady) (k : MaintCmd) (f : State → State × Answer) :
    s.frame (fun s => s.command k f) = .next ((f s).1.finish.answered k (f s).2) := by
  obtain ⟨hs, hidle⟩ := State.frameReady_iff.1 h
  rw [State.frame_eq (State.atRest_resetPin hs)]
  unfold State.command
  rw [hidle]
  rfl

/-- A frame that leaves the unit as it is, whatever it answers. -/
theorem State.frame_command_same {s : State} (h : s.frameReady) {k : MaintCmd} {f : State → State × Answer} {x : Answer}
    (hf : f s = (s, x)) : s.frame (fun s => s.command k f) = .next (s.answered k x) := by
  have hrest : (f s).1.atRest := by rw [hf]; exact (State.frameReady_iff.1 h).1
  rw [State.frame_command h k f hrest, hf]

/-- A frame whose effect is this state, at rest. -/
theorem State.frame_command_of {s t : State} (h : s.frameReady) {k : MaintCmd} {f : State → State × Answer} {x : Answer}
    (hf : f s = (t, x)) (ht : t.atRest) : s.frame (fun s => s.command k f) = .next (t.answered k x) := by
  rw [State.frame_command h k f (by rw [hf]; exact ht), hf]

/-- A frame whose effect makes internal work due that this many items do. -/
theorem State.frame_command_works {s t u : State} {n : Nat} (h : s.frameReady) {k : MaintCmd} {f : State → State × Answer}
    {x : Answer} (hf : f s = (t, x)) (ht : t.undrained) (hw : Works n t u) (hn : n ≤ Config.workBound := by decide) :
    s.frame (fun s => s.command k f) = .next (u.answered k x) := by
  rw [State.frame_command_finish h, hf]
  dsimp only
  rw [hw.finish ht hn]

theorem State.frameReady_atRest {s : State} (h : s.frameReady) : s.atRest := (State.frameReady_iff.1 h).1

/-! ### The register window (R192) -/

theorem getLsbD_bitAt (b : Bool) (i j : Nat) : (bitAt b i).getLsbD j = (b && decide (i = j) && decide (j < 32)) := by
  rw [bitAt, BitVec.getLsbD_shiftLeft, BitVec.getLsbD_setWidth, BitVec.getLsbD_ofBool]
  by_cases h : i = j
  · subst h; cases b <;> simp
  · by_cases hl : j < i
    · simp [h, hl]
    · simp [h, show j - i ≠ 0 by omega]

theorem getLsbD_fieldAt (n i j : Nat) :
    (fieldAt n i).getLsbD j = (decide (i ≤ j) && decide (j < 32) && n.testBit (j - i)) := by
  rw [fieldAt, BitVec.getLsbD_shiftLeft, BitVec.getLsbD_ofNat]
  by_cases h : j < 32
  · by_cases hl : i ≤ j
    · simp [h, hl, show j - i < 32 by omega]
    · simp [show j < i by omega, show ¬ i ≤ j from hl]
  · simp [h]

theorem fieldAt_zero (n : Nat) : fieldAt n 0 = BitVec.ofNat 32 n := by simp [fieldAt]

/-- A number below a power of two has no bit from that power on. -/
theorem testBit_of_small {n k j : Nat} (h : n < 2 ^ k) (hj : k ≤ j) : n.testBit j = false :=
  Nat.testBit_lt_two_pow (Nat.lt_of_lt_of_le h (Nat.pow_le_pow_right (by decide) hj))

/-- A field of a word that holds a number which fits it reads that number. -/
theorem toNat_extract_of_bits {v : BitVec 32} {start len n : Nat} (hn : n < 2 ^ len)
    (h : ∀ i, i < len → v.getLsbD (start + i) = n.testBit i) : (v.extractLsb' start len).toNat = n := by
  have hv : v.extractLsb' start len = BitVec.ofNat len n := by
    apply BitVec.eq_of_getLsbD_eq
    intro i hi
    simp only [BitVec.getLsbD_extractLsb', BitVec.getLsbD_ofNat, hi, h i hi]
  rw [hv, BitVec.toNat_ofNat, Nat.mod_eq_of_lt hn]

/-- A field of a word none of whose bits is set reads 0. -/
theorem extract_zero_of_bits {v : BitVec 32} {start len : Nat} (h : ∀ i, i < len → v.getLsbD (start + i) = false) :
    v.extractLsb' start len = 0 := by
  apply BitVec.eq_of_getLsbD_eq
  intro i hi
  simp [hi, h i hi]

theorem getLsbD_agentBits (f : Agent → Bool) (i j : Nat) :
    (agentBits f i).getLsbD j = (decide (j < 32) && agents.any (fun a => f a && decide (i + a.val = j))) := by
  have hzero : BitVec.getLsbD (0 : BitVec 32) j = false := BitVec.getLsbD_zero
  by_cases h : j < 32 <;>
    simp only [agentBits, agents, List.foldl_cons, List.foldl_nil, List.any_cons, List.any_nil, BitVec.getLsbD_or,
      getLsbD_bitAt, h, Bool.or_assoc, hzero, decide_true, decide_false, Bool.and_true, Bool.true_and,
      Bool.and_false, Bool.false_and, Bool.or_false, Bool.false_or]

theorem PortState.code_lt (p : PortState) : p.code < 2 ^ 2 := by cases p <;> decide

/-- The bits of a port word (R192 words 10 to 15). -/
theorem Port.getLsbD_word (p : Port) {j : Nat} (h : j < 32) : p.word.getLsbD j =
    (p.state.code.testBit j || (p.link && decide (2 = j)) || (p.autoOffline && decide (3 = j)) ||
      (p.drainRequested && decide (4 = j)) || (decide (16 ≤ j) && p.holding.testBit (j - 16))) := by
  simp only [Port.word, BitVec.getLsbD_or, getLsbD_bitAt, getLsbD_fieldAt, h, decide_true, Bool.and_true, Bool.true_and,
    Nat.zero_le, Nat.sub_zero]

theorem State.word_port (s : State) (a : Agent) : s.word (10 + a.val) = (s.port a).word := by
  fin_cases a <;> rfl

/-- The bits of the sweep status word (R192 word 24). -/
theorem State.getLsbD_sweepWord (s : State) {j : Nat} (h : j < 32) : s.sweepWord.getLsbD j =
    ((s.sweep.state != .idle && decide (0 = j)) || (decide (1 ≤ j) && s.sweep.cursor.toNat.testBit (j - 1)) ||
      (s.hasCriterion .region && decide (12 = j)) ||
      agents.any (fun a => s.hasCriterion (.strip a) && decide (16 + a.val = j)) ||
      agents.any (fun a => s.hasCriterion (.drain a) && decide (24 + a.val = j))) := by
  simp only [State.sweepWord, BitVec.getLsbD_or, getLsbD_bitAt, getLsbD_fieldAt, getLsbD_agentBits, h, decide_true,
    Bool.and_true, Bool.true_and]

/-- The bits of the occupancy word (R192 word 25). -/
theorem State.getLsbD_occupancyWord (s : State) {j : Nat} (h : j < 32) : s.occupancyWord.getLsbD j =
    ((s.activeIn agentPool).testBit j || (decide (8 ≤ j) && (s.activeIn internalPool).testBit (j - 8)) ||
      (decide (16 ≤ j) && s.buffersInUse.testBit (j - 16)) || (decide (24 ≤ j) && s.pinCount.testBit (j - 24))) := by
  simp only [State.occupancyWord, BitVec.getLsbD_or, getLsbD_fieldAt, h, decide_true, Bool.and_true, Bool.true_and,
    Nat.zero_le, Nat.sub_zero]

theorem State.activeIn_agentPool (s : State) :
    (entryNos.filter (fun e => decide (e.val < 20) && (s.entry e).phase != .free)).length = s.activeIn agentPool := by
  rw [State.activeIn, show agentPool = entryNos.filter (fun e => decide (e.val < 20)) by decide, List.filter_filter]
  simp [Bool.and_comm]

theorem State.activeIn_internalPool (s : State) :
    (entryNos.filter (fun e => decide (20 ≤ e.val) && (s.entry e).phase != .free)).length = s.activeIn internalPool := by
  rw [State.activeIn, show internalPool = entryNos.filter (fun e => decide (20 ≤ e.val)) by decide, List.filter_filter]
  simp [Bool.and_comm]

theorem State.activeIn_le (s : State) (l : List EntryNo) : s.activeIn l ≤ l.length := List.length_filter_le _ _

theorem State.buffersInUse_le (s : State) : s.buffersInUse ≤ 8 := List.length_filter_le _ _

/-- ALERT is asserted while some cause is both pending and enabled (R186). -/
theorem State.alertOutput_iff (s : State) : s.alertOutput = true ↔
    ∃ i, i < 12 ∧ s.alertPending.getLsbD i = true ∧ s.settings.alertEnable.getLsbD i = true := by
  rw [State.alertOutput, bne_iff_ne, ne_eq]
  constructor
  · intro h
    by_contra hnone
    refine h (BitVec.eq_of_getLsbD_eq fun i hi => ?_)
    rw [BitVec.getLsbD_and, BitVec.ofNat_eq_ofNat, BitVec.getLsbD_zero, Bool.and_eq_false_iff]
    by_contra hboth
    simp only [not_or, Bool.not_eq_false] at hboth
    exact hnone ⟨i, hi, hboth⟩
  · rintro ⟨i, -, hp, he⟩ h
    have hbit : (s.alertPending &&& s.settings.alertEnable).getLsbD i = false := by rw [h]; simp
    simp [hp, he] at hbit

/-! ### Words written (R193) -/

theorem State.writeWord_readOnly (s : State) {index : Byte} (v : BitVec 32)
    (h : index = 0 ∨ (10 ≤ index.toNat ∧ index.toNat ≤ 27)) : s.writeWord index v = (s, .only .notAllowed) := by
  rcases h with rfl | h
  · rfl
  · unfold State.writeWord
    split <;> first | omega | rw [if_pos h.2]

theorem State.writeWord_past (s : State) {index : Byte} (v : BitVec 32) (h : 27 < index.toNat) :
    s.writeWord index v = (s, .only .badArg) := by
  unfold State.writeWord
  split <;> first | omega | rw [if_neg (by omega)]

theorem State.refreshScrub_atRest {s : State} (h : s.atRest) : s.refreshScrub.atRest := by
  by_cases hrun : s.running = true ∧ s.settings.scrubEnable = true ∧ s.settings.scrubInterval ≠ 0
  · rw [State.refreshScrub_runs hrun]; exact h
  · rw [State.refreshScrub_stops hrun]; exact h

/-- A timer word written at a frame that is taken. -/
theorem State.frame_setTimer {s : State} (h : s.frameReady) (v : BitVec 32) (low high : Nat)
    (f : Settings → BitVec 16 → Settings) :
    s.frame (fun s => s.command .writeWord (fun s => s.setTimer v low high f)) =
      .next (if low ≤ v.toNat ∧ v.toNat ≤ high
        then State.answered { s with settings := f s.settings (v.setWidth 16) } .writeWord { status := .ok, data := [] }
        else s.answered .writeWord { status := .badArg, data := [] }) := by
  have hrest := State.frameReady_atRest h
  by_cases hv : low ≤ v.toNat ∧ v.toNat ≤ high
  · rw [if_pos hv]
    exact State.frame_command_of h (t := { s with settings := f s.settings (v.setWidth 16) })
      (by simp [State.setTimer, hv, State.set, Answer.only]) hrest
  · rw [if_neg hv]
    exact State.frame_command_same h (by simp [State.setTimer, hv, Answer.only])

/-! ### Arguments (R189, R191) -/

theorem setArg_of_toNat {f : BitVec 16} {n : SetNo} (h : f.toNat = n.toNat) : setArg f = some n := by
  have hn := n.isLt
  rw [setArg, if_pos (by omega)]
  exact congrArg some (BitVec.eq_of_toNat_eq (by rw [BitVec.toNat_setWidth]; omega))

theorem setArg_past {f : BitVec 16} (h : 2048 ≤ f.toNat) : setArg f = none := by
  rw [setArg, if_neg (by omega)]

theorem setArg_within {f : BitVec 16} (h : f.toNat < 2048) : ∃ n, setArg f = some n := ⟨_, if_pos h⟩

theorem wayArg_of_toNat {b : Byte} {w : WayNo} (h : b.toNat = w.val) : wayArg b = some w := by simp [wayArg, h]

theorem wayArg_past {b : Byte} (h : 8 ≤ b.toNat) : wayArg b = none := by simp [wayArg, h]

theorem wayArg_within {b : Byte} (h : b.toNat < 8) : ∃ w, wayArg b = some w := ⟨_, dif_pos h⟩

theorem agentArg_of_toNat {b : Byte} {a : Agent} (h : b.toNat = a.val) : agentArg b = some a := by simp [agentArg, h]

theorem agentArg_past {b : Byte} (h : 6 ≤ b.toNat) : agentArg b = none := by simp [agentArg, h]

theorem agentArg_within {b : Byte} (h : b.toNat < 6) : ∃ a, agentArg b = some a := ⟨_, dif_pos h⟩

theorem lineArg_of_toNat {f : BitVec 32} {l : Line} (h : f.toNat = l.toNat) : lineArg f = some l := by
  have hl := l.isLt
  rw [lineArg, if_pos (by omega)]
  exact congrArg some (BitVec.eq_of_toNat_eq (by rw [BitVec.toNat_setWidth]; omega))

theorem lineArg_past {f : BitVec 32} (h : 67108864 ≤ f.toNat) : lineArg f = none := by
  rw [lineArg, if_neg (by omega)]

theorem lineArg_within {f : BitVec 32} (h : f.toNat < 67108864) : ∃ l, lineArg f = some l := ⟨_, if_pos h⟩

/-- A command whose arguments are in range, outside RUNNING (R18). -/
theorem State.inRunning_refused {s : State} (h : s.running = false) (f : State → State × Answer) :
    s.inRunning f = (s, { status := if s.unitState = .lost then .lost else .busy, data := [] }) := by
  simp only [State.inRunning, h, Bool.false_eq_true, if_false, State.notRunning, Answer.only, beq_iff_eq]

theorem State.inRunning_taken {s : State} (h : s.running = true) (f : State → State × Answer) : s.inRunning f = f s := by
  simp [State.inRunning, h]

/-- The part codes and the widths of their words, in one table (R191). -/
theorem partArg_width (p : Byte) : (partArg p).map InjectPart.width =
    if p.toNat < 4 then some (if p = 2 then 18 else if p = 3 then 35 else 22) else none := by
  revert p; decide

theorem partArg_within {p : Byte} (h : p.toNat < 4) :
    ∃ q, partArg p = some q ∧ q.width = if p = 2 then 18 else if p = 3 then 35 else 22 := by
  have hw := partArg_width p
  rw [if_pos h] at hw
  exact Option.map_eq_some_iff.1 hw

theorem partArg_past {p : Byte} (h : 4 ≤ p.toNat) : partArg p = none := by
  have hw := partArg_width p
  rw [if_neg (by omega)] at hw
  exact Option.map_eq_none_iff.1 hw

/-- The bits to flip: none where the count or a bit is out of range, or the two bits are one (R191). -/
theorem injectBits_bad {width : Nat} {m i j : Byte}
    (h : m = 0 ∨ 3 ≤ m.toNat ∨ width ≤ i.toNat ∨ (m = 2 ∧ (width ≤ j.toNat ∨ i = j))) : injectBits width m i j = none := by
  unfold injectBits
  split
  · next hm =>
    rcases h with rfl | h | h | ⟨rfl, -⟩
    · simp at hm
    · omega
    · rw [if_neg (by omega)]
    · simp at hm
  · next hm =>
    rw [if_neg]
    simp only [Bool.and_eq_true, decide_eq_true_eq, bne_iff_ne, ne_eq, not_and, not_not]
    rcases h with rfl | h | h | ⟨-, h | h⟩
    · simp at hm
    · omega
    · omega
    · omega
    · exact fun _ => h
  · rfl

theorem injectBits_good {width : Nat} {m i j : Byte} (hi : i.toNat < width)
    (h : m = 1 ∨ (m = 2 ∧ j.toNat < width ∧ i ≠ j)) : ∃ l, injectBits width m i j = some l := by
  rcases h with rfl | ⟨rfl, hj, hne⟩
  · exact ⟨[i.toNat], by simp [injectBits, hi]⟩
  · exact ⟨[i.toNat, j.toNat], by simp [injectBits, hi, hj, hne]⟩

/-! ### The bytes of the capture record (R196) -/

theorem presentBits_eq (a b c d : Bool) :
    presentBit a 0 ||| presentBit b 1 ||| presentBit c 2 ||| presentBit d 3 =
      (if a then 1 else 0) + (if b then 2 else 0) + (if c then 4 else 0) + (if d then 8 else 0 : Byte) := by
  revert a b c d; decide

theorem lineBytes_eq (l : Option Line) : lineBytes l = bytes4 ((l.getD 0).setWidth 32) := by
  cases l <;> rfl

theorem setBytes_eq (n : Option SetNo) :
    setBytes n = [((n.getD 0).setWidth 16).extractLsb' 8 8, ((n.getD 0).setWidth 16).extractLsb' 0 8] := by
  cases n with
  | none => rfl
  | some n =>
    simp only [setBytes, Option.getD_some, List.cons.injEq, and_true]
    constructor
    · apply BitVec.eq_of_getLsbD_eq
      intro i hi
      simp only [BitVec.getLsbD_setWidth, BitVec.getLsbD_extractLsb', hi, decide_true, Bool.true_and]
      by_cases h3 : i < 3
      · simp [h3, show 8 + i < 16 by omega]
      · have : n.getLsbD (8 + i) = false := BitVec.getLsbD_of_ge _ _ (by omega)
        simp [h3, this]
    · apply BitVec.eq_of_getLsbD_eq
      intro i hi
      simp [hi, show i < 16 by omega]

/-! ### The sweep engine's list (R162) -/

/-- A REGION-WRITE taken in RUNNING, as one state. -/
theorem State.takeRegion_running {s : State} (h : s.running = true) (g : SlotNo) (r : Region) :
    s.takeRegion g r = { s with
      settings := { s.settings with regions := s.settings.regions.set g r }
      entries := s.entries.map (fun (x : Entry) => if x.phase != Phase.free then { x with recheck := true } else x)
      sweep := s.sweep.join .region } := by
  have hrun : (s.set (fun t => { t with regions := t.regions.set g r })).running = true := h
  unfold State.takeRegion
  dsimp only
  rw [if_pos hrun]
  unfold State.sweepJoin
  rw [if_pos (show (State.recheckAll (s.set (fun t => { t with regions := t.regions.set g r }))).running = true from hrun)]
  rfl

theorem State.takeRegion_notRunning {s : State} (h : s.running = false) (g : SlotNo) (r : Region) :
    s.takeRegion g r = { s with settings := { s.settings with regions := s.settings.regions.set g r } } := by
  have hrun : (s.set (fun t => { t with regions := t.regions.set g r })).running = false := h
  unfold State.takeRegion
  dsimp only
  rw [if_neg (by rw [hrun]; decide)]
  rfl

/-- What joining leaves of the engine: the list, and PROCESSING at way 0 where it was IDLE (R162). -/
theorem Sweep.join_eq (w : Sweep) (k : CritKind) : w.join k = { w with
    criteria := if w.criteria.any (fun d => d.kind == k) then
        w.criteria.map (fun d => if d.kind = k then w.criterion k else d)
      else w.criteria ++ [w.criterion k]
    state := if w.state = .idle then .processing else w.state
    way := if w.state = .idle then 0 else w.way } := by
  unfold Sweep.join
  by_cases hidle : w.state = .idle <;> by_cases hany : w.criteria.any (fun d => d.kind == k) = true <;>
    simp [hidle, hany]

theorem Sweep.criterion_kind (w : Sweep) (k : CritKind) : (w.criterion k).kind = k := rfl

/-- A criterion that joins or restarts leaves the others as they stood. -/
theorem Sweep.join_others (w : Sweep) (k : CritKind) :
    (w.join k).criteria.filter (fun d => d.kind != k) = w.criteria.filter (fun d => d.kind != k) := by
  rw [Sweep.join_eq]
  dsimp only
  split
  · rw [List.filter_map]
    induction w.criteria with
    | nil => rfl
    | cons c l ih =>
      by_cases hc : c.kind = k
      · simp [hc, Sweep.criterion_kind, ih]
      · simp only [Function.comp_def] at ih ⊢
        rw [List.filter_cons, List.filter_cons]
        simp [hc, ih]
  · simp [Sweep.criterion_kind]

/-- With at most one of its kind before, the criterion that joined or restarted is the only one of its kind. -/
theorem Sweep.join_only (w : Sweep) (k : CritKind) (h : (w.criteria.filter (fun d => d.kind == k)).length ≤ 1) :
    (w.join k).criteria.filter (fun d => d.kind == k) = [w.criterion k] := by
  rw [Sweep.join_eq]
  dsimp only
  generalize hc : w.criterion k = c
  have hk : c.kind = k := by rw [← hc]; rfl
  split
  · next hany =>
    have hmap : ∀ l : List Criterion, (l.map (fun d => if d.kind = k then c else d)).filter (fun d => d.kind == k) =
        List.replicate (l.filter (fun d => d.kind == k)).length c := by
      intro l
      induction l with
      | nil => rfl
      | cons d l ih =>
        by_cases hd : d.kind = k
        · simp [hd, hk, ih, List.replicate_succ]
        · simp [hd, ih]
    have hone : 0 < (w.criteria.filter (fun d => d.kind == k)).length := by
      rw [List.length_pos_iff_exists_mem]
      obtain ⟨d, hd, hdk⟩ := List.any_eq_true.1 hany
      exact ⟨d, List.mem_filter.2 ⟨hd, hdk⟩⟩
    rw [hmap, show (w.criteria.filter (fun d => d.kind == k)).length = 1 by omega]
    rfl
  · next hany =>
    have hnone : w.criteria.filter (fun d => d.kind == k) = [] := by
      rw [List.filter_eq_nil_iff]
      intro d hd hdk
      exact hany (List.any_eq_true.2 ⟨d, hd, hdk⟩)
    simp [hnone, hk]

/-! ### CLEAR-UNIT (R21) -/

theorem Port.close_eq (p : Port) : p.close =
    { link := p.link, state := .offline, requests := [], head := .fresh, responses := []
      output := if p.link then [.portDown] else [], waiters := [], labels := [], recalls := [], holding := p.holding
      autoOffline := false, drainRequested := false } := rfl

end Sys2Proof.Machine
end

section
/-! The statements of frames, words and refused commands, settled. -/

namespace Sys2Proof.Machine

/-! ### Frames -/

theorem exec_busy {c : Instr} {x : Execution} {s : State} (hreset : s.resetPin = false) (h : s.executing = some x)
    (hc : (∃ k, c.maintenance = some k) ∨ c = .commandWhileBusy ∨ ∃ b, c = .unknownCommand b) :
    exec c s = .next (s.answerBusy x) := by
  rcases hc with ⟨k, hk⟩ | rfl | ⟨b, rfl⟩
  · obtain ⟨f, hf⟩ := exec_maintenance hk
    rw [hf, State.frame_eq hreset, State.command_busy h]
  · rw [exec_commandWhileBusy, State.frame_eq hreset]; simp only [h]
  · rw [exec_unknownCommand, State.frame_eq hreset]; simp only [h]

theorem State.endExecution_some {s : State} {x : Execution} (h : s.executing = some x) :
    s.endExecution = { s with executing := none, answer := if x.discard then s.answer else some x.answer } := by
  unfold State.endExecution; rw [h]

/-- Settles O40: each frame row is its effect, by what executes. -/
theorem frameEvents : Obligations.FrameEvents := by
  refine ⟨fun c x s hreset hx hc => exec_busy hreset hx hc, fun b s hreset => ⟨fun h => ?_, fun x h => ?_, fun h => ?_,
    fun x h hd => ?_, fun x h hd => ?_⟩⟩
  · rw [exec_frameAborted, State.frame_eq hreset]; simp only [State.abortFrame, h, Option.map_none]
  · rw [exec_frameAborted, State.frame_eq hreset, State.abortFrame, h]; rfl
  · rw [exec_unknownCommand, State.frame_eq hreset]; simp only [h, Answer.only]
  · rw [exec_commandExecutionEnd, State.frame_eq hreset, State.endExecution_some h, hd]; rfl
  · rw [exec_commandExecutionEnd, State.frame_eq hreset, State.endExecution_some h, hd]; rfl

/-! ### The register words -/

theorem Settings.config_eq (t : Settings) :
    t.config = (if t.soleReader then 1 else 0) + (if t.scrubEnable then 2 else 0) := by
  cases hsole : t.soleReader <;> cases hscrub : t.scrubEnable <;> simp [Settings.config, hsole, hscrub, bitAt]

theorem any_agents_at (f : Agent → Bool) (i : Nat) (a : Agent) :
    agents.any (fun b => f b && decide (i + b.val = i + a.val)) = f a := by
  have hval : ∀ b : Agent, decide (i + b.val = i + a.val) = decide (b = a) := fun b => by
    simp [Fin.ext_iff]
  simp only [hval]
  rw [Bool.eq_iff_iff, List.any_eq_true]
  constructor
  · rintro ⟨b, -, hb⟩
    obtain ⟨hf, hba⟩ := Bool.and_eq_true_iff.1 hb
    rwa [of_decide_eq_true hba] at hf
  · exact fun hf => ⟨a, Keeps.mem_agents a, by simp [hf]⟩

theorem any_agents_outside (f : Agent → Bool) {i j : Nat} (h : j < i ∨ i + 6 ≤ j) :
    agents.any (fun b => f b && decide (i + b.val = j)) = false := by
  rw [List.any_eq_false]
  intro b _
  have hb := b.isLt
  simp [show i + b.val ≠ j by omega]

/-- The fields of a port word below its count. -/
theorem Port.word_low (p : Port) : p.word.getLsbD 2 = p.link ∧ p.word.getLsbD 3 = p.autoOffline ∧
    p.word.getLsbD 4 = p.drainRequested ∧ (p.word.extractLsb' 0 2).toNat = p.state.code ∧
    p.word.extractLsb' 5 11 = 0 := by
  have hcode : ∀ j, 2 ≤ j → p.state.code.testBit j = false := fun j hj => testBit_of_small p.state.code_lt hj
  refine ⟨?_, ?_, ?_, toNat_extract_of_bits p.state.code_lt fun i hi => ?_, extract_zero_of_bits fun i hi => ?_⟩
  · rw [Port.getLsbD_word p (by decide), hcode 2 (by decide)]; simp
  · rw [Port.getLsbD_word p (by decide), hcode 3 (by decide)]; simp
  · rw [Port.getLsbD_word p (by decide), hcode 4 (by decide)]; simp
  · rw [Port.getLsbD_word p (by omega)]
    simp [show ¬ 2 = i by omega, show ¬ 3 = i by omega, show ¬ 4 = i by omega, show ¬ 16 ≤ i by omega]
  · rw [Port.getLsbD_word p (by omega), hcode _ (by omega)]
    simp [show ¬ 2 = 5 + i by omega, show ¬ 3 = 5 + i by omega, show ¬ 4 = 5 + i by omega, show ¬ 16 ≤ 5 + i by omega]

/-- The count of a port word, at most the 16384 records of the array. -/
theorem Port.word_count {p : Port} (h : p.holding ≤ 16384) :
    (p.word.extractLsb' 16 15).toNat = p.holding ∧ p.word.getLsbD 31 = false := by
  have hcode : ∀ j, 2 ≤ j → p.state.code.testBit j = false := fun j hj => testBit_of_small p.state.code_lt hj
  have hsmall : p.holding < 2 ^ 15 := by omega
  refine ⟨toNat_extract_of_bits hsmall fun i hi => ?_, ?_⟩
  · rw [Port.getLsbD_word p (by omega), hcode _ (by omega)]
    simp [show ¬ 2 = 16 + i by omega, show ¬ 3 = 16 + i by omega, show ¬ 4 = 16 + i by omega]
  · rw [Port.getLsbD_word p (by decide), hcode 31 (by decide), testBit_of_small hsmall (by decide)]; simp

/-- The sweep status word, field by field. -/
theorem State.sweepWord_fields (s : State) :
    s.sweepWord.getLsbD 0 = (s.sweep.state != .idle) ∧ s.sweepWord.extractLsb' 1 11 = s.sweep.cursor ∧
    s.sweepWord.getLsbD 12 = s.hasCriterion .region ∧ s.sweepWord.extractLsb' 13 3 = 0 ∧
    (∀ a : Agent, s.sweepWord.getLsbD (16 + a.val) = s.hasCriterion (.strip a) ∧
      s.sweepWord.getLsbD (24 + a.val) = s.hasCriterion (.drain a)) ∧
    s.sweepWord.extractLsb' 22 2 = 0 ∧ s.sweepWord.extractLsb' 30 2 = 0 := by
  have hcursor : ∀ j, 11 ≤ j → s.sweep.cursor.toNat.testBit j = false := fun j hj =>
    testBit_of_small s.sweep.cursor.isLt hj
  have hstrip : ∀ j, j < 16 ∨ 22 ≤ j → agents.any (fun a => s.hasCriterion (.strip a) && decide (16 + a.val = j)) = false :=
    fun j hj => any_agents_outside _ hj
  have hdrain : ∀ j, j < 24 ∨ 30 ≤ j → agents.any (fun a => s.hasCriterion (.drain a) && decide (24 + a.val = j)) = false :=
    fun j hj => any_agents_outside _ hj
  refine ⟨?_, BitVec.eq_of_getLsbD_eq fun i hi => ?_, ?_, extract_zero_of_bits fun i hi => ?_, fun a => ⟨?_, ?_⟩,
    extract_zero_of_bits fun i hi => ?_, extract_zero_of_bits fun i hi => ?_⟩
  · rw [s.getLsbD_sweepWord (by decide), hstrip 0 (by decide), hdrain 0 (by decide)]; simp
  · rw [BitVec.getLsbD_extractLsb', s.getLsbD_sweepWord (by omega), hstrip _ (by omega), hdrain _ (by omega)]
    simp [hi, show ¬ 0 = 1 + i by omega, show ¬ 12 = 1 + i by omega, BitVec.testBit_toNat]
  · rw [s.getLsbD_sweepWord (by decide), hstrip 12 (by decide), hdrain 12 (by decide), hcursor (12 - 1) (by decide)]; simp
  · rw [s.getLsbD_sweepWord (by omega), hstrip _ (by omega), hdrain _ (by omega), hcursor _ (by omega)]
    simp [show ¬ 0 = 13 + i by omega, show ¬ 12 = 13 + i by omega]
  · have ha := a.isLt
    rw [s.getLsbD_sweepWord (by omega), any_agents_at, hdrain _ (by omega), hcursor _ (by omega)]
    simp [show ¬ 0 = 16 + a.val by omega, show ¬ 12 = 16 + a.val by omega]
  · have ha := a.isLt
    rw [s.getLsbD_sweepWord (by omega), any_agents_at, hstrip _ (by omega), hcursor _ (by omega)]
    simp [show ¬ 0 = 24 + a.val by omega, show ¬ 12 = 24 + a.val by omega]
  · rw [s.getLsbD_sweepWord (by omega), hstrip _ (by omega), hdrain _ (by omega), hcursor _ (by omega)]
    simp [show ¬ 0 = 22 + i by omega, show ¬ 12 = 22 + i by omega]
  · rw [s.getLsbD_sweepWord (by omega), hstrip _ (by omega), hdrain _ (by omega), hcursor _ (by omega)]
    simp [show ¬ 0 = 30 + i by omega, show ¬ 12 = 30 + i by omega]

/-- The occupancy word, field by field. -/
theorem State.occupancyWord_fields (s : State) :
    (s.occupancyWord.extractLsb' 0 5).toNat = s.activeIn agentPool ∧ s.occupancyWord.extractLsb' 5 3 = 0 ∧
    (s.occupancyWord.extractLsb' 8 3).toNat = s.activeIn internalPool ∧ s.occupancyWord.extractLsb' 11 5 = 0 ∧
    (s.occupancyWord.extractLsb' 16 4).toNat = s.buffersInUse ∧ s.occupancyWord.extractLsb' 20 4 = 0 ∧
    (s.pinCount ≤ 4 → (s.occupancyWord.extractLsb' 24 3).toNat = s.pinCount ∧ s.occupancyWord.extractLsb' 27 5 = 0) := by
  have hagent : s.activeIn agentPool < 2 ^ 5 := Nat.lt_of_le_of_lt (s.activeIn_le _) (by decide)
  have hinternal : s.activeIn internalPool < 2 ^ 3 := Nat.lt_of_le_of_lt (s.activeIn_le _) (by decide)
  have hbuffers : s.buffersInUse < 2 ^ 4 := Nat.lt_of_le_of_lt s.buffersInUse_le (by decide)
  refine ⟨toNat_extract_of_bits hagent fun i hi => ?_, extract_zero_of_bits fun i hi => ?_,
    toNat_extract_of_bits hinternal fun i hi => ?_, extract_zero_of_bits fun i hi => ?_,
    toNat_extract_of_bits hbuffers fun i hi => ?_, extract_zero_of_bits fun i hi => ?_,
    fun hpin => ⟨toNat_extract_of_bits (show s.pinCount < 2 ^ 3 by omega) fun i hi => ?_, extract_zero_of_bits fun i hi => ?_⟩⟩
  all_goals rw [s.getLsbD_occupancyWord (by omega)]
  · simp [show ¬ 8 ≤ i by omega, show ¬ 16 ≤ i by omega, show ¬ 24 ≤ i by omega]
  · rw [testBit_of_small hagent (by omega)]
    simp [show ¬ 8 ≤ 5 + i by omega, show ¬ 16 ≤ 5 + i by omega, show ¬ 24 ≤ 5 + i by omega]
  · rw [testBit_of_small hagent (by omega)]
    simp [show ¬ 16 ≤ 8 + i by omega, show ¬ 24 ≤ 8 + i by omega]
  · rw [testBit_of_small hagent (by omega), testBit_of_small hinternal (by omega)]
    simp [show ¬ 16 ≤ 11 + i by omega, show ¬ 24 ≤ 11 + i by omega]
  · rw [testBit_of_small hagent (by omega), testBit_of_small hinternal (by omega)]
    simp [show ¬ 24 ≤ 16 + i by omega]
  · rw [testBit_of_small hagent (by omega), testBit_of_small hinternal (by omega), testBit_of_small hbuffers (by omega)]
    simp [show ¬ 24 ≤ 20 + i by omega]
  · rw [testBit_of_small hagent (by omega), testBit_of_small hinternal (by omega), testBit_of_small hbuffers (by omega)]
    simp
  · rw [testBit_of_small hagent (by omega), testBit_of_small hinternal (by omega), testBit_of_small hbuffers (by omega),
      testBit_of_small (show s.pinCount < 2 ^ 3 by omega) (by omega)]
    simp

theorem exec_readWord_ready {s : State} (h : s.frameReady) (index : Byte) : exec (.readWord index) s =
    .next (s.answered .readWord (if index.toNat ≤ 27 then { status := .ok, data := bytes4 (s.word index.toNat) }
      else .only .badArg)) := by
  rw [exec_readWord]
  refine State.frame_command_same h ?_
  unfold State.readWord
  split <;> rfl

/-- Settles O41: each word by its own fields. -/
theorem registerWordsAreReadAsTheyStand : Obligations.RegisterWordsAreReadAsTheyStand := by
  refine ⟨fun index s h => ⟨fun hi => ?_, fun hi => ?_⟩, fun s => ?_⟩
  · rw [exec_readWord_ready h, if_pos hi]; rfl
  · rw [exec_readWord_ready h, if_neg (by omega)]; rfl
  · obtain ⟨hactive, hcursor, hregion, hgap13, hagents, hgap22, hgap30⟩ := s.sweepWord_fields
    obtain ⟨hpool, hgap5, hinternal, hgap11, hbuffers, hgap20, hpin⟩ := s.occupancyWord_fields
    refine ⟨?_, rfl, rfl, s.settings.config_eq, rfl, rfl, rfl, rfl, rfl, rfl, fun a => ?_, fieldAt_zero _, fieldAt_zero _,
      fieldAt_zero _, fieldAt_zero _, fieldAt_zero _, fieldAt_zero _, fieldAt_zero _, rfl, hactive, hcursor, hregion, hgap13,
      hagents, hgap22, hgap30, ?_, hgap5, ?_, hgap11, hbuffers, hgap20, hpin, fieldAt_zero _, rfl, s.alertOutput_iff⟩
    · rw [State.word]
      cases s.unitState <;> rfl
    · obtain ⟨hlink, hauto, hdrain, hstate, hzero⟩ := (s.port a).word_low
      rw [s.word_port a]
      refine ⟨hlink, hauto, hdrain, hstate.trans ?_, hzero, fun h => Port.word_count h⟩
      cases (s.port a).state <;> rfl
    · rw [s.activeIn_agentPool]; exact hpool
    · rw [s.activeIn_internalPool]; exact hinternal

/-! ### The words written -/

/-- A frame of WRITE_WORD whose effect is a state at rest. -/
theorem exec_write_ok {s t : State} (h : s.frameReady) (ht : t.atRest) {f : State → State × Answer}
    (hf : f s = (t, .only .ok)) : s.frame (fun s => s.command .writeWord f) =
      .next (t.answered .writeWord { status := .ok, data := [] }) :=
  State.frame_command_of h hf ht

theorem exec_writeAlertPending_ready {s : State} (h : s.frameReady) (v : BitVec 32) : exec (.writeAlertPending v) s =
    .next ((s.clearAlerts v).answered .writeWord { status := .ok, data := [] }) := by
  rw [exec_writeAlertPending]
  exact exec_write_ok h (t := s.clearAlerts v) (State.frameReady_atRest h) rfl

theorem exec_writeAlertEnable_ready {s : State} (h : s.frameReady) (v : BitVec 32) : exec (.writeAlertEnable v) s =
    .next ((s.setAlertEnable v).answered .writeWord { status := .ok, data := [] }) := by
  rw [exec_writeAlertEnable]
  exact exec_write_ok h (t := s.setAlertEnable v) (State.frameReady_atRest h) rfl

theorem State.setConfig_atRest {s : State} (h : s.atRest) (sole scrub : Bool) : (s.setConfig sole scrub).atRest :=
  State.refreshScrub_atRest (s := s.set (fun t => { t with soleReader := sole, scrubEnable := scrub })) h

theorem exec_writeInterval_ready {s : State} (h : s.frameReady) {v : BitVec 32} (hv : v.toNat ≤ 65535) :
    exec (.writeWord 7 v) s = .next (State.answered
      ({ s with settings := { s.settings with scrubInterval := v.setWidth 16 } } : State).refreshScrub
      .writeWord { status := .ok, data := [] }) := by
  rw [exec_writeWord]
  refine exec_write_ok h (State.refreshScrub_atRest
    (s := s.set (fun t => { t with scrubInterval := v.setWidth 16 })) (State.frameReady_atRest h)) ?_
  show s.setInterval v = _
  rw [State.setInterval, if_pos hv]

theorem exec_writeWord_same {s : State} (h : s.frameReady) {index : Byte} {v : BitVec 32} {x : Status}
    (hw : s.writeWord index v = (s, .only x)) :
    exec (.writeWord index v) s = .next (s.answered .writeWord { status := x, data := [] }) := by
  rw [exec_writeWord]
  exact State.frame_command_same h hw

/-- Settles O42: the timer words by their ranges, then each word by the effect its row names. -/
theorem wordsAreWritten : Obligations.WordsAreWritten := by
  refine ⟨fun index v s h => ?_, fun v on s h => ?_⟩
  · refine ⟨?_, ?_, ?_, fun hv => exec_writeInterval_ready h hv, ?_, ?_, fun hv => ?_, fun hi => ?_, fun hi => ?_⟩
    · rw [exec_writeWord]; exact State.frame_setTimer h v 100 65535 (fun t x => { t with recallTimeout := x })
    · rw [exec_writeWord]; exact State.frame_setTimer h v 50 65535 (fun t x => { t with memoryTimeout := x })
    · rw [exec_writeWord]; exact State.frame_setTimer h v 10 65535 (fun t x => { t with pinTimeout := x })
    · have htimer := State.frame_setTimer h v 0 1000 (fun t x => { t with sweepGap := x })
      simp only [Nat.zero_le, true_and] at htimer
      rw [exec_writeWord]; exact htimer
    · rw [exec_writeWord]; exact State.frame_setTimer h v 1 65535 (fun t x => { t with softThreshold := x })
    · refine exec_writeWord_same h ?_
      show s.setInterval v = _
      rw [State.setInterval, if_neg (by omega)]
    · exact exec_writeWord_same h (s.writeWord_readOnly v hi)
    · exact exec_writeWord_same h (s.writeWord_past v hi)
  · have hrest := State.frameReady_atRest h
    refine ⟨exec_writeAlertPending_ready h v, exec_writeAlertEnable_ready h v, ?_, ?_, ?_, ?_, ?_⟩
    · rw [exec_scrubEnable]; exact exec_write_ok h (s.setConfig_atRest hrest s.settings.soleReader on) rfl
    · rw [exec_soleReaderExclusive]; exact exec_write_ok h (s.setConfig_atRest hrest on s.settings.scrubEnable) rfl
    · rw [exec_writeAlertPending_ready h, exec_writeWord]
      exact exec_write_ok h (t := s.clearAlerts v) hrest rfl
    · rw [exec_writeAlertEnable_ready h, exec_writeWord]
      exact exec_write_ok h (t := s.setAlertEnable v) hrest rfl
    · rw [exec_writeWord]
      exact exec_write_ok h (s.setConfig_atRest hrest (v.getLsbD 0) (v.getLsbD 1)) rfl

/-! ### Refused commands -/

theorem State.inspect_refused {s : State} {n : BitVec 16} {w : Byte} (h : setArg n = none ∨ wayArg w = none) :
    s.inspect n w = (s, .only .badArg) := by
  unfold State.inspect
  rcases h with h | h
  · rw [h]
  · rw [h]; cases setArg n <;> rfl

theorem State.wayEnable_refused {s : State} {n : BitVec 16} {w : Byte} (h : setArg n = none ∨ wayArg w = none) :
    s.wayEnable n w = (s, .only .badArg) := by
  unfold State.wayEnable
  rcases h with h | h
  · rw [h]
  · rw [h]; cases setArg n <;> rfl

/-- INJECT with an argument that is out of range (R191). -/
theorem State.inject_refused {s : State} {n : BitVec 16} {w p m i j : Byte}
    (h : setArg n = none ∨ wayArg w = none ∨ partArg p = none ∨
      ∀ q, partArg p = some q → injectBits q.width m i j = none) : s.inject n w p m i j = (s, .only .badArg) := by
  unfold State.inject
  cases hset : setArg n <;> cases hway : wayArg w <;> cases hpart : partArg p <;> try rfl
  next n' w' q =>
    rcases h with h | h | h | h
    · rw [hset] at h; cases h
    · rw [hway] at h; cases h
    · rw [hpart] at h; cases h
    · simp only [h q hpart]

/-- INJECT with its arguments in range, outside RUNNING (R18, R191). -/
theorem State.inject_notRunning {s : State} (hrun : s.running = false) {n : BitVec 16} {w p m i j : Byte} {n' : SetNo}
    {w' : WayNo} {q : InjectPart} {l : List Nat} (hset : setArg n = some n') (hway : wayArg w = some w')
    (hpart : partArg p = some q) (hbits : injectBits q.width m i j = some l) :
    s.inject n w p m i j = (s, { status := if s.unitState = .lost then .lost else .busy, data := [] }) := by
  unfold State.inject
  rw [hset, hway, hpart]
  simp only [hbits]
  exact State.inRunning_refused hrun _

/-- Settles O44: each command by its arguments, which no state can change. -/
theorem refusedCommandsChangeNothing : Obligations.RefusedCommandsChangeNothing := by
  intro c k s h hk bits
  refine ⟨?_, fun hrun => ?_⟩
  · rintro (⟨n, w, hc, harg⟩ | ⟨a, rfl, ha⟩ | ⟨g, rfl, hg⟩ | ⟨g, d, rfl, hg⟩ | ⟨l, rfl, hl⟩ | ⟨n, w, p, m, i, j, rfl, harg⟩)
    · have hnone : setArg n = none ∨ wayArg w = none := harg.imp setArg_past wayArg_past
      rcases hc with rfl | rfl <;> cases hk
      · rw [exec_inspect]; exact State.frame_command_same h (State.inspect_refused hnone)
      · rw [exec_wayEnable]; exact State.frame_command_same h (State.wayEnable_refused hnone)
    · cases hk
      rw [exec_portReset]; refine State.frame_command_same h ?_
      rw [State.portReset, agentArg_past ha]; rfl
    · cases hk
      exact exec_regionRead_past h hg
    · cases hk
      rw [exec_regionWrite]; refine State.frame_command_same h ?_
      rw [State.regionWrite, slotArg_past hg]; rfl
    · cases hk
      rw [exec_clearPoison]; refine State.frame_command_same h ?_
      rw [State.clearPoison, lineArg_past hl]; rfl
    · cases hk
      rw [exec_inject]
      refine State.frame_command_same h (State.inject_refused ?_)
      rcases harg with hn | hw | hp | hbits
      · exact .inl (setArg_past hn)
      · exact .inr (.inl (wayArg_past hw))
      · exact .inr (.inr (.inl (partArg_past hp)))
      · refine .inr (.inr (.inr fun q hq => injectBits_bad ?_))
        have hp : p.toNat < 4 := by
          by_contra hp
          rw [partArg_past (by omega)] at hq
          cases hq
        obtain ⟨q', hq', hwidth⟩ := partArg_within hp
        cases hq.symm.trans hq'
        rw [hwidth]
        exact hbits
  · rintro (⟨n, w, hc, hn, hw⟩ | ⟨a, rfl, ha⟩ | ⟨l, rfl, hl⟩ | ⟨n, w, p, m, i, j, rfl, hn, hw, hp, hi, hm⟩)
    · obtain ⟨n', hset⟩ := setArg_within hn
      obtain ⟨w', hway⟩ := wayArg_within hw
      rcases hc with rfl | rfl <;> cases hk
      · rw [exec_inspect]; refine State.frame_command_same h ?_
        rw [State.inspect, hset, hway]; exact State.inRunning_refused hrun _
      · rw [exec_wayEnable]; refine State.frame_command_same h ?_
        rw [State.wayEnable, hset, hway]; exact State.inRunning_refused hrun _
    · cases hk
      obtain ⟨a', hagent⟩ := agentArg_within ha
      rw [exec_portReset]; refine State.frame_command_same h ?_
      rw [State.portReset, hagent]; exact State.inRunning_refused hrun _
    · cases hk
      obtain ⟨l', hline⟩ := lineArg_within hl
      rw [exec_clearPoison]; refine State.frame_command_same h ?_
      rw [State.clearPoison, hline]; exact State.inRunning_refused hrun _
    · cases hk
      obtain ⟨n', hset⟩ := setArg_within hn
      obtain ⟨w', hway⟩ := wayArg_within hw
      obtain ⟨q, hpart, hwidth⟩ := partArg_within hp
      obtain ⟨l, hbits⟩ := injectBits_good (width := q.width) (m := m) (i := i) (j := j) (hwidth ▸ hi)
        (hm.imp_right fun hm => ⟨hm.1, hwidth ▸ hm.2.1, hm.2.2⟩)
      rw [exec_inject]
      exact State.frame_command_same h (State.inject_notRunning hrun hset hway hpart hbits)

end Sys2Proof.Machine
end

section
/-! The statements of the commands that touch no record, settled. -/

namespace Sys2Proof.Machine

/-! ### INSPECT (R190) -/

/-- INSPECT of a way of a calm set reports it and changes nothing. -/
theorem exec_inspect_calm {s : State} (h : s.frameReady) (hrun : s.running = true) {set : BitVec 16} {way : Byte} {n : SetNo}
    {w : WayNo} (hset : set.toNat = n.toNat) (hway : way.toNat = w.val) (hcalm : s.calm n) :
    exec (.inspect set way) s = .next (s.answered .inspect { status := .ok, data := s.inspectBytes n w }) := by
  obtain ⟨hsound, hlost, -⟩ := State.calm_iff.1 hcalm
  rw [exec_inspect]
  refine State.frame_command_same h ?_
  rw [State.inspect, setArg_of_toNat hset, wayArg_of_toNat hway]
  dsimp only
  rw [State.inRunning_taken hrun]
  unfold State.inspectWay
  dsimp only
  rw [State.claimWay_sound hsound, if_neg (by simp [hrun])]
  split
  · rw [if_neg (by simp [State.noLost_iff.1 hlost w])]
  · rfl

/-- Settles O43: the report of a way, by what the way holds. -/
theorem inspectShowsAWay : Obligations.InspectShowsAWay := by
  intro set way n w s h hrun hset hway hcalm marks reply
  have hlost := State.noLost_iff.1 (State.calm_iff.1 hcalm).2.1 w
  have hexec := exec_inspect_calm h hrun hset hway hcalm
  refine ⟨fun hdis => ?_, fun hdis hfree => ?_, fun t ht => ?_⟩
  · have hoff : s.enabled n w = false := by rw [State.enabled, hdis]; rfl
    rw [hexec, State.inspectBytes]
    simp only [hoff, Bool.not_false, if_true]
    rfl
  · have hon : s.enabled n w = true := by rw [State.enabled, hdis]; rfl
    rw [hexec, State.inspectBytes]
    simp only [hon, Bool.not_true, Bool.false_eq_true, if_false, hfree]
    rfl
  · have hon : s.enabled n w = true := by
      by_contra hoff
      rw [State.wayTag, if_neg hoff] at ht
      cases ht
    rw [hexec, State.inspectBytes]
    simp only [hon, Bool.not_true, Bool.false_eq_true, if_false, ht, hlost]
    cases hstate : (s.recAt n w).state <;> cases hpin : (s.recAt n w).pin <;> cases hbusy : s.busy (lineOf n t) <;> rfl

/-! ### REGION-WRITE (R154) -/

/-- Settles O48: the taken descriptor, then what RUNNING adds: every recheck and the REGION criterion. -/
theorem regionWriteIsTaken : Obligations.RegionWriteIsTaken := by
  intro slot d g s h hslot hsound hover stored joined
  have hexec := exec_regionWrite_taken h hslot hsound hover
  refine ⟨fun hrun => ?_, fun hrun => ?_⟩
  · rw [hexec, State.takeRegion_notRunning hrun]
  · rw [State.takeRegion_running hrun] at hexec
    have hentry : ∀ e : EntryNo, (s.entries.map (fun (x : Entry) =>
        if x.phase != Phase.free then { x with recheck := true } else x))[e] =
          if (s.entry e).phase != Phase.free then { s.entry e with recheck := true } else s.entry e :=
      fun e => Vector.getElem_map _ _
    refine ⟨_, hexec, fun e he => (hentry e).trans (if_pos (bne_iff_ne.2 he)),
      fun e he => (hentry e).trans (if_neg (by simp [he])), ?_, ?_, fun hone => ?_, rfl⟩
    · exact s.sweep.join_eq .region
    · exact s.sweep.join_others .region
    · exact s.sweep.join_only .region hone

/-! ### PORT-RESET (R30) -/

/-- PORT-RESET in RUNNING is the effect on the port, with the internal work that it makes due. -/
theorem exec_portReset_running {s : State} (h : s.frameReady) (hrun : s.running = true) {agent : Byte} {a : Agent}
    (ha : agent.toNat = a.val) : exec (.portReset agent) s =
      .next ((s.resetPort a).finish.answered .portReset { status := .ok, data := [] }) := by
  have hf : s.portReset agent = (s.resetPort a, .only .ok) := by
    rw [State.portReset, agentArg_of_toNat ha]
    exact State.inRunning_taken hrun _
  rw [exec_portReset, State.frame_command_finish h, hf]
  rfl

/-- A state whose ports are not at the end of a departure is at rest where one with its work and its pin is. -/
theorem State.atRest_of_undrained {s t : State} (h : s.atRest) (ht : t.undrained) (hwork : t.work = s.work)
    (hreset : t.resetPin = s.resetPin) : t.atRest :=
  State.atRest_iff.2 ⟨hreset.trans (State.atRest_resetPin h), hwork.trans (State.atRest_work h), ht⟩

/-- A port given a state that does not drain leaves the unit at rest. -/
theorem State.finish_setPort {s : State} (h : s.atRest) {a : Agent} {p : Port} (hp : p.state ≠ .draining) :
    (s.setPort a p).finish = s.setPort a p :=
  State.finish_atRest (State.atRest_of_undrained h (State.undrained_setPort (State.atRest_undrained h) (Port.drained_state hp))
    rfl rfl)

theorem getLsbD_raise_same (v : BitVec 12) {c : Nat} (h : c < 12) : (v ||| (1#12 <<< c)).getLsbD c = true := by
  simp [h]

theorem State.report_alert (s : State) (r : Report) {i : Nat} (h : s.alertPending.getLsbD i = true) :
    (s.report r).alertPending.getLsbD i = true := (((Keeps.refl (b := false) s).report r).alerts i) h

/-- A failed port is FAILED with its alert raised (R29). -/
theorem State.failPort_failed (s : State) (a : Agent) (r : Option Report) : ((s.failPort a r).port a).state = .failed :=
  ((Keeps.failPort_from (t := s) a r).failed a (by rw [State.modPort_port_same]; rfl)).1

theorem State.failPort_alert (s : State) (a : Agent) (r : Option Report) :
    (s.failPort a r).alertPending.getLsbD (2 + a.val) = true := by
  have ha := a.isLt
  unfold State.failPort
  dsimp only
  cases r with
  | none => exact getLsbD_raise_same _ (show 2 + a.val < 12 by omega)
  | some r => exact State.report_alert _ r (getLsbD_raise_same _ (show 2 + a.val < 12 by omega))

theorem State.setAutoOffline_port (s : State) (a : Agent) :
    (s.setAutoOffline a).port a = { s.port a with autoOffline := true } :=
  State.modPort_port_same s a (fun (p : Port) => { p with autoOffline := true })

/-- What follows the failure of a port keeps it FAILED with the flag set, its alert pending and the settings. -/
theorem State.setAutoOffline_finish {t : State} {a : Agent} (h : (t.port a).state = .failed) :
    ((t.setAutoOffline a).finish.port a).state = .failed ∧ ((t.setAutoOffline a).finish.port a).autoOffline = true ∧
    (∀ i, t.alertPending.getLsbD i = true → (t.setAutoOffline a).finish.alertPending.getLsbD i = true) ∧
    (t.setAutoOffline a).finish.settings = t.settings := by
  have hkeep : Keeps false (t.setAutoOffline a) (t.setAutoOffline a).finish := (Keeps.refl _).finish
  obtain ⟨hstate, hauto⟩ := hkeep.failed a (by rw [State.setAutoOffline_port]; exact h)
  exact ⟨hstate, hauto.trans (by rw [State.setAutoOffline_port]), hkeep.alerts, hkeep.settings⟩

/-- Settles O49: the change of the port by its state; what follows a failure keeps it FAILED, with the flag and the alert. -/
theorem portResetActsByPortState : Obligations.PortResetActsByPortState := by
  intro agent a s h hrun ha ok
  have hexec := exec_portReset_running h hrun ha
  have hrest := State.frameReady_atRest h
  refine ⟨fun hoff => ?_, fun hfailed hstrip => ?_, fun hfailed hstrip => ?_, fun hatt => ?_⟩
  · have hreset : s.resetPort a = s.setPort a { s.port a with output := [] } := by
      unfold State.resetPort; rw [hoff]; rfl
    rw [hexec, hreset, State.finish_setPort hrest (by simp [hoff])]
  · have hreset : s.resetPort a = s.setPort a { s.port a with autoOffline := true } := by
      unfold State.resetPort; rw [hfailed]; exact if_pos hstrip
    rw [hexec, hreset, State.finish_setPort hrest (by simp [hfailed])]
  · have hreset : s.resetPort a = s.setPort a { s.port a with state := .offline, autoOffline := false, holding := 0 } := by
      unfold State.resetPort; rw [hfailed]; exact if_neg (by simp [hstrip])
    rw [hexec, hreset, State.finish_setPort hrest (by simp)]
  · have hreset : s.resetPort a = (s.failPort a none).setAutoOffline a := by
      unfold State.resetPort
      rcases hatt with hatt | hatt <;> rw [hatt]
    rw [hreset] at hexec
    obtain ⟨hstate, hauto, halert, hsettings⟩ := State.setAutoOffline_finish (t := s.failPort a none) (a := a)
      (s.failPort_failed a none)
    replace halert := halert _ (s.failPort_alert a none)
    replace hsettings := hsettings.trans ((Keeps.refl s).failPort a none).settings
    generalize ((s.failPort a none).setAutoOffline a).finish = u at hexec hstate hauto halert hsettings
    exact ⟨_, hexec, hstate, hauto, halert, hsettings, rfl⟩

/-! ### CLEAR-UNIT (R21) -/

theorem State.clearUnit_ports (s : State) : s.clearUnit.ports =
    (s.ports.map (fun (p : Port) => if p.state != PortState.offline then p.close else p)).map
      (fun (p : Port) => { p with holding := 0 }) := rfl

theorem State.clearUnit_port_offline {s : State} {a : Agent} (h : (s.port a).state = .offline) :
    s.clearUnit.port a = { s.port a with holding := 0 } := by
  have hoff : (s.ports[a.val]).state = .offline := h
  simp only [State.port, State.clearUnit_ports, Fin.getElem_fin, Vector.getElem_map, hoff, bne_self_eq_false,
    Bool.false_eq_true, if_false]

theorem State.clearUnit_port_open {s : State} {a : Agent} (h : (s.port a).state ≠ .offline) :
    s.clearUnit.port a = { (s.port a).close with holding := 0 } := by
  have hon : ((s.ports[a.val]).state != PortState.offline) = true := bne_iff_ne.2 h
  simp only [State.port, State.clearUnit_ports, Fin.getElem_fin, Vector.getElem_map, hon, if_true]

theorem State.clearUnit_atRest {s : State} (h : s.resetPin = false) : s.clearUnit.atRest := by
  refine State.atRest_iff.2 ⟨h, rfl, fun a => Port.drained_state ?_⟩
  by_cases hoff : (s.port a).state = .offline
  · rw [State.clearUnit_port_offline hoff, hoff]; exact fun h => by cases h
  · rw [State.clearUnit_port_open hoff, Port.close_eq]; exact fun h => by cases h

/-- Settles O50: the cleared unit is at rest, so the frame adds nothing. -/
theorem clearUnitDropsAllWork : Obligations.ClearUnitDropsAllWork := by
  intro s h
  have hrest := State.clearUnit_atRest (State.atRest_resetPin (State.frameReady_atRest h))
  have hwork : s.work = [] := State.atRest_work (State.frameReady_atRest h)
  have hexec : exec .clearUnit s = .next (s.clearUnit.answered .clearUnit { status := .ok, data := [] }) := by
    rw [exec_clearUnit]
    exact State.frame_command_of h (t := s.clearUnit) rfl hrest
  refine ⟨_, hexec, rfl, rfl, fun e => Vector.getElem_map _ _, fun i => Vector.getElem_map _ _,
    fun b => Vector.getElem_replicate _, rfl, rfl, fun a hoff => ?_, fun a hon => ?_, ?_⟩
  · exact State.clearUnit_port_offline hoff
  · exact (State.clearUnit_port_open hon).trans (by rw [Port.close_eq])
  · refine Eq.trans ?_ (State.due_self (l := []) ?_)
    · rfl
    · exact hwork

/-! ### INJECT (R184) -/

/-- Settles O51: one way of one set is edited in storage, and the scrubber stops. -/
theorem injectFlipsAStoredBit : Obligations.InjectFlipsAStoredBit := by
  intro set way i j n w s h hrun harray hset hway hi
  have hbits : injectBits InjectPart.state.width 1 i j = some [i.toNat] := by
    simp [injectBits, InjectPart.width, hi]
  have htaken : s.inject set way 2 1 i j = (s.injectTaken n w .state [i.toNat], .only .ok) := by
    have hpart : partArg 2 = some .state := rfl
    unfold State.inject
    rw [setArg_of_toNat hset, wayArg_of_toNat hway, hpart]
    simp only [hbits]
    exact State.inRunning_taken hrun _
  have hrest := State.frameReady_atRest h
  let y : Way := { (s.aset n).ways[w] with state := ((s.aset n).ways[w]).state.flip [i.toNat] }
  let x : ASet := { s.aset n with ways := (s.aset n).ways.set w y }
  have heff : s.injectTaken n w .state [i.toNat] =
      { s.putSet n x with
        settings := { s.settings with scrubEnable := false }, scrub := { s.scrub with timer := none } } :=
    State.refreshScrub_stops fun hon => Bool.false_ne_true hon.2.1
  have hexec : exec (.inject set way 2 1 i j) s =
      .next ((s.injectTaken n w .state [i.toNat]).answered .inject { status := .ok, data := [] }) := by
    rw [exec_inject]
    refine State.frame_command_of h htaken ?_
    rw [heff]
    exact hrest
  rw [heff] at hexec
  have haset := fun k => State.putSet_aset harray.2.2.1 n k x
  have hsame : (s.putSet n x).aset n = x := (haset n).trans (if_pos rfl)
  refine ⟨_, hexec, ?_, fun v hv => ?_, ?_, fun k hk => (haset k).trans (if_neg fun hn => hk hn.symm), rfl⟩
  · show ((s.putSet n x).aset n).ways[w] = _
    rw [hsame, ways_set, if_pos rfl]; rfl
  · show ((s.putSet n x).aset n).ways[v] = _
    rw [hsame, ways_set, if_neg fun hw => hv hw.symm]
  · show ((s.putSet n x).aset n).order = _
    rw [hsame]

/-! ### WAY-ENABLE (R16) -/

theorem State.wayEnable_sound {s : State} (hrun : s.running = true) {set : BitVec 16} {way : Byte}
    {n : SetNo} {w : WayNo} (hset : set.toNat = n.toNat) (hway : way.toNat = w.val) (hsound : s.soundSet n) :
    s.wayEnable set way = if (s.wayTag n w).isSome || s.isReserved n w then (s, .only .notAllowed)
      else (s.clearMarks n w, .only .ok) := by
  rw [State.wayEnable, setArg_of_toNat hset, wayArg_of_toNat hway]
  dsimp only
  rw [State.inRunning_taken hrun]
  unfold State.enableWay
  dsimp only
  rw [State.claimTags_sound hsound, if_neg (by simp [hrun])]

/-- Settles O53: the marks of a free way go, and the wake of its set finds no member. -/
theorem wayEnableClearsTheMarks : Obligations.WayEnableClearsTheMarks := by
  intro set way n w s h hrun hset hway hsound
  have hf := State.wayEnable_sound hrun hset hway hsound
  have hrest := State.frameReady_atRest h
  have hdry := State.atRest_undrained hrest
  refine ⟨fun huse => ?_, fun hfree hres harray hnone => ?_⟩
  · rw [exec_wayEnable]
    refine State.frame_command_same h (hf.trans (if_pos ?_))
    simpa using huse
  · rw [if_neg (by simp [hfree, hres])] at hf
    by_cases hmark : ((s.mark n w).strike || (s.mark n w).disable) = true
    · let m : Marks := { s.mark n w with strike := false, disable := false }
      have heff : s.clearMarks n w = (s.putMark n w m).push (.wake n) := if_pos hmark
      have hwork : ((s.putMark n w m).push (.wake n)).work = [.wake n] := by
        rw [State.push_work, State.putMark_work, State.atRest_work hrest]; rfl
      have hworks : Works 1 ((s.putMark n w m).push (.wake n)) (s.putMark n w m) :=
        .pass hwork hnone (by simp) hdry (by
          rw [State.push_eq_due, State.due_due, State.due_self (show (s.putMark n w m).work = [] from State.atRest_work hrest)]
          exact .none (State.atRest_work hrest))
      have hexec : exec (.wayEnable set way) s =
          .next ((s.putMark n w m).answered .wayEnable { status := .ok, data := [] }) := by
        rw [exec_wayEnable]
        exact State.frame_command_works h (hf.trans (congrArg (fun t => (t, Answer.only .ok)) heff)) hdry hworks
      have hview := fun k v => State.putMark_mark harray.2.2.2 n k w v m
      refine ⟨_, hexec, (hview n w).trans (if_pos ⟨rfl, rfl⟩), fun k v hne => (hview k v).trans (if_neg ?_), rfl⟩
      rintro ⟨rfl, rfl⟩
      exact hne rfl
    · have hclear : s.clearMarks n w = s := if_neg hmark
      rw [Bool.not_eq_true, Bool.or_eq_false_iff] at hmark
      refine ⟨_, (exec_wayEnable set way s).trans (State.frame_command_same h (hf.trans (by rw [hclear]; rfl))), ?_,
        fun k v _ => rfl, rfl⟩
      show s.mark n w = { s.mark n w with strike := false, disable := false }
      cases hm : s.mark n w
      rw [hm] at hmark
      cases hmark.1
      cases hmark.2
      rfl

/-! ### CAPTURE-READ (R185) -/

theorem exec_captureRead_ready {s : State} (h : s.frameReady) : exec .captureRead s = .next (State.answered
    { s with capture := none, counters := { s.counters with uncaptured := 0 } } .captureRead
    { status := .ok, data := s.captureBytes }) := by
  rw [exec_captureRead]
  exact State.frame_command_of h
    (t := { s with capture := none, counters := { s.counters with uncaptured := 0 } }) rfl (State.frameReady_atRest h)

/-- Settles O54: the reply is the record's bytes, field by field. -/
theorem captureReadReturnsAndClears : Obligations.CaptureReadReturnsAndClears := by
  intro s h cleared count
  have hexec := exec_captureRead_ready h
  refine ⟨fun hnone => ?_, fun r hr => ?_⟩
  · rw [hexec, State.captureBytes, hnone]
  · rw [hexec, State.captureBytes, hr]
    simp only [Report.bytes, presentBits_eq, lineBytes_eq, setBytes_eq]
    cases r.kind <;> cases r.agent <;> cases r.way <;> rcases r.sub with _ | _ | _ <;> rfl

end Sys2Proof.Machine
end

section
/-! SUPPORT. Messages at a port: what arrives, and how an event that ends at rest is its effect. -/

namespace Sys2Proof.Machine

theorem State.atRest_takes {s : State} (hrun : s.running = true) {a : Agent}
    (h : (s.port a).state = .online ∨ (s.port a).state = .draining) : s.takes a = true := by
  rw [State.takes, hrun, Port.attached_iff.2 h]; rfl

theorem State.takes_false_iff {s : State} {a : Agent} : s.takes a = false ↔
    s.running = false ∨ (s.port a).state = .offline ∨ (s.port a).state = .failed := by
  rw [State.takes, Bool.and_eq_false_iff, Port.attached]
  cases (s.port a).state <;> simp

/-- An event whose effect is a state at rest. -/
theorem State.event_atRest {s t : State} {f : State → State} (hreset : s.resetPin = false) (hf : f s = t) (ht : t.atRest) :
    s.event f = .next t := by
  rw [State.event_eq hreset, hf, State.finish_atRest ht]

/-- An event that leaves only work with nothing to do. -/
theorem State.event_idle {s t : State} {f : State → State} {l : List Task} (hreset : s.resetPin = false)
    (hf : f s = t.due l) (ht : t.atRest) (hidle : ∀ k ∈ l, t.idles k = true ∧ ∀ e a, k ≠ .notHeld e a)
    (hl : l.length ≤ Config.workBound := by decide) : s.event f = .next t := by
  have hdry : t.undrained := State.atRest_undrained ht
  rw [State.event_eq hreset, hf, State.finish_idle (s := t.due l) hidle hl hdry]
  exact congrArg Host.Outcome.next (State.due_self (State.atRest_work ht))

/-- An event that leaves one item, which has nothing to do. -/
theorem State.event_push {s t : State} {f : State → State} {k : Task} (hreset : s.resetPin = false)
    (hf : f s = t.push k) (ht : t.atRest) (hidle : t.idles k = true) (hk : ∀ e a, k ≠ .notHeld e a) :
    s.event f = .next t := by
  refine State.event_idle (l := [k]) hreset ?_ ht (fun j hj => ?_) (show 1 ≤ Config.workBound by decide)
  · rw [hf, State.push_eq_due, State.atRest_work ht]; rfl
  · obtain rfl := List.mem_singleton.1 hj
    exact ⟨hidle, hk⟩

/-- The test of departures where one port may be finished (R28). -/
theorem State.testDrained_one {s t : State} {a : Agent} (ha : s.checkDrained a = t)
    (hothers : ∀ b, b ≠ a → (s.port b).drained = false) (ht : t.undrained) : s.testDrained = t := by
  have hfold : ∀ l : List Agent, a ∈ l → l.foldl State.checkDrained s = t := by
    intro l
    induction l with
    | nil => exact fun hmem => absurd hmem (by simp)
    | cons b l ih =>
      intro hmem
      rw [List.foldl_cons]
      by_cases hba : b = a
      · rw [hba, ha]
        exact foldl_fixed _ fun c _ => State.checkDrained_none (ht c)
      · rw [State.checkDrained_none (hothers b hba)]
        exact ih (List.mem_of_ne_of_mem (fun hab => hba hab.symm) hmem)
  exact hfold agents (Keeps.mem_agents a)

/-- An event that has no effect. -/
theorem State.event_same {s : State} {f : State → State} (h : s.atRest) (hf : f s = s) : s.event f = .next s :=
  State.event_atRest (State.atRest_resetPin h) hf h

theorem State.atRest_setPort {s : State} (h : s.atRest) {a : Agent} {p : Port} (hp : p.drained = false) :
    (s.setPort a p).atRest :=
  State.atRest_of_undrained h (State.undrained_setPort (State.atRest_undrained h) hp) rfl rfl

/-- A longer output queue ends no departure (R28). -/
theorem Port.drained_output {p : Port} (h : p.drained = false) (m : OutMsg) :
    Port.drained { p with output := p.output ++ [m] } = false := by
  rw [← Bool.not_eq_true] at h ⊢
  intro hlong
  simp only [Port.drained, List.length_append, List.length_singleton, Bool.and_eq_true, decide_eq_true_eq] at h hlong
  exact h ⟨hlong.1, by omega⟩

/-! ### Reports (R185) -/

theorem State.report_none {s : State} (h : s.capture = none) (r : Report) :
    s.report r = { s with capture := some r, alertPending := s.alertPending ||| 2#12 } := by
  unfold State.report; rw [h]; rfl

theorem State.report_some {s : State} {q : Report} (h : s.capture = some q) (r : Report) : s.report r =
    { s with counters := { s.counters with
        uncaptured := if s.counters.uncaptured < 255 then s.counters.uncaptured + 1 else 255 } } := by
  unfold State.report; rw [h]; rfl

/-- A report changes the capture record, the alerts and the uncaptured count, nothing else. -/
theorem State.report_frame (s : State) (r : Report) : ∃ c v u, s.report r =
    { s with capture := c, alertPending := v, counters := { s.counters with uncaptured := u } } := by
  cases h : s.capture with
  | none => exact ⟨_, _, s.counters.uncaptured, State.report_none h r⟩
  | some q => exact ⟨s.capture, s.alertPending, _, State.report_some h r⟩

theorem State.report_atRest {s : State} (h : s.atRest) (r : Report) : (s.report r).atRest := by
  obtain ⟨c, v, u, hr⟩ := s.report_frame r
  rw [hr]; exact h

theorem State.reportProtocol_atRest {s : State} (h : s.atRest) (sub : SubReason) (a : Agent) (line : Option Line)
    (entry : Option Byte) : (s.reportProtocol sub a line entry).atRest := State.report_atRest h _

@[simp] theorem State.report_port (s : State) (r : Report) (a : Agent) : (s.report r).port a = s.port a := by
  obtain ⟨c, v, u, hr⟩ := s.report_frame r
  rw [hr]; rfl

@[simp] theorem State.report_work (s : State) (r : Report) : (s.report r).work = s.work := by
  obtain ⟨c, v, u, hr⟩ := s.report_frame r
  rw [hr]

@[simp] theorem State.report_running (s : State) (r : Report) : (s.report r).running = s.running := by
  obtain ⟨c, v, u, hr⟩ := s.report_frame r
  rw [hr]; rfl

theorem State.report_due (s : State) (r : Report) (l : List Task) : (s.due l).report r = (s.report r).due l := by
  cases h : s.capture with
  | none => rw [State.report_none h, State.report_none (s := s.due l) h]; rfl
  | some q => rw [State.report_some h, State.report_some (s := s.due l) h]; rfl

/-! ### The rows of requests and responses -/

theorem exec_request {c : Instr} {q : Request} (h : c.request = some q) (s : State) :
    exec c s = s.event (fun s => s.arriveRequest q) := by
  cases c
  case readShared a l n b => cases h; exact exec_readShared a l n b s
  case readOwn a l n b => cases h; exact exec_readOwn a l n b s
  case upgrade a l n => cases h; exact exec_upgrade a l n s
  case uncachedRead a l n b => cases h; exact exec_uncachedRead a l n b s
  case uncachedWrite a l n d m => cases h; exact exec_uncachedWrite a l n d m s
  case lockedRead a l n b => cases h; exact exec_lockedRead a l n b s
  all_goals cases h

theorem exec_response {c : Instr} {a : Agent} {m : Resp} (h : c.response = some (a, m)) (s : State) :
    exec c s = s.event (fun s => s.arriveResponse a m) := by
  cases c
  case recallAck b e u x => cases h; exact exec_recallAck a e u x s
  case recallData b e u d k => cases h; exact exec_recallData a e u d k s
  case writeback b l d => cases h; exact exec_writeback a l d s
  case drop b l => cases h; exact exec_drop a l s
  case unpin b l d => cases h; exact exec_unpin a l d s
  all_goals cases h

/-! ### The requests that wait (R62) -/

theorem State.noHeadWaits_iff {s : State} : s.noHeadWaits ↔ ∀ a, (s.port a).headWaits = false := by
  unfold State.noHeadWaits
  simp only [List.all_eq_true, Bool.not_eq_true']
  exact ⟨fun h a => h a (Keeps.mem_agents a), fun h a _ => h a⟩

theorem Port.headWaits_iff {p : Port} : p.headWaits = false ↔ p.head ≠ .held ∧ p.head ≠ .claimant := by
  simp [Port.headWaits]

/-- Where no other head waits and this port's does not, none does. -/
theorem State.noHeadWaits_setPort {s : State} {a : Agent} {p : Port} (h : ∀ b, b ≠ a → (s.port b).headWaits = false)
    (hp : p.headWaits = false) : (s.setPort a p).noHeadWaits := by
  refine State.noHeadWaits_iff.2 fun b => ?_
  rw [State.setPort_port]
  split
  · exact hp
  · next hab => exact h b fun hb => hab hb.symm

theorem Port.hasPlace_of {p : Port} (hw : p.waiters = []) (h : p.output.length < 16) : p.hasPlace = true := by
  rw [Port.hasPlace, hw]; simp [h, Config.outputQueueSize]

/-- A request refused at the admission arbiter with an output place: it leaves its queue and its label is released
(R33, R62). -/
theorem State.refuseHead_placed {s : State} {a : Agent} {q : Request} {r : Reason} (hplace : (s.port a).hasPlace = true) :
    s.refuseHead a q r = ((s.setPort a { s.port a with
      requests := (s.port a).requests.tail, head := .fresh
      output := (s.port a).output ++ [.refuse q.label q.line r] }).releaseLabel a q.label) := by
  unfold State.refuseHead
  dsimp only
  rw [if_pos hplace]
  unfold State.dropRefused State.popRequest State.place
  simp only [State.modPort_eq, State.setPort_setPort, State.setPort_port_same]

end Sys2Proof.Machine
end

section
/-! The statements of messages at a port, settled. -/

namespace Sys2Proof.Machine

/-! ### Requests (R33, R62) -/

theorem State.refuseArrival_placed {s : State} {q : Request} (h : (s.port q.agent).output.length < 16) (r : Reason)
    (sub : SubReason) : s.refuseArrival q r sub = (s.setPort q.agent { s.port q.agent with
      output := (s.port q.agent).output ++ [.refuse q.label q.line r] }).reportProtocol sub q.agent (some q.line) none := by
  unfold State.refuseArrival
  dsimp only
  rw [if_pos (show _ < Config.outputQueueSize from h)]
  rfl

theorem State.refuseArrival_full {s : State} {q : Request} (h : ¬ (s.port q.agent).output.length < 16) (r : Reason)
    (sub : SubReason) : s.refuseArrival q r sub = s.reportProtocol sub q.agent (some q.line) none := by
  unfold State.refuseArrival
  dsimp only
  rw [if_neg (show ¬ _ < Config.outputQueueSize from h)]

/-- A refused arrival, with or without an output place for the refusal. -/
theorem State.event_refuseArrival {s : State} (h : s.atRest) {q : Request} {r : Reason} {sub : SubReason}
    {f : State → State} (hf : f s = s.refuseArrival q r sub) : s.event f = .next
      ((if (s.port q.agent).output.length < 16 then
          s.setPort q.agent { s.port q.agent with output := (s.port q.agent).output ++ [.refuse q.label q.line r] }
        else s).report { kind := .protocol, sub := some sub, agent := some q.agent, line := some q.line, set := none
                         way := none, entry := none, time := s.unitTime }) := by
  split
  · next hplace =>
    refine State.event_atRest (State.atRest_resetPin h) (hf.trans (State.refuseArrival_placed hplace r sub)) ?_
    exact State.report_atRest (State.atRest_setPort h (Port.drained_output (State.atRest_undrained h q.agent) _)) _
  · next hfull =>
    exact State.event_atRest (State.atRest_resetPin h) (hf.trans (State.refuseArrival_full hfull r sub))
      (State.report_atRest h _)

/-- Settles O9: the arrival checks in turn. -/
theorem requestsArrive : Obligations.RequestsArrive := by
  refine ⟨fun c q s hc h hrun hatt hroom hlabel => ?_, fun c q s hc h hrun hatt => ⟨fun hfull => ?_, fun hroom hlabel => ?_⟩⟩
  all_goals
    have htakes := State.atRest_takes hrun hatt
    rw [exec_request hc]
  · have hf : s.arriveRequest q = s.setPort q.agent { s.port q.agent with
        labels := (s.port q.agent).labels ++ [q.label], requests := (s.port q.agent).requests ++ [q] } := by
      unfold State.arriveRequest
      rw [htakes, if_neg (by decide), if_neg (by simpa [Config.requestQueueSize] using hroom), if_neg (by simpa using hlabel)]
      rfl
    exact State.event_port h _ _ _ hf (Port.drained_labels (by simp))
  · refine State.event_refuseArrival h ?_
    unfold State.arriveRequest
    rw [htakes, if_neg (by decide), if_pos (by simpa [Config.requestQueueSize] using hfull)]
  · refine State.event_refuseArrival h ?_
    unfold State.arriveRequest
    rw [htakes, if_neg (by decide), if_neg (by simpa [Config.requestQueueSize] using hroom), if_pos (by simpa using hlabel)]

/-! ### Responses (R34, R38) -/

/-- The recalls that stay outstanding when a message arrives (R41). -/
def Resp.keeps (m : Resp) (l : List RecallRec) : List RecallRec :=
  match m with
  | .recallAck entry use _ => l.filter (fun r => !(r.entry.val == entry.toNat && r.use == use))
  | .recallData entry use _ _ => l.filter (fun r => !(r.entry.val == entry.toNat && r.use == use))
  | _ => l

theorem State.checkRecall_eq (s : State) (a : Agent) (m : Resp) :
    s.checkRecall a m = s.setPort a { s.port a with recalls := m.keeps (s.port a).recalls } := by
  cases m with
  | recallAck e u x => rfl
  | recallData e u d k => rfl
  | writeback l d => exact (State.setPort_self s a).symm
  | drop l => exact (State.setPort_self s a).symm
  | unpin l d => exact (State.setPort_self s a).symm

/-- Settles O10: a response that arrives takes its recall off the list, then joins the queue or is reported. -/
theorem responsesJoinTheQueueOrAreDiscarded : Obligations.ResponsesJoinTheQueueOrAreDiscarded := by
  intro c a m s hc h hrun hatt recalls
  have hrecalls : recalls = m.keeps (s.port a).recalls := by cases m <;> rfl
  have htakes := State.atRest_takes hrun hatt
  rw [exec_response hc, hrecalls]
  refine ⟨fun hroom => ?_, fun hfull => ?_⟩
  · have hf : s.arriveResponse a m = s.setPort a { s.port a with
        responses := (s.port a).responses ++ [{ msg := m, held := false, waits := false }]
        recalls := m.keeps (s.port a).recalls } := by
      unfold State.arriveResponse
      rw [htakes, if_neg (by decide)]
      dsimp only
      rw [State.checkRecall_eq, State.setPort_port_same, if_neg (by simpa [Config.responseQueueSize] using hroom),
        State.modPort_eq, State.setPort_port_same, State.setPort_setPort]
    exact State.event_port h _ _ _ hf (Port.drained_responses (by simp))
  · refine State.event_atRest (State.atRest_resetPin h) ?_ (State.report_atRest (State.atRest_setPort h
      (p := { s.port a with recalls := m.keeps (s.port a).recalls }) (Port.drained_responses ?_)) _)
    · unfold State.arriveResponse
      rw [htakes, if_neg (by decide)]
      dsimp only
      rw [State.checkRecall_eq, State.setPort_port_same, if_pos (by simpa [Config.responseQueueSize] using hfull)]
      rfl
    · intro hempty
      rw [show (s.port a).responses = [] from hempty] at hfull
      simp at hfull

/-! ### Messages that are discarded (R26, R34) -/

/-- Settles O11: a message that is not taken has no effect; one of no known kind is reported. -/
theorem discardedAndUnknownMessages : Obligations.DiscardedAndUnknownMessages := by
  refine ⟨fun c a s h hc hstate => ?_, fun a k s h hrun hatt => ?_, fun s r => ⟨fun hnone => State.report_none hnone r,
    fun q hq => State.report_some hq r⟩⟩
  · have hclosed : c ≠ .join a → c ≠ .leave a → s.takes a = false := fun hjoin hleave => by
      rw [State.takes_false_iff]
      rcases hstate with hrun | hfailed | ⟨hoff, -⟩ | ⟨-, hc⟩
      · exact .inl hrun
      · exact .inr (.inr hfailed)
      · exact .inr (.inl hoff)
      · exact absurd hc (by simp [hjoin, hleave])
    rcases hc with ⟨q, hq, rfl⟩ | ⟨m, hm⟩ | rfl | rfl | ⟨k, rfl⟩
    · have htakes := hclosed (by rintro rfl; cases hq) (by rintro rfl; cases hq)
      rw [exec_request hq]
      refine State.event_same h ?_
      unfold State.arriveRequest
      rw [htakes]; rfl
    · have htakes := hclosed (by rintro rfl; cases hm) (by rintro rfl; cases hm)
      rw [exec_response hm]
      refine State.event_same h ?_
      unfold State.arriveResponse
      rw [htakes]; rfl
    · rw [exec_join]
      refine State.event_same h ?_
      unfold State.joinPort
      rcases hstate with hrun | hfailed | ⟨-, hne⟩ | ⟨hdrain, -⟩
      · rw [hrun]; rfl
      · rw [hfailed]; exact ite_self _
      · exact absurd rfl hne
      · rw [hdrain]; exact ite_self _
    · rw [exec_leave]
      refine State.event_same h (if_pos ?_)
      rcases hstate with hrun | hfailed | ⟨hoff, -⟩ | ⟨hdrain, -⟩ <;> simp [*]
    · have htakes := hclosed (by simp) (by simp)
      rw [exec_unknownMessage]
      refine State.event_same h ?_
      rw [htakes]; rfl
  · rw [exec_unknownMessage]
    refine State.event_atRest (State.atRest_resetPin h) ?_ (State.report_atRest h _)
    rw [if_pos (State.atRest_takes hrun hatt)]; rfl

/-! ### Joining and leaving (R26 to R28) -/

theorem State.offerJoinAck_placed {s : State} {a : Agent} (hwait : (s.port a).waiters = [])
    (hroom : (s.port a).output.length < 16) :
    s.offerJoinAck a = s.setPort a { s.port a with output := (s.port a).output ++ [.joinAck] } := by
  unfold State.offerJoinAck
  rw [if_neg (by simp [hwait]), if_pos (Port.hasPlace_of hwait hroom)]
  rfl

/-- Settles O12: the port is ONLINE and its JOIN-ACK has a place. -/
theorem joinPlacesJoinAck : Obligations.JoinPlacesJoinAck := by
  intro a s h hrun hstate hwait hroom
  have hf : s.joinPort a = s.setPort a { s.port a with
      state := .online, output := (s.port a).output ++ [.joinAck] } := by
    unfold State.joinPort
    rw [hrun, if_neg (by decide)]
    rcases hstate with hoff | hon
    · rw [hoff]
      dsimp only
      rw [State.modPort_eq, State.offerJoinAck_placed (by rw [State.setPort_port_same]; exact hwait)
        (by rw [State.setPort_port_same]; exact hroom), State.setPort_port_same, State.setPort_setPort]
    · rw [hon]
      dsimp only
      rw [State.offerJoinAck_placed hwait hroom, ← hon]
  rw [exec_join]
  exact State.event_port h _ _ _ hf (Port.drained_state (by simp))

theorem Sweep.join_new {w : Sweep} {k : CritKind} (h : w.criteria.any (fun d => d.kind == k) = false) : w.join k = { w with
    criteria := w.criteria ++ [w.criterion k]
    state := if w.state = .idle then .processing else w.state
    way := if w.state = .idle then 0 else w.way } := by
  rw [Sweep.join_eq]; simp only [h, Bool.false_eq_true, if_false]

/-- Settles O13: LEAVE joins the DRAIN criterion and wakes no head; the head of a DRAINING port is refused. -/
theorem leavingPortsDrainAndRefuse : Obligations.LeavingPortsDrainAndRefuse := by
  refine ⟨fun a s h hrun hon hhold hheads hdrain => ?_, fun a q rest s h hrun hdrain hreq hhead hwait hroom hhold hothers => ?_⟩
  · let p : Port := { s.port a with state := .draining, drainRequested := false }
    have hf : s.leavePort a = ({ s with sweep := s.sweep.join (.drain a) }.setPort a p).push .admission := by
      unfold State.leavePort
      rw [if_neg (by simp [hrun, hon])]
      dsimp only
      rw [State.sweepJoin, if_pos (show (s.modPort a _).running = true from hrun)]
      show State.push (State.modPort (State.setPort { s with sweep := s.sweep.join (.drain a) } a
        { s.port a with state := .draining, drainRequested := true }) a _) _ = _
      rw [State.modPort_eq, State.setPort_port_same, State.setPort_setPort]
    have hrest : ({ s with sweep := s.sweep.join (.drain a) }.setPort a p).atRest :=
      State.atRest_setPort (s := { s with sweep := s.sweep.join (.drain a) }) h (Port.drained_holding hhold)
    have hidle : ({ s with sweep := s.sweep.join (.drain a) }.setPort a p).noHeadWaits :=
      State.noHeadWaits_setPort (fun b _ => State.noHeadWaits_iff.1 hheads b) (State.noHeadWaits_iff.1 hheads a)
    rw [exec_leave]
    refine (State.event_push (k := .admission) (State.atRest_resetPin h) hf hrest hidle (by simp)).trans ?_
    rw [Sweep.join_new hdrain]
    rfl
  · let p : Port := { s.port a with
      requests := rest, head := .fresh, output := (s.port a).output ++ [.refuse q.label q.line .leaving]
      labels := (s.port a).labels.filter (fun l => l != q.label) }
    have htakes := State.atRest_takes hrun (.inr hdrain)
    have hadm : s.admission a = .leaving := by
      unfold State.admission
      rw [hreq]
      simp [htakes, hdrain]
    have hf : s.admissionExamine a = (s.setPort a p).push .admission := by
      unfold State.admissionExamine
      rw [if_neg (by simpa using hhead)]
      unfold State.examine
      rw [hreq, hadm]
      dsimp only
      rw [State.refuseHead_placed (Port.hasPlace_of hwait hroom), State.releaseLabel, State.modPort_eq,
        State.setPort_port_same, State.setPort_setPort, State.checkDrained_none, hreq]
      · rfl
      · rw [State.setPort_port_same]
        exact Port.drained_holding hhold
    have hidle : (s.setPort a p).noHeadWaits := State.noHeadWaits_setPort hothers rfl
    rw [exec_admissionExamine]
    exact State.event_push (State.atRest_resetPin h) hf (State.atRest_setPort h (Port.drained_holding hhold)) hidle (by simp)

/-! ### The output queue (R28, R36) -/

theorem State.messageSent_some {s : State} {a : Agent} {m : OutMsg} {rest : List OutMsg} (hlink : (s.port a).link = true)
    (hout : (s.port a).output = m :: rest) :
    s.messageSent a = (s.setPort a { s.port a with output := rest }).push (.outputPlace a) := by
  unfold State.messageSent
  rw [if_pos (by simp [hlink, hout]), State.modPort_eq, hout]
  rfl

/-- The test of departures at a port whose six conditions hold, with no criterion to withdraw (R28). -/
theorem State.checkDrained_done {s : State} {a : Agent} (h : (s.port a).drained = true)
    (hdrain : s.hasCriterion (.drain a) = false) : s.checkDrained a = s.setPort a { s.port a with
      state := .offline, drainRequested := false, output := (s.port a).output ++ [.leaveDone] } := by
  unfold State.checkDrained
  rw [if_pos h]
  exact if_neg (by rw [show State.hasCriterion (s.modPort a _) _ = s.hasCriterion (.drain a) from rfl, hdrain]; decide)

/-- Settles O14: the head leaves, and the place goes to nobody; a DRAINING port that is finished takes it for
LEAVE-DONE. -/
theorem outputHeadIsSentAndEndsADeparture : Obligations.OutputHeadIsSentAndEndsADeparture := by
  intro a s h
  have hwork := State.atRest_work h
  have hall := State.atRest_undrained h
  refine ⟨fun m rest hlink hout hwait hstate => ?_, fun hlink => ?_,
    fun m rest hlink hout hlen hstate hhold hlabels hrecalls hresp hwait hdrain => ?_⟩
  · rw [exec_outputMessageSent]
    refine State.event_push (State.atRest_resetPin h) (State.messageSent_some hlink hout)
      (State.atRest_setPort h (Port.drained_state hstate)) ?_ (by simp)
    simp [State.idles, hwait]
  · rw [exec_outputMessageSent]
    exact State.event_same h (if_neg (by simp [hlink]))
  · let p : Port := { s.port a with output := rest }
    let q : Port := { p with state := .offline, drainRequested := false, output := rest ++ [.leaveDone] }
    have hdrained : p.drained = true := by
      simp [p, Port.drained, hstate, hhold, hlabels, hrecalls, hresp, hwait, hlen, Config.outputQueueSize]
    have hdry : ((s.setPort a q).push (.outputPlace a)).undrained :=
      State.undrained_setPort hall (Port.drained_state (by simp [q]))
    have htest : ((s.setPort a p).push (.outputPlace a)).testDrained = (s.setPort a q).push (.outputPlace a) := by
      refine State.testDrained_one (a := a) ?_ (fun b hb => ?_) hdry
      · have hport : ((s.setPort a p).push (.outputPlace a)).port a = p := State.setPort_port_same s a p
        rw [State.checkDrained_done (s := (s.setPort a p).push (.outputPlace a)) (by rw [hport]; exact hdrained) hdrain, hport]
        exact congrArg (fun t => State.push t _) (State.setPort_setPort s a p q)
      · exact (congrArg Port.drained (State.setPort_port_ne s p fun hab => hb hab.symm)).trans (hall b)
    have hidle : State.idles (s.setPort a q) (.outputPlace a) = true := by
      simp [State.idles, hwait, q, p]
    have hlist : ((s.setPort a q).push (.outputPlace a)).work = [.outputPlace a] := by
      rw [State.push_work, State.setPort_work, hwork]; rfl
    rw [exec_outputMessageSent, State.event_eq (State.atRest_resetPin h), State.messageSent_some hlink hout,
      State.finish, htest, (Works.pass hlist hidle (by simp) hdry (.none rfl)).settle _ (by decide)]
    exact congrArg Host.Outcome.next (State.due_self (s := s.setPort a q) hwork)

end Sys2Proof.Machine
end

section
/-! SUPPORT. The response handler's head, late memory replies, and the failure of a port with nothing active. -/

namespace Sys2Proof.Machine

theorem State.report_setPort (s : State) (r : Report) (a : Agent) (p : Port) :
    (s.setPort a p).report r = (s.report r).setPort a p := by
  cases h : s.capture with
  | none => rw [State.report_none h, State.report_none (s := s.setPort a p) h]; rfl
  | some q => rw [State.report_some h, State.report_some (s := s.setPort a p) h]; rfl

theorem State.idles_admission {s : State} (h : s.noHeadWaits) : s.idles .admission = true := h

theorem State.noHeadWaits_report {s : State} (h : s.noHeadWaits) (r : Report) : (s.report r).noHeadWaits :=
  State.noHeadWaits_iff.2 fun a => by rw [State.report_port]; exact State.noHeadWaits_iff.1 h a

/-! ### The head of a response queue (R92) -/

/-- A message taken from the head of its port's queue: the unit runs, the port is attached, and the queue starts with it. -/
theorem State.takesHead_iff {s : State} {a : Agent} {m : Resp} :
    s.takesHead a m ↔ s.handles a = true ∧ s.nextResponse a = some (0, m) := by
  rw [State.takesHead, Bool.and_eq_true, beq_iff_eq]

theorem State.takesHead_running {s : State} {a : Agent} {m : Resp} (h : s.takesHead a m) :
    s.running = true ∧ (s.port a).attached = true := by
  obtain ⟨hhandles, -⟩ := State.takesHead_iff.1 h
  rw [State.handles, State.takes, Bool.and_eq_true, Bool.and_eq_true] at hhandles
  exact hhandles.1

/-- The handler routes the message at the head (R92). -/
theorem State.handle_takesHead {s : State} {a : Agent} {m : Resp} {k : RespKind} (h : s.takesHead a m) (hk : m.kind = k) :
    s.handle a k = s.route a 0 m := by
  obtain ⟨hhandles, hnext⟩ := State.takesHead_iff.1 h
  unfold State.handle
  rw [hhandles, hnext]
  simp [hk]

/-- At a port that is not DRAINING the routed head leaves its queue (R92). -/
theorem State.takeResponse_head {s : State} {a : Agent} (h : (s.port a).state ≠ .draining) : s.takeResponse a 0 =
    (s.setPort a { s.port a with responses := (s.port a).responses.tail }).push .admission := by
  rw [State.takeResponse_modPort 0 h, State.modPort_eq, List.eraseIdx_zero]

/-- The heads of the request queues wait as before where a port's head is as it was. -/
theorem State.noHeadWaits_sameHead {s : State} {a : Agent} {p : Port} (h : s.noHeadWaits) (hp : p.head = (s.port a).head) :
    (s.setPort a p).noHeadWaits :=
  State.noHeadWaits_setPort (fun b _ => State.noHeadWaits_iff.1 h b)
    ((congrArg (fun k => k == HeadStand.held || k == HeadStand.claimant) hp).trans (State.noHeadWaits_iff.1 h a))

/-! ### Memory replies (R144) -/

theorem State.takenOp_none {s : State} {tag : Byte} {use : UseNo} {write : Bool}
    (h : ∀ i o, i.val = tag.toNat → (s.tag i).op = some o → (s.tag i).use ≠ use ∨ o.issued = false ∨ o.claim.write ≠ write) :
    s.takenOp tag use write = none := by
  refine List.findSome?_eq_none_iff.2 fun t _ => ?_
  cases hop : (s.tag t).op with
  | none => rfl
  | some o =>
    refine if_neg fun hall => ?_
    simp only [Bool.and_eq_true, beq_iff_eq] at hall
    obtain ⟨⟨⟨hnum, huse⟩, hissued⟩, hwrite⟩ := hall
    rcases h t o hnum hop with h | h | h
    · exact h huse
    · rw [h] at hissued; cases hissued
    · exact h hwrite

theorem mem_memTags (t : MemTagNo) : t ∈ memTags := by revert t; decide

/-- A search that only one member of the list answers. -/
theorem findSome?_of_only {α β : Type} {l : List α} {g : α → Option β} {i : α} {b : β} (hi : i ∈ l) (hg : g i = some b)
    (hothers : ∀ t, t ≠ i → g t = none) : l.findSome? g = some b := by
  induction l with
  | nil => cases hi
  | cons t l ih =>
    rw [List.findSome?_cons]
    by_cases ht : t = i
    · rw [ht, hg]
    · rw [hothers t ht]
      exact ih ((List.mem_cons.1 hi).resolve_left fun h => ht h.symm)

/-- A reply is taken for the operation its tag has issued (R144). -/
theorem State.takenOp_some {s : State} {i : MemTagNo} {o : TagOp} {write : Bool} (hop : (s.tag i).op = some o)
    (hissued : o.issued = true) (hwrite : o.claim.write = write) :
    s.takenOp (BitVec.ofNat 8 i.val) (s.tag i).use write = some (i, o) := by
  have hnum : (BitVec.ofNat 8 i.val).toNat = i.val := by
    rw [BitVec.toNat_ofNat]; exact Nat.mod_eq_of_lt (by omega)
  refine findSome?_of_only (mem_memTags i) ?_ fun t ht => ?_
  · simp [hop, hnum, hissued, hwrite]
  · have hval : t.val ≠ i.val := fun hval => ht (Fin.ext hval)
    cases (s.tag t).op with
    | none => rfl
    | some o => exact if_neg (by simp [hnum, hval])

/-! ### Verification of a calm set -/

theorem State.claimRebuilds_none {s : State} {n : SetNo} (h : s.noLost n) : s.claimRebuilds n = s := by
  refine foldl_fixed _ fun w _ => ?_
  split
  · exact if_neg (by rw [State.noLost_iff.1 h w]; simp)
  · rfl

/-! ### The failure of a port (R29) -/

theorem State.failEntry_free {s : State} {e : EntryNo} (h : (s.entry e).phase = .free) (a : Agent) :
    State.failEntry a s e = s := by
  unfold State.failEntry; rw [if_pos (by rw [h]; rfl)]

/-- What a failed port is left as where its link is down (R29). -/
def Port.fallen (p : Port) : Port :=
  { p with
    link := false, state := .failed, requests := [], head := .fresh, responses := [], output := [], waiters := []
    labels := [], recalls := [], drainRequested := false }

theorem Port.fallen_drained (p : Port) : p.fallen.drained = false := Port.drained_state (by simp [Port.fallen])

/-- The sweep engine after a port's failure: STRIP in place of DRAIN (R162). -/
def Sweep.stripped (w : Sweep) (a : Agent) : Sweep :=
  { w with criteria := w.criteria.filter (fun c => c.kind != CritKind.drain a) }.join (.strip a)

theorem State.sweepStrip_running {s : State} (h : s.running = true) (a : Agent) :
    s.sweepStrip a = { s with sweep := s.sweep.stripped a } := if_pos h

/-- LINK_DOWN of an attached port in RUNNING is its failure, reported (R24). -/
theorem State.linkFalls_attached {s : State} (hrun : s.running = true) {a : Agent}
    (h : (s.port a).state = .online ∨ (s.port a).state = .draining) :
    s.linkFalls a = (s.setPort a { s.port a with link := false }).failPort a
      (some { Report.blank .linkDown s.unitTime with agent := some a }) := by
  have hrun' : (s.setPort a { s.port a with link := false }).running = true := hrun
  unfold State.linkFalls
  dsimp only
  rw [State.modPort_eq, hrun', if_neg (by decide), State.setPort_port_same]
  rcases h with h | h
  · rw [show Port.state { s.port a with link := false } = .online from h]; rfl
  · rw [show Port.state { s.port a with link := false } = .draining from h]; rfl

/-- What follows the failure of a port: the entries' own changes, the STRIP criterion, the alert and the report (R29). -/
theorem State.failPort_down {s t : State} {a : Agent} {r : Report} (hlink : (s.port a).link = false)
    (hbuffer : s.bufferWaiters = [])
    (ht : entryNos.foldl (State.failEntry a) ((s.port a).waiters.foldl State.endWait (s.setPort a (s.port a).fallen)) = t)
    (hkeep : t.running = true) (hcap : t.capture = none) : s.failPort a (some r) =
      { t with sweep := t.sweep.stripped a, alertPending := t.alertPending ||| (1#12 <<< (2 + a.val)) ||| 2#12
               capture := some r } := by
  have hfail : (s.port a).fail = (s.port a).fallen := by
    rw [Port.fail, hlink]; rfl
  have hstart : ({ s.modPort a Port.fail with
      bufferWaiters := (s.modPort a Port.fail).bufferWaiters.filter (fun b => b != a) } : State) =
      s.setPort a (s.port a).fallen := by
    rw [State.modPort_eq, hfail, State.setPort_bufferWaiters, hbuffer]
    exact congrArg (fun l => { s.setPort a (s.port a).fallen with bufferWaiters := l }) hbuffer.symm
  unfold State.failPort
  dsimp only
  rw [hstart, ht, State.sweepStrip_running hkeep]
  exact State.report_none (s := State.raise { t with sweep := t.sweep.stripped a } (alertAgentFailed a)) hcap r

/-- The failure of a port with no entry active and nothing waiting. -/
theorem State.failPort_quiet {s : State} (hrun : s.running = true) {a : Agent} {r : Report} (hlink : (s.port a).link = false)
    (hbuffer : s.bufferWaiters = []) (hfree : ∀ e, (s.entry e).phase = .free) (hwait : (s.port a).waiters = [])
    (hcap : s.capture = none) : s.failPort a (some r) = { s.setPort a (s.port a).fallen with
      sweep := s.sweep.stripped a, alertPending := s.alertPending ||| (1#12 <<< (2 + a.val)) ||| 2#12, capture := some r } := by
  refine State.failPort_down hlink hbuffer (t := s.setPort a (s.port a).fallen) ?_ hrun hcap
  rw [hwait, List.foldl_nil]
  exact foldl_fixed _ fun e _ => State.failEntry_free (by rw [State.setPort_entry]; exact hfree e) a

/-- LINK_DOWN of an attached port with no entry active and nothing waiting. -/
theorem State.linkFalls_inert {s : State} (hrun : s.running = true) {a : Agent}
    (hatt : (s.port a).state = .online ∨ (s.port a).state = .draining) (hbuffer : s.bufferWaiters = [])
    (hfree : ∀ e, (s.entry e).phase = .free) (hwait : (s.port a).waiters = []) (hcap : s.capture = none) :
    s.linkFalls a = { s.setPort a (s.port a).fallen with
      sweep := s.sweep.stripped a, alertPending := s.alertPending ||| (1#12 <<< (2 + a.val)) ||| 2#12
      capture := some { Report.blank .linkDown s.unitTime with agent := some a } } := by
  have hport : (s.setPort a { s.port a with link := false }).port a = { s.port a with link := false } :=
    State.setPort_port_same s a _
  rw [State.linkFalls_attached hrun hatt, State.failPort_quiet (s := s.setPort a _) hrun (by rw [hport]) hbuffer hfree (by rw [hport]; exact hwait)
    hcap, hport, State.setPort_setPort]
  rfl

theorem State.recordLink_port (s : State) (a b : Agent) (up : Bool) : (s.recordLink a up).port b = s.port b := rfl

theorem State.recordLink_entry (s : State) (a : Agent) (e : EntryNo) (up : Bool) :
    (s.recordLink a up).entry e = s.entry e := rfl

/-- What every failure of a port leaves, whatever work follows it. -/
theorem State.failPort_finish (s : State) (a : Agent) (r : Option Report) :
    ((s.failPort a r).finish.port a).state = .failed ∧ (s.failPort a r).finish.alertPending.getLsbD (2 + a.val) = true ∧
    Keeps false s (s.failPort a r).finish := by
  have hkeep : Keeps false (s.failPort a r) (s.failPort a r).finish := (Keeps.refl _).finish
  exact ⟨(hkeep.failed a (s.failPort_failed a r)).1, hkeep.alerts _ (s.failPort_alert a r),
    ((Keeps.refl s).failPort a r).finish⟩

end Sys2Proof.Machine
end

section
/-! The statements of single heads, late memory replies, the scrubber, grants of entries and a port's failure, settled. -/

namespace Sys2Proof.Machine

/-- Settles O22: the reply matches no entry, so it is counted and reported, and leaves its queue. -/
theorem staleReplyIsCounted : Obligations.StaleReplyIsCounted := by
  intro a entry use m s h hheads hon htakes hmatch hm
  let t : State := { s with counters := { s.counters with
    stale := if s.counters.stale < 65535 then s.counters.stale + 1 else 65535 } }
  let p : Port := { s.port a with responses := (s.port a).responses.tail }
  let r : Report := { kind := .protocol, sub := some .staleReply, agent := some a, line := s.namedLine entry, set := none
                      way := none, entry := some entry, time := s.unitTime }
  have hroute : s.handle a .reply = (s.staleReply a entry).takeResponse a 0 := by
    rcases hm with ⟨held, rfl⟩ | ⟨d, kept, rfl⟩
    · rw [State.handle_takesHead (k := .reply) htakes rfl]
      show s.routeReply a 0 entry use _ = _
      unfold State.routeReply; rw [hmatch]
    · rw [State.handle_takesHead (k := .reply) htakes rfl]
      show s.routeReply a 0 entry use _ = _
      unfold State.routeReply; rw [hmatch]
  have hstale : s.staleReply a entry = t.report r := rfl
  have hport : (t.report r).port a = s.port a := State.report_port t r a
  have hf : s.handle a .reply = ((t.setPort a p).report r).push .admission := by
    rw [hroute, hstale, State.takeResponse_head (by rw [hport, hon]; decide), hport, State.report_setPort]
  rw [exec_responseHandlerRecallReply]
  refine State.event_push (k := .admission) (t := (t.setPort a p).report r) (State.atRest_resetPin h) hf ?_ ?_ (by simp)
  · exact State.report_atRest (State.atRest_setPort (s := t) h (Port.drained_state (by simp [p, hon]))) r
  · exact State.idles_admission (State.noHeadWaits_report (State.noHeadWaits_sameHead (s := t) (p := p) hheads rfl) r)

/-- Settles O25: the sender is not listed, so the message is acknowledged and reported. -/
theorem writebackFromANonHolder : Obligations.WritebackFromANonHolder := by
  intro a l d s h hheads hon htakes hidle hcalm hlisted hwait hroom
  obtain ⟨hrun, hatt⟩ := State.takesHead_running htakes
  obtain ⟨hsound, hlost, hfailed⟩ := State.calm_iff.1 hcalm
  let q : Port := { s.port a with output := (s.port a).output ++ [.wbAck l] }
  let p : Port := { q with responses := (s.port a).responses.tail }
  let r : Report := { kind := .protocol, sub := some .unexpected, agent := some a, line := some l, set := none, way := none
                      entry := none, time := s.unitTime }
  have hidleWb : s.idleWb a 0 l d false = s.strangerWb a 0 l false := by
    unfold State.idleWb
    unfold State.listed at hlisted
    cases hrec : s.lineRec l with
    | none => rfl
    | some wr => rw [hrec] at hlisted; simp only at hlisted; simp [hlisted]
  have hroute : s.handle a .writeback = s.strangerWb a 0 l false := by
    rw [State.handle_takesHead (k := .writeback) htakes rfl]
    show s.routeWb a 0 l d false = _
    unfold State.routeWb
    rw [hidle]
    dsimp only
    rw [State.claimLine_sound hsound, if_neg (by simp [hrun]), State.lineLost_calm hlost, if_neg (by decide),
      State.stripFailed_none hfailed, hidleWb]
  have hack : (s.offerAck a (ackMsg l false)) = s.setPort a q := by
    unfold State.offerAck
    rw [if_neg (by simp [hatt]), if_pos (Port.hasPlace_of hwait hroom)]
    rfl
  have hreport : (s.setPort a q).reportUnexpected a l = (s.setPort a q).report r := by
    have hbusy : (s.setPort a q).busy l = none := hidle
    unfold State.reportUnexpected
    rw [hbusy]
    rfl
  have hport : ((s.setPort a q).report r).port a = q := by rw [State.report_port, State.setPort_port_same]
  have hf : s.handle a .writeback = ((s.setPort a p).report r).push .admission := by
    rw [hroute, State.strangerWb, hack, hreport, State.takeResponse_head (by rw [hport]; simp [q, hon]), hport,
      State.report_setPort, State.report_setPort, State.setPort_setPort]
  rw [exec_responseHandlerWriteback]
  refine State.event_push (k := .admission) (t := (s.setPort a p).report r) (State.atRest_resetPin h) hf ?_ ?_ (by simp)
  · exact State.report_atRest (State.atRest_setPort h (Port.drained_state (by simp [p, q, hon]))) r
  · exact State.idles_admission (State.noHeadWaits_report (State.noHeadWaits_sameHead (p := p) hheads rfl) r)

/-- Settles O29: a reply that no tag's operation takes is late. -/
theorem lateMemoryRepliesAreCounted : Obligations.LateMemoryRepliesAreCounted := by
  intro tag use status d kind s h late
  refine ⟨fun hlate => ?_, fun hlate => ?_, exec_unknownMemoryReply_late h kind⟩
  · rw [exec_memData]
    refine State.event_countLateMem h ?_
    unfold State.memDataArrives
    by_cases hrun : s.running = true
    · rw [if_pos hrun, State.takenOp_none fun i o hi ho => ?_]
      rcases hlate with hstop | hlate
      · rw [hrun] at hstop; cases hstop
      · simpa using hlate i o hi ho
    · rw [if_neg hrun]
  · rw [exec_memDone]
    refine State.event_countLateMem h ?_
    unfold State.memDoneArrives
    by_cases hrun : s.running = true
    · rw [if_pos hrun, State.takenOp_none fun i o hi ho => ?_]
      rcases hlate with hstop | hlate
      · rw [hrun] at hstop; cases hstop
      · simpa using hlate i o hi ho
    · rw [if_neg hrun]

/-- Settles O35: a calm set is read without an edit, and the timer starts again. -/
theorem scrubberReadsASetAndRunsWhileEnabled : Obligations.ScrubberReadsASetAndRunsWhileEnabled := by
  refine ⟨fun s h hrun htimer hen hint hcalm => ?_, fun s => ⟨State.refreshScrub_runs, State.refreshScrub_stops⟩⟩
  obtain ⟨hsound, hlost, -⟩ := State.calm_iff.1 hcalm
  have hnext : nextSet s.scrub.cursor = s.scrub.cursor + 1 := rfl
  have hlast : (s.scrub.cursor == BitVec.allOnes 11) = decide (s.scrub.cursor = 2047) := rfl
  rw [exec_scrubIntervalExpiry]
  refine State.event_atRest (State.atRest_resetPin h) ?_ h
  unfold State.scrubExpires
  rw [if_neg (by simp [hrun, Option.isSome_iff_ne_none.1 htimer])]
  dsimp only
  rw [State.claimAll_sound hsound, if_neg (by simp [hrun]), State.claimRebuilds_none hlost, hlast, hnext]
  simp only [decide_eq_true_eq]
  exact State.refreshScrub_runs (s := { s with scrub := _ }) ⟨hrun, hen, hint⟩

/-- Settles O16: the head takes the free entry, and its STARTING is due. -/
theorem admissionAllocatesAnEntry : Obligations.AdmissionAllocatesAnEntry := by
  intro a q rest e s h hrun hon hreq hhead hguard hbusy hentry hplaces
  have htakes := State.atRest_takes hrun (.inl hon)
  have hadm : s.admission a = .needEntry := by
    unfold State.admission
    rw [hreq]
    simp [htakes, hon, hguard, hbusy]
  have hexamine : s.examine a = ({ s.allocHead a q e with position := a }, true) := by
    unfold State.examine
    rw [hreq, hadm]
    dsimp only
    rw [hentry]
    exact if_pos hplaces
  have hf : s.admissionExamine a = { s with
      ports := s.ports.set a { s.port a with requests := rest, head := .fresh }
      entries := s.entries.set e { Entry.free ((s.entry e).use + 1) with
        kind := .req q.kind, origin := some (q.agent, q.label), line := q.line, phase := .starting
        buffer := if q.kind = .uncachedWrite then q.data else 0
        mask := if q.kind = .uncachedWrite then q.mask else 0
        first := q.first }
      position := a
      work := [.start e, .admission, .admission] } := by
    unfold State.admissionExamine
    rw [if_neg (by simpa using hhead), hexamine, State.allocHead, State.popRequest, State.modPort_eq, hreq]
    dsimp only
    rw [Entry.ofRequest]
    simp only [beq_iff_eq]
    rw [State.push, State.push, State.push]
    dsimp only
    rw [State.setEntry_work, State.setPort_work, State.atRest_work h]
    rfl
  rw [exec_admissionExamine, State.event_eq (State.atRest_resetPin h), hf]

theorem State.grantInternal_rebuild {s : State} {e : EntryNo} {c : RebuildClaim} {rest : List RebuildClaim}
    (hrun : s.running = true) (hclaims : s.rebuildClaims = c :: rest) (hentry : s.freeEntry internalPool = some e) :
    s.grantInternal = s.grantRebuild e c rest := by
  unfold State.grantInternal
  rw [if_neg (by simp [hrun]), hentry, hclaims]

/-- Settles O19: the REBUILD claim comes first, and a busy line withdraws it. -/
theorem internalPoolGrantsARebuild : Obligations.InternalPoolGrantsARebuild := by
  intro e c rest s h hrun hclaims
  rw [exec_internalPoolGrant]
  refine ⟨fun hentry hbusy => ?_, fun b hentry hbusy => ?_, fun hfull => ?_⟩
  · have hidle : ({ s with rebuildClaims := rest } : State).busy c.line = none := hbusy
    rw [State.event_eq (State.atRest_resetPin h), State.grantInternal_rebuild hrun hclaims hentry, State.grantRebuild]
    dsimp only
    rw [hidle, if_neg (by simp), State.allocInternal, State.push, State.push, State.setInternal]
    rw [State.setEntry_work, show ({ s with rebuildClaims := rest } : State).work = [] from State.atRest_work h]
    rfl
  · have hbusy' : ({ s with rebuildClaims := rest } : State).busy c.line = some b := hbusy
    refine State.event_atRest (t := { s with rebuildClaims := rest }) (State.atRest_resetPin h) ?_ h
    rw [State.grantInternal_rebuild hrun hclaims hentry, State.grantRebuild]
    rw [hbusy']
    rfl
  · refine State.event_same h ?_
    unfold State.grantInternal
    rw [if_neg (by simp [hrun]), hfull]

/-- Settles O7: what follows the failure keeps it; with nothing active, nothing follows it. -/
theorem agentFailureFailsThePort : Obligations.AgentFailureFailsThePort := by
  refine ⟨fun c a s hreset hrun hatt hc => ?_, fun a s h hrun hatt hfree hwait hbuffer hcap => ?_⟩
  · rcases hc with rfl | ⟨e, u, rfl, r, hr, hre, hru⟩
    · have hattached : ((s.recordLink a false).port a).state = .online ∨ ((s.recordLink a false).port a).state = .draining := hatt
      obtain ⟨hstate, halert, hkeep⟩ := State.failPort_finish ((s.recordLink a false).setPort a
        { s.port a with link := false }) a (some { Report.blank .linkDown s.unitTime with agent := some a })
      refine ⟨_, ?_, hstate, halert, hkeep.settings, hkeep.unitTime, hkeep.executing, hkeep.answer, hkeep.pending⟩
      rw [exec_linkDown, State.event_eq (s := s.recordLink a false) hreset,
        State.linkFalls_attached (s := s.recordLink a false) hrun hattached]
      rfl
    · obtain ⟨hstate, halert, hkeep⟩ := State.failPort_finish s a (some { Report.blank .recallTimeout s.unitTime with
        agent := some a, entry := some (entryByte e), line := some (s.entry e).line })
      refine ⟨_, ?_, hstate, halert, hkeep.settings, hkeep.unitTime, hkeep.executing, hkeep.answer, hkeep.pending⟩
      have hlist : (s.port a).recalls.any (fun r => r.entry == e && r.use == u) = true :=
        List.any_eq_true.2 ⟨r, hr, by simp [hre, hru]⟩
      rw [exec_recallTimerExpiry, State.event_eq hreset, State.recallExpires,
        if_pos (by rw [State.atRest_takes hrun hatt, hlist]; rfl)]
  · let u : State := s.recordLink a false
    have hport : ∀ b, u.port b = s.port b := fun b => State.recordLink_port s a b false
    have hentry : ∀ e, u.entry e = s.entry e := fun e => State.recordLink_entry s a e false
    have hrest : u.atRest := State.atRest_recordLink h a false
    have hdry : (u.setPort a (u.port a).fallen).undrained :=
      State.undrained_setPort (State.atRest_undrained hrest) (u.port a).fallen_drained
    have hf := State.linkFalls_inert (s := u) hrun (by rw [hport]; exact hatt) hbuffer (fun e => by rw [hentry]; exact hfree e)
      (by rw [hport]; exact hwait) hcap
    refine ⟨_, (exec_linkDown a s).trans (State.event_atRest (State.atRest_resetPin h) hf
      (State.atRest_of_undrained hrest hdry rfl rfl)), ?_, fun b hb => ?_, rfl, rfl, rfl, rfl⟩
    · exact (State.setPort_port_same u a _).trans (by rw [hport]; simp [Port.fallen, hwait])
    · exact (State.setPort_port_ne u _ fun hab => hb hab.symm).trans (hport b)

end Sys2Proof.Machine
end

section
/-! SUPPORT. The memory port: the operation of an entry, the grant of a claim, and replies that are taken. -/

namespace Sys2Proof.Machine

/-! ### The operation of an entry (R50) -/

theorem State.memOp_none_iff {s : State} {e : EntryNo} : s.memOp e = none ↔
    (∀ c ∈ s.claimQueue, c.claimant ≠ .entry e) ∧ ∀ i o, (s.tag i).op = some o → o.claim.claimant ≠ .entry e := by
  have htags : (memTags.findSome? fun t => match (s.tag t).op with
      | some o => if o.claim.claimant == .entry e then some o.claim.write else none
      | none => none) = none ↔ ∀ i o, (s.tag i).op = some o → o.claim.claimant ≠ .entry e := by
    rw [List.findSome?_eq_none_iff]
    constructor
    · intro h i o ho hc
      have hi := h i (mem_memTags i)
      rw [ho] at hi
      simp [hc] at hi
    · intro h i _
      cases ho : (s.tag i).op with
      | none => rfl
      | some o => exact if_neg (by simpa using h i o ho)
  unfold State.memOp
  cases hfind : s.claimQueue.find? (fun c => c.claimant == .entry e) with
  | some c =>
    have hc := List.find?_some hfind
    refine ⟨fun h => by simp at h, fun h => absurd (by simpa using hc) (h.1 c (List.mem_of_find?_eq_some hfind))⟩
  | none =>
    have hq : ∀ c ∈ s.claimQueue, c.claimant ≠ .entry e := fun c hc => by
      simpa using List.find?_eq_none.1 hfind c hc
    exact ⟨fun h => ⟨hq, htags.1 h⟩, fun h => htags.2 h.2⟩

/-- The operation of an entry is the one that a tag carries for it. -/
theorem State.memOp_tag {s : State} {e : EntryNo} {i : MemTagNo} {o : TagOp}
    (hq : ∀ c ∈ s.claimQueue, c.claimant ≠ .entry e) (hop : (s.tag i).op = some o) (hc : o.claim.claimant = .entry e)
    (hothers : ∀ j p, j ≠ i → (s.tag j).op = some p → p.claim.claimant ≠ .entry e) : s.memOp e = some o.claim.write := by
  have hfind : s.claimQueue.find? (fun c => c.claimant == .entry e) = none :=
    List.find?_eq_none.2 fun c hmem => by simpa using hq c hmem
  unfold State.memOp
  rw [hfind]
  refine findSome?_of_only (mem_memTags i) ?_ fun j hj => ?_
  · rw [hop]; exact if_pos (by simp [hc])
  · cases hjop : (s.tag j).op with
    | none => rfl
    | some p => exact if_neg (by simpa using hothers j p hj hjop)

theorem State.memOp_congr {s t : State} (hq : t.claimQueue = s.claimQueue) (ht : t.tags = s.tags) (e : EntryNo) :
    t.memOp e = s.memOp e := by
  have htag : ∀ i, t.tag i = s.tag i := fun i => congrArg (fun v : Vector MemTag 8 => v[i]) ht
  unfold State.memOp
  rw [hq]
  simp only [htag]

/-- An entry whose one operation has ended has none (R144). -/
theorem State.memOp_freeTag {s : State} {e : EntryNo} {i : MemTagNo} (hq : s.claimQueue = [])
    (hothers : ∀ j o, j ≠ i → (s.tag j).op = some o → o.claim.claimant ≠ .entry e) : (s.freeTag i).memOp e = none := by
  refine State.memOp_none_iff.2 ⟨fun c hc => ?_, fun j o hj => ?_⟩
  · rw [show (s.freeTag i).claimQueue = [] from hq] at hc
    cases hc
  · by_cases hij : i = j
    · subst hij
      rw [State.freeTag, State.setTag_tag_same] at hj
      cases hj
    · rw [State.freeTag, State.setTag_tag_ne s _ hij] at hj
      exact hothers j o (fun h => hij h.symm) hj

/-- The tag just granted to an entry carries its operation. -/
theorem State.memOp_granted {s : State} {e : EntryNo} {i : MemTagNo} {c : MemClaim} (h : s.memOp e = none)
    (hc : c.claimant = .entry e) : (s.setTag i (s.grantedTag i c)).memOp e = some c.write := by
  obtain ⟨hq, htags⟩ := State.memOp_none_iff.1 h
  refine State.memOp_tag (i := i) (o := { claim := c, issued := true, left := s.settings.memoryTimeout.toNat }) hq ?_ hc
    fun j p hj hp => ?_
  · rw [State.setTag_tag_same]; rfl
  · rw [State.setTag_tag_ne s _ fun hij => hj hij.symm] at hp
    exact htags j p hp

/-! ### Grants (R142) -/

theorem State.grantTag_empty {s : State} (h : s.claimQueue = []) (t : MemTagNo) : s.grantTag t = s := by
  unfold State.grantTag; rw [h]

theorem State.grantTags_empty {s : State} (h : s.claimQueue = []) : s.grantTags = s :=
  foldl_fixed _ fun t _ => State.grantTag_empty h t

theorem State.regrant_empty {s : State} (h : s.claimQueue = []) : s.regrant = s := by
  unfold State.regrant; rw [State.grantTags_empty h]; exact ite_self _

/-- The message that an operation's issue sends (R142). -/
def State.issueMsg (s : State) (i : MemTagNo) (c : MemClaim) : MemMsg :=
  if c.write then .write i ((s.tag i).use + 1) c.line (s.claimantData c.claimant) else .read i ((s.tag i).use + 1) c.line

/-- A claim granted at once: the tag carries it, and its message is sent. -/
def State.claimed (s : State) (i : MemTagNo) (c : MemClaim) : State :=
  ({ s with memSent := s.memSent ++ [s.issueMsg i c] } : State).setTag i (s.grantedTag i c)

/-- The one claim that waits takes the lowest-numbered FREE tag, and no buffer holds it back (R142). -/
theorem State.grantTags_one {s : State} {i : MemTagNo} {c : MemClaim} (hq : s.claimQueue = [c]) (htag : (s.tag i).op = none)
    (hbefore : ∀ j, j < i → (s.tag j).op ≠ none) (hheld : s.heldBehind c = false) :
    s.grantTags = ({ s with claimQueue := [] } : State).claimed i c := by
  have hpass : ∀ l : List MemTagNo, (∀ j ∈ l, j < i) → l.foldl State.grantTag s = s := fun l hl =>
    foldl_fixed _ fun j hj => by
      unfold State.grantTag
      obtain ⟨o, ho⟩ := Option.ne_none_iff_exists'.1 (hbefore j (hl j hj))
      rw [hq, ho]
  have hgrant : s.grantTag i = ({ s with claimQueue := [] } : State).claimed i c := by
    unfold State.grantTag
    rw [hq, htag]
    dsimp only
    rw [if_neg (by
      rw [show State.heldBehind (State.setTag { s with claimQueue := [] } i _) c = s.heldBehind c from rfl, hheld]; decide)]
    unfold State.issueTag
    rw [State.setTag_tag_same]
    dsimp only
    rw [State.setTag_setTag]
    rfl
  have hsplit : memTags = memTags.take i.val ++ i :: memTags.drop (i.val + 1) := by
    clear hgrant hpass hbefore htag
    revert i; decide
  have hlow : ∀ j ∈ memTags.take i.val, j < i := by
    clear hgrant hpass hbefore htag hsplit
    revert i; decide
  rw [State.grantTags, hsplit, List.foldl_append, hpass _ hlow, List.foldl_cons, hgrant]
  exact foldl_fixed _ fun t _ => State.grantTag_empty rfl t

/-- A claim with no other waiting is granted the lowest-numbered FREE tag and issued (R142). -/
theorem State.claimMem_granted {s : State} {i : MemTagNo} {c : MemClaim} (hq : s.claimQueue = [])
    (htag : (s.tag i).op = none) (hbefore : ∀ j, j < i → (s.tag j).op ≠ none)
    (howing : c.write = true ∨ s.owingBuffer c.line = none) (hheld : s.heldBehind c = false) :
    s.claimMem c = s.claimed i c := by
  have hjoined : ({ s with claimQueue := s.claimQueue ++ [c] } : State).grantTags = s.claimed i c := by
    rw [State.grantTags_one (s := { s with claimQueue := s.claimQueue ++ [c] }) (i := i) (c := c)
      (by rw [hq]; rfl) htag hbefore hheld]
    exact congrArg (fun l => State.claimed { s with claimQueue := l } i c) hq.symm
  unfold State.claimMem
  rw [if_neg, hjoined]
  rcases howing with hwrite | hnone
  · simp [hwrite]
  · simp [hnone]

/-- The first member that satisfies a predicate in an ascending list: no lower member does. -/
theorem find?_least {n : Nat} {l : List (Fin n)} {p : Fin n → Bool} {i j : Fin n} (hl : l.Pairwise (· < ·))
    (h : l.find? p = some i) (hj : j ∈ l) (hlt : j < i) : p j = false := by
  induction l with
  | nil => cases hj
  | cons a l ih =>
    obtain ⟨hlow, htail⟩ := List.pairwise_cons.1 hl
    rw [List.find?_cons] at h
    cases hp : p a with
    | true =>
      rw [hp] at h
      cases h
      rcases List.mem_cons.1 hj with rfl | hmem
      · exact absurd hlt (by omega)
      · exact absurd hlt (by have := hlow j hmem; omega)
    | false =>
      rw [hp] at h
      rcases List.mem_cons.1 hj with rfl | hmem
      · exact hp
      · exact ih htail h hmem

/-- What it is for a tag to be ready for the claim of a line: no claim waits, the tag is the lowest FREE one, no buffer
owes the line's poison or is writing it. -/
theorem State.tagReady_iff {s : State} {l : Line} {i : MemTagNo} (h : s.tagReady l i) :
    s.claimQueue = [] ∧ (s.tag i).op = none ∧ (∀ j, j < i → (s.tag j).op ≠ none) ∧ s.owingBuffer l = none ∧
    ∀ b, (s.buffer b).state = .writing → (s.buffer b).line ≠ l := by
  simp only [State.tagReady, Bool.and_eq_true, List.isEmpty_iff, beq_iff_eq, Option.isNone_iff_eq_none] at h
  obtain ⟨⟨⟨hq, hfind⟩, howing⟩, hbuffers⟩ := h
  refine ⟨hq, by simpa using List.find?_some hfind, fun j hj => ?_, howing, fun b hb hl => ?_⟩
  · exact fun hnone => by simpa [hnone] using find?_least (by decide) hfind (mem_memTags j) hj
  · have hmem : b ∈ bufferNos := by clear * -; revert b; decide
    have hall := List.all_eq_true.1 hbuffers b hmem
    simp [hb, hl] at hall

theorem State.heldBehind_none {s : State} {c : MemClaim}
    (h : ∀ b, (s.buffer b).state = .writing → (s.buffer b).line = c.line → c.claimant = .buffer b) : s.heldBehind c = false := by
  refine List.any_eq_false.2 fun b _ hb => ?_
  simp only [Bool.and_eq_true, beq_iff_eq, bne_iff_ne, ne_eq] at hb
  exact hb.2 (h b hb.1.1 hb.1.2)

/-- A claim of an entry with a tag ready is granted. -/
theorem State.claimMem_ready {s : State} {i : MemTagNo} {c : MemClaim} (h : s.tagReady c.line i) :
    s.claimMem c = s.claimed i c := by
  obtain ⟨hq, htag, hbefore, howing, hbuffers⟩ := State.tagReady_iff h
  exact State.claimMem_granted hq htag hbefore (.inr howing)
    (State.heldBehind_none fun b hb hl => absurd hl (hbuffers b hb))

/-- The readiness of a tag, read off the parts of the state it speaks of. -/
theorem State.tagReady_congr {s t : State} (hq : t.claimQueue = s.claimQueue) (ht : t.tags = s.tags)
    (hb : t.buffers = s.buffers) (l : Line) (i : MemTagNo) : t.tagReady l i = s.tagReady l i := by
  have htag : ∀ j, t.tag j = s.tag j := fun j => congrArg (fun v : Vector MemTag 8 => v[j]) ht
  have hbuffer : ∀ b, t.buffer b = s.buffer b := fun b => congrArg (fun v : Vector WbBuffer 8 => v[b]) hb
  unfold State.tagReady State.owingBuffer
  rw [hq]
  simp only [htag, hbuffer]

theorem State.owingBuffer_congr {s t : State} (hb : t.buffers = s.buffers) (l : Line) : t.owingBuffer l = s.owingBuffer l := by
  have hbuffer : ∀ b, t.buffer b = s.buffer b := fun b => congrArg (fun v : Vector WbBuffer 8 => v[b]) hb
  unfold State.owingBuffer
  simp only [hbuffer]

/-! ### Replies that are taken (R144) -/

theorem State.memDataArrives_taken {s : State} (hrun : s.running = true) {i : MemTagNo} {o : TagOp}
    (hop : (s.tag i).op = some o) (hissued : o.issued = true) (hread : o.claim.write = false) (status : Byte) (d : LineData)
    (hq : ((s.freeTag i).memDataTaken o.claim status d).claimQueue = []) :
    s.memDataArrives (BitVec.ofNat 8 i.val) (s.tag i).use status d = (s.freeTag i).memDataTaken o.claim status d := by
  unfold State.memDataArrives
  rw [if_pos hrun, State.takenOp_some hop hissued hread]
  exact State.regrant_empty hq

theorem State.memDoneArrives_taken {s : State} (hrun : s.running = true) {i : MemTagNo} {o : TagOp}
    (hop : (s.tag i).op = some o) (hissued : o.issued = true) (hwrite : o.claim.write = true) (status : Byte)
    (hq : ((s.freeTag i).memDoneTaken o.claim status).claimQueue = []) :
    s.memDoneArrives (BitVec.ofNat 8 i.val) (s.tag i).use status = (s.freeTag i).memDoneTaken o.claim status := by
  unfold State.memDoneArrives
  rw [if_pos hrun, State.takenOp_some hop hissued hwrite]
  exact State.regrant_empty hq

end Sys2Proof.Machine
end

section
/-! SUPPORT. Record edits as one write of a set: what they leave of the set, the lookups after them, and the holding counts. -/

namespace Sys2Proof.Machine

/-! ### The set after an edit (R7 to R13) -/

/-- The set with a way freed: both tag copies not in use, the way out of the recency order (R11). -/
def ASet.freed (x : ASet) (w : WayNo) : ASet :=
  { ways := x.ways.set w { x.ways[w] with tag1 := Coded.fresh none, tag2 := Coded.fresh none }
    order := Coded.fresh (x.order.value.filter (fun v => v != w)) }

/-- The set with a state part rewritten (R8). -/
def ASet.stated (x : ASet) (w : WayNo) (r : Rec) : ASet :=
  { x with ways := x.ways.set w { x.ways[w] with state := Coded.fresh r } }

/-- The set with a way at the front of the recency order (R13). -/
def ASet.fronted (x : ASet) (w : WayNo) : ASet :=
  { x with order := Coded.fresh (w :: x.order.value.filter (fun v => v != w)) }

/-- The set with a record written into a way (R7). -/
def ASet.installed (x : ASet) (w : WayNo) (t : RecTag) (r : Rec) : ASet :=
  { ways := x.ways.set w { tag1 := Coded.fresh (some t), tag2 := Coded.fresh (some t), state := Coded.fresh r }
    order := Coded.fresh (w :: x.order.value.filter (fun v => v != w)) }

/-- The set after a rewrite of the state part, with the way at the front where asked. -/
def ASet.edited (x : ASet) (w : WayNo) (r : Rec) (touch : Bool) : ASet :=
  if touch then (x.stated w r).fronted w else x.stated w r

theorem ASet.freed_ways_ne (x : ASet) {w v : WayNo} (h : v ≠ w) : (x.freed w).ways[v] = x.ways[v] :=
  (ways_set _ w v _).trans (if_neg fun hw => h hw.symm)

theorem ASet.edited_ways_ne (x : ASet) {w v : WayNo} (r : Rec) (touch : Bool) (h : v ≠ w) :
    (x.edited w r touch).ways[v] = x.ways[v] := by
  cases touch <;> exact (ways_set _ w v _).trans (if_neg fun hw => h hw.symm)

theorem ASet.edited_ways_same (x : ASet) (w : WayNo) (r : Rec) (touch : Bool) :
    (x.edited w r touch).ways[w] = { x.ways[w] with state := Coded.fresh r } := by
  cases touch <;> exact (ways_set _ w w _).trans (if_pos rfl)

theorem ASet.installed_ways_ne (x : ASet) {w v : WayNo} (t : RecTag) (r : Rec) (h : v ≠ w) :
    (x.installed w t r).ways[v] = x.ways[v] := (ways_set _ w v _).trans (if_neg fun hw => h hw.symm)

theorem ASet.installed_ways_same (x : ASet) (w : WayNo) (t : RecTag) (r : Rec) : (x.installed w t r).ways[w] =
    { tag1 := Coded.fresh (some t), tag2 := Coded.fresh (some t), state := Coded.fresh r } :=
  (ways_set _ w w _).trans (if_pos rfl)

theorem ASet.edited_order (x : ASet) (w : WayNo) (r : Rec) : (x.edited w r false).order = x.order := rfl

theorem ASet.edited_front (x : ASet) (w : WayNo) (r : Rec) :
    (x.edited w r true).order.value = w :: x.order.value.filter (fun v => v != w) := rfl

/-! ### Lookups, read off the sets and the marks -/

theorem State.wayTag_congr {s t : State} (hs : t.sets = s.sets) (hm : t.marks = s.marks) (n : SetNo) (w : WayNo) :
    t.wayTag n w = s.wayTag n w := by
  unfold State.wayTag State.enabled State.mark State.aset
  rw [hs, hm]

theorem State.lookup_congr {s t : State} (hs : t.sets = s.sets) (hm : t.marks = s.marks) (l : Line) :
    t.lookup l = s.lookup l := by
  unfold State.lookup
  simp only [State.wayTag_congr hs hm]

theorem State.recAt_congr {s t : State} (hs : t.sets = s.sets) (n : SetNo) (w : WayNo) : t.recAt n w = s.recAt n w := by
  unfold State.recAt State.aset
  rw [hs]

theorem State.lineRec_congr {s t : State} (hs : t.sets = s.sets) (hm : t.marks = s.marks) (l : Line) :
    t.lineRec l = s.lineRec l := by
  unfold State.lineRec
  rw [State.lookup_congr hs hm]
  simp only [State.recAt_congr hs]

theorem State.listed_congr {s t : State} (hs : t.sets = s.sets) (hm : t.marks = s.marks) (l : Line) (a : Agent) :
    t.listed l a = s.listed l a := by
  unfold State.listed
  rw [State.lineRec_congr hs hm]

theorem State.aset_congr {s t : State} (hs : t.sets = s.sets) (n : SetNo) : t.aset n = s.aset n := by
  unfold State.aset
  rw [hs]

theorem State.mark_congr {s t : State} (hm : t.marks = s.marks) (n : SetNo) (w : WayNo) : t.mark n w = s.mark n w := by
  unfold State.mark
  rw [hm]

/-- A record found by a lookup, from its two parts. -/
theorem State.lineRec_of {s : State} {l : Line} {w : WayNo} {r : Rec} (hl : s.lookup l = some w)
    (hr : s.recAt (setOf l) w = r) : s.lineRec l = some (w, r) := by
  unfold State.lineRec
  rw [hl, ← hr]
  rfl

theorem Way.tag_fresh (y : Way) (t : Option RecTag) :
    Way.tag { y with tag1 := Coded.fresh t, tag2 := Coded.fresh t } = t := by
  unfold Way.tag
  exact ite_self _

/-! ### The array with one set written -/

section
variable {s : State} (h : s.arrayLawful) (n : SetNo) (x : ASet)
include h

theorem State.putSet_aset_same : (s.putSet n x).aset n = x := (State.putSet_aset h.2.2.1 n n x).trans (if_pos rfl)

theorem State.putSet_aset_ne {k : SetNo} (hk : k ≠ n) : (s.putSet n x).aset k = s.aset k :=
  (State.putSet_aset h.2.2.1 n k x).trans (if_neg fun hn => hk hn.symm)

theorem State.putSet_wayTag (w : WayNo) :
    (s.putSet n x).wayTag n w = if s.enabled n w then x.ways[w].tag else none := by
  unfold State.wayTag
  rw [State.putSet_aset_same h]
  rfl

theorem State.putSet_recAt (w : WayNo) : (s.putSet n x).recAt n w = x.ways[w].state.value := by
  unfold State.recAt
  rw [State.putSet_aset_same h]

end

theorem State.enabled_inUse {s : State} {n : SetNo} {w : WayNo} (h : (s.wayTag n w).isSome) : s.enabled n w = true := by
  by_contra hoff
  rw [State.wayTag, if_neg hoff] at h
  cases h

/-- No two ways of a set have one tag (R2). -/
theorem State.wayTag_unique {s : State} (h : s.arrayLawful) {n : SetNo} {v w : WayNo} {t : RecTag}
    (hv : s.wayTag n v = some t) (hw : s.wayTag n w = some t) : v = w := by
  rw [State.wayTag_lawful h] at hv hw
  exact (h.1 n).2.1 v w t hv hw

/-- The line whose tag one way alone of its set has is found there. -/
theorem State.lookup_of_unique {s : State} {l : Line} {w : WayNo} (hw : s.wayTag (setOf l) w = some (tagOf l))
    (hothers : ∀ v, v ≠ w → s.wayTag (setOf l) v ≠ some (tagOf l)) : s.lookup l = some w := by
  unfold State.lookup
  cases hfind : ways.find? (fun v => s.wayTag (setOf l) v == some (tagOf l)) with
  | none => exact absurd hw (by simpa using List.find?_eq_none.1 hfind w (mem_ways w))
  | some v =>
    have hv : s.wayTag (setOf l) v = some (tagOf l) := by simpa using List.find?_some hfind
    by_contra hne
    exact hothers v (fun h => hne (by rw [h])) hv

theorem State.lookup_none_of {s : State} {l : Line} (h : ∀ v, s.wayTag (setOf l) v ≠ some (tagOf l)) : s.lookup l = none :=
  List.find?_eq_none.2 fun v _ => by simpa using h v

/-- A freed line is absent. -/
theorem State.lookup_freed {s : State} (h : s.arrayLawful) {l : Line} {w : WayNo} (hl : s.lookup l = some w) :
    (s.putSet (setOf l) ((s.aset (setOf l)).freed w)).lookup l = none := by
  refine State.lookup_none_of fun v hv => ?_
  rw [State.putSet_wayTag h] at hv
  by_cases hvw : v = w
  · subst hvw
    rw [ASet.freed, ways_set, if_pos rfl, Way.tag_fresh, ite_self] at hv
    cases hv
  · rw [ASet.freed_ways_ne _ hvw] at hv
    exact hvw (State.wayTag_unique h hv (State.lookup_inUse hl))

/-- A rewritten state part leaves every tag. -/
theorem State.wayTag_edited {s : State} (h : s.arrayLawful) (n : SetNo) (w v : WayNo) (r : Rec) (touch : Bool) :
    (s.putSet n ((s.aset n).edited w r touch)).wayTag n v = s.wayTag n v := by
  rw [State.putSet_wayTag h, State.wayTag]
  by_cases hvw : v = w
  · subst hvw
    rw [ASet.edited_ways_same]
    rfl
  · rw [ASet.edited_ways_ne _ r touch hvw]

theorem State.lookup_edited {s : State} (h : s.arrayLawful) (l : Line) (w : WayNo) (r : Rec) (touch : Bool) :
    (s.putSet (setOf l) ((s.aset (setOf l)).edited w r touch)).lookup l = s.lookup l := by
  unfold State.lookup
  simp only [State.wayTag_edited h]

theorem State.recAt_edited {s : State} (h : s.arrayLawful) (n : SetNo) (w : WayNo) (r : Rec) (touch : Bool) :
    (s.putSet n ((s.aset n).edited w r touch)).recAt n w = r := by
  rw [State.putSet_recAt h, ASet.edited_ways_same]
  rfl

theorem State.lineRec_edited {s : State} (h : s.arrayLawful) {l : Line} {w : WayNo} (hl : s.lookup l = some w) (r : Rec)
    (touch : Bool) : (s.putSet (setOf l) ((s.aset (setOf l)).edited w r touch)).lineRec l = some (w, r) :=
  State.lineRec_of ((State.lookup_edited h l w r touch).trans hl) (State.recAt_edited h _ w r touch)

/-- A record installed for an absent line is found where it was written. -/
theorem State.lineRec_installed {s : State} (h : s.arrayLawful) {l : Line} {w : WayNo} (hl : s.lookup l = none)
    (hen : s.enabled (setOf l) w = true) (r : Rec) :
    (s.putSet (setOf l) ((s.aset (setOf l)).installed w (tagOf l) r)).lineRec l = some (w, r) := by
  refine State.lineRec_of (State.lookup_of_unique ?_ fun v hvw => ?_) ?_
  · rw [State.putSet_wayTag h, if_pos hen, ASet.installed_ways_same]
    exact Way.tag_fresh { tag1 := Coded.fresh none, tag2 := Coded.fresh none, state := Coded.fresh r } _
  · rw [State.putSet_wayTag h, ASet.installed_ways_ne _ _ r hvw]
    exact State.lookup_absent hl v
  · rw [State.putSet_recAt h, ASet.installed_ways_same]
    rfl

/-! ### The edits (R7, R8, R11) -/

/-- The entry busy with a line, changed where there is one. -/
def State.changeBusy (s : State) (l : Line) (f : Entry → Entry) : State :=
  match s.busy l with
  | some e => s.setEntry e (f (s.entry e))
  | none => s

theorem State.changeBusy_none {s : State} {l : Line} (h : s.busy l = none) (f : Entry → Entry) : s.changeBusy l f = s := by
  unfold State.changeBusy; rw [h]

theorem State.changeBusy_some {s : State} {l : Line} {e : EntryNo} (h : s.busy l = some e) (f : Entry → Entry) :
    s.changeBusy l f = s.setEntry e (f (s.entry e)) := by
  unfold State.changeBusy; rw [h]

theorem State.syncCopy_eq (s : State) (l : Line) (r : Option Rec) :
    s.syncCopy l r = s.changeBusy l (fun x => { x with copy := r }) := by
  unfold State.syncCopy State.changeBusy
  cases h : s.busy l with
  | none => rfl
  | some e => exact State.modEntry_active (State.busy_some h).1 _

/-- Who is busy with a line, read off the entries. -/
theorem State.busy_congr {s t : State} (h : t.entries = s.entries) (l : Line) : t.busy l = s.busy l := by
  have hentry : ∀ e, t.entry e = s.entry e := fun e => congrArg (fun v : Vector Entry 24 => v[e]) h
  unfold State.busy
  simp only [hentry]

/-- An entry that stays active on its line stays the one busy with it. -/
theorem State.busy_setEntry {s : State} {l : Line} {e : EntryNo} {x : Entry} (h : s.busy l = some e) (hx : x.phase ≠ .free)
    (hl : x.line = l) : (s.setEntry e x).busy l = some e := by
  rw [← h]
  unfold State.busy
  refine List.find?_congr fun f _ => ?_
  rw [State.setEntry_entry]
  split
  · next hef =>
    subst hef
    obtain ⟨hphase, hline⟩ := State.busy_some h
    simp [bne_iff_ne.2 hx, bne_iff_ne.2 hphase, hl, hline]
  · rfl

/-- FREE of a way, as one write of its set (R11, R98, R130). -/
theorem State.freeWay_eq {s : State} (h : s.arrayLawful) (l : Line) (w : WayNo) : s.freeWay l w =
    ((s.putSet (setOf l) ((s.aset (setOf l)).freed w)).changeBusy l (fun x => { x with
      copy := none, reserved := if x.keepsFreed then some w else x.reserved })).push (.wake (setOf l)) := by
  have hset : (s.modWay (setOf l) w (fun y => { y with tag1 := Coded.fresh none, tag2 := Coded.fresh none })).leaveOrder
      (setOf l) w = s.putSet (setOf l) ((s.aset (setOf l)).freed w) := by
    unfold State.leaveOrder State.writeOrder State.modWay
    rw [State.putSet_aset_same h, State.putSet_putSet h.2.2.1]
    rfl
  unfold State.freeWay
  dsimp only
  rw [hset, State.syncCopy_eq]
  have hb : (s.putSet (setOf l) ((s.aset (setOf l)).freed w)).busy l = s.busy l := State.busy_congr rfl l
  cases hbusy : s.busy l with
  | none =>
    rw [State.changeBusy_none (hb.trans hbusy), State.changeBusy_none (hb.trans hbusy), hb, hbusy]
  | some e =>
    obtain ⟨hphase, hline⟩ := State.busy_some hbusy
    have hbusy' := State.busy_setEntry (x := { s.entry e with copy := none }) (hb.trans hbusy) hphase hline
    rw [State.changeBusy_some (hb.trans hbusy), State.changeBusy_some (hb.trans hbusy)]
    have hentry : (s.putSet (setOf l) ((s.aset (setOf l)).freed w)).entry e = s.entry e := rfl
    rw [hentry, hbusy']
    dsimp only
    rw [State.setEntry_entry_same]
    by_cases hkeeps : (s.entry e).keepsFreed = true
    · rw [if_pos hkeeps, if_pos (show Entry.keepsFreed { s.entry e with copy := none } = true from hkeeps),
        State.modEntry_active (by rw [State.setEntry_entry_same]; exact hphase), State.setEntry_entry_same,
        State.setEntry_setEntry]
    · rw [if_neg hkeeps, if_neg (show ¬ Entry.keepsFreed { s.entry e with copy := none } = true from hkeeps)]

/-- A state part rewritten, as one write of its set (R8, R13). -/
theorem State.editState_eq {s : State} (h : s.arrayLawful) (l : Line) (w : WayNo) (r : Rec) (touch : Bool) :
    s.editState l w r touch = (s.putSet (setOf l) ((s.aset (setOf l)).edited w r touch)).changeBusy l
      (fun x => { x with copy := some r }) := by
  have hwrite : s.writeState (setOf l) w r = s.putSet (setOf l) ((s.aset (setOf l)).stated w r) := rfl
  have hb : ∀ x : ASet, (s.putSet (setOf l) x).busy l = s.busy l := fun x => State.busy_congr rfl l
  have hfront : ∀ t : State, t.aset (setOf l) = (s.aset (setOf l)).stated w r →
      t.toFront (setOf l) w = t.putSet (setOf l) (((s.aset (setOf l)).stated w r).fronted w) := fun t ht => by
    unfold State.toFront State.writeOrder
    rw [ht]
    rfl
  unfold State.editState
  dsimp only
  rw [hwrite, State.syncCopy_eq]
  cases hbusy : s.busy l with
  | none =>
    rw [State.changeBusy_none ((hb _).trans hbusy), State.changeBusy_none ((hb _).trans hbusy)]
    cases touch with
    | false => rfl
    | true =>
      rw [if_pos rfl, hfront _ (State.putSet_aset_same h _ _), State.putSet_putSet h.2.2.1]
      rfl
  | some e =>
    rw [State.changeBusy_some ((hb _).trans hbusy), State.changeBusy_some ((hb _).trans hbusy)]
    cases touch with
    | false => rfl
    | true =>
      rw [if_pos rfl, hfront]
      · exact congrArg (fun t => State.setEntry t e _) (State.putSet_putSet h.2.2.1 _ _ _)
      · exact State.putSet_aset_same h (setOf l) _

/-- INSTALL, as one write of its set, before the holders' counts (R7). -/
theorem State.install_eq {s : State} (h : s.arrayLawful) (l : Line) (w : WayNo) (r : Rec) : s.install l w r =
    (AgentSet.list r.holders).foldl State.addHold
      ((s.putSet (setOf l) ((s.aset (setOf l)).installed w (tagOf l) r)).changeBusy l (fun x => { x with copy := some r })) := by
  have hset : (s.modWay (setOf l) w (fun _ => { tag1 := Coded.fresh (some (tagOf l)), tag2 := Coded.fresh (some (tagOf l))
                                                state := Coded.fresh r })).toFront (setOf l) w =
      s.putSet (setOf l) ((s.aset (setOf l)).installed w (tagOf l) r) := by
    unfold State.toFront State.writeOrder State.modWay
    rw [State.putSet_aset_same h, State.putSet_putSet h.2.2.1]
    rfl
  unfold State.install
  dsimp only
  rw [hset, State.syncCopy_eq]

/-! ### Holding counts (R12) -/

theorem AgentSet.list_only (a : Agent) : AgentSet.list (AgentSet.only a) = [a] := by revert a; decide

theorem AgentSet.list_zero : AgentSet.list 0 = [] := by decide

theorem AgentSet.mem_list (h : AgentSet) (a : Agent) : a ∈ AgentSet.list h ↔ AgentSet.has h a = true := by
  revert h a; decide

theorem AgentSet.list_nodup (h : AgentSet) : (AgentSet.list h).Nodup := by revert h; decide

/-- One agent taken out of a set leaves the difference of the two. -/
theorem AgentSet.remove_lost {h : AgentSet} {a : Agent} (ha : AgentSet.has h a = true) :
    h &&& ~~~(AgentSet.remove h a) = AgentSet.only a := by revert h a; decide

theorem AgentSet.remove_gained (h : AgentSet) (a : Agent) : AgentSet.remove h a &&& ~~~h = 0 := by revert h a; decide

theorem AgentSet.has_only (a b : Agent) : AgentSet.has (AgentSet.only a) b = decide (a = b) := by revert a b; decide

theorem State.addHold_eq {s : State} {a : Agent} (h : (s.port a).state ≠ .draining) :
    s.addHold a = s.setPort a { s.port a with holding := (s.port a).holding + 1 } := by
  unfold State.addHold
  dsimp only
  rw [State.modPort_eq, State.setPort_port_same, if_neg (by simp [h])]

theorem State.subHold_eq {s : State} {a : Agent} (h : (s.port a).state ≠ .draining) :
    s.subHold a = s.setPort a { s.port a with holding := (s.port a).holding - 1 } := State.subHold_modPort h

end Sys2Proof.Machine
end

section
/-! SUPPORT. An entry's steps: its final reply, the phase that follows, its completion, and the work that a completion leaves. -/

namespace Sys2Proof.Machine

/-! ### Awaiting lists (R129) -/

theorem State.noneAwaiting_iff {s : State} {n : SetNo} :
    s.noneAwaiting n ↔ ∀ m ∈ s.awaiting, setOf (s.entry m.entry).line ≠ n := by
  unfold State.noneAwaiting State.members
  rw [List.isEmpty_iff, List.filter_eq_nil_iff]
  simp only [List.mem_map, beq_iff_eq]
  exact ⟨fun h m hm => h m.entry ⟨m, hm, rfl⟩, fun h e ⟨m, hm, he⟩ => he ▸ h m hm⟩

theorem State.noneAwaiting_empty {s : State} (h : s.awaiting = []) (n : SetNo) : s.noneAwaiting n :=
  State.noneAwaiting_iff.2 fun m hm => by rw [h] at hm; cases hm

/-- An entry on a line of a set that nobody awaits is in no awaiting list. -/
theorem State.not_awaiting {s : State} {e : EntryNo} {n : SetNo} (h : s.noneAwaiting n) (he : setOf (s.entry e).line = n) :
    ∀ m ∈ s.awaiting, m.entry ≠ e := fun m hm hme => State.noneAwaiting_iff.1 h m hm (hme ▸ he)

theorem State.noneAwaiting_setEntry {s : State} {e : EntryNo} {n : SetNo} (h : s.noneAwaiting n)
    (he : ∀ m ∈ s.awaiting, m.entry ≠ e) (x : Entry) : (s.setEntry e x).noneAwaiting n :=
  State.noneAwaiting_iff.2 fun m hm => by
    rw [State.setEntry_entry_ne s x fun hem => he m hm hem.symm]
    exact State.noneAwaiting_iff.1 h m hm

theorem State.noneAwaiting_congr {s t : State} (ha : t.awaiting = s.awaiting) (he : t.entries = s.entries) {n : SetNo}
    (h : s.noneAwaiting n) : t.noneAwaiting n := by
  have hentry : ∀ e, t.entry e = s.entry e := fun e => congrArg (fun v : Vector Entry 24 => v[e]) he
  refine State.noneAwaiting_iff.2 fun m hm => ?_
  rw [hentry]
  exact State.noneAwaiting_iff.1 h m (ha ▸ hm)

theorem State.noHeadWaits_congr {s t : State} (hp : t.ports = s.ports) (h : s.noHeadWaits) : t.noHeadWaits := by
  have hport : ∀ a, t.port a = s.port a := fun a => congrArg (fun v : Vector Port 6 => v[a]) hp
  exact State.noHeadWaits_iff.2 fun a => by rw [hport]; exact State.noHeadWaits_iff.1 h a

theorem State.undrained_congr {s t : State} (hp : t.ports = s.ports) (h : s.undrained) : t.undrained := fun a => by
  rw [show t.port a = s.port a from congrArg (fun v : Vector Port 6 => v[a]) hp]
  exact h a

/-! ### Pending recalls (R50, R52) -/

theorem Entry.noPending_of {x : Entry} (h : x.pending = Vector.replicate 6 none) : x.noPending = true := by
  rw [Entry.noPending, h]; decide

theorem Entry.pending_of {x : Entry} {a : Agent} {p : PendingRecall} (h : x.pending[a] = some p) : x.noPending = false := by
  rw [← Bool.not_eq_true]
  intro hall
  have hmem : x.pending[a] ∈ x.pending.toList := by simp
  have := List.all_eq_true.1 hall _ hmem
  rw [h] at this
  cases this

theorem Entry.noPending_iff {x : Entry} : x.noPending = true ↔ ∀ a : Agent, x.pending[a] = none := by
  constructor
  · intro h a
    cases hp : x.pending[a] with
    | none => rfl
    | some p => rw [Entry.pending_of hp] at h; cases h
  · intro h
    refine Entry.noPending_of (Vector.ext fun i hi => ?_)
    rw [Vector.getElem_replicate]
    exact h ⟨i, hi⟩

/-! ### Final replies (R33, R42, R69) -/

/-- A final reply with an output place at an ONLINE port: the message, the label released, the reply placed. -/
theorem State.offerReply_placed {s : State} {e : EntryNo} {a : Agent} {l : Label} {m : Label → OutMsg}
    (hactive : (s.entry e).phase ≠ .free) (horigin : (s.entry e).origin = some (a, l))
    (horphaned : (s.entry e).orphaned = false) (hreply : (s.entry e).reply = .none) (hon : (s.port a).state = .online)
    (hwait : (s.port a).waiters = []) (hroom : (s.port a).output.length < 16) :
    s.offerReply e m = (s.setPort a { s.port a with
      labels := (s.port a).labels.filter (fun k => k != l), output := (s.port a).output ++ [m l] }).setEntry e
        { s.entry e with reply := .placed } := by
  have hatt : (s.port a).attached = true := Port.attached_iff.2 (.inl hon)
  have hactive' : ∀ p, ((s.setPort a p).entry e).phase ≠ .free := fun _ => hactive
  unfold State.offerReply
  dsimp only
  rw [horigin]
  dsimp only
  rw [if_neg (by simp [horphaned, hreply]), if_neg (by simp [hatt]), if_pos (Port.hasPlace_of hwait hroom), State.placeReply,
    State.place, State.modPort_eq, State.releaseLabel_modPort _ (by rw [State.setPort_port_same]; simp [hon]),
    State.modPort_eq, State.setPort_port_same, State.setPort_setPort, State.modEntry_active (hactive' _), State.setPort_entry]
  dsimp only
  rw [horigin]

/-- A refusal with an output place. -/
theorem State.refuse_placed {s : State} {e : EntryNo} {a : Agent} {l : Label} {r : Reason}
    (hactive : (s.entry e).phase ≠ .free) (horigin : (s.entry e).origin = some (a, l))
    (horphaned : (s.entry e).orphaned = false) (hreply : (s.entry e).reply = .none) (hon : (s.port a).state = .online)
    (hwait : (s.port a).waiters = []) (hroom : (s.port a).output.length < 16) :
    s.refuse e r = (s.setPort a { s.port a with
      labels := (s.port a).labels.filter (fun k => k != l)
      output := (s.port a).output ++ [.refuse l (s.entry e).line r] }).setEntry e
        { s.entry e with pinCounted := false, refused := true, reply := .placed } := by
  unfold State.refuse
  dsimp only
  rw [State.modEntry_active hactive, State.offerReply_placed (s := s.setEntry e _) (a := a) (l := l) (by rw [State.setEntry_entry_same]; exact hactive)
    (by rw [State.setEntry_entry_same]; exact horigin) (by rw [State.setEntry_entry_same]; exact horphaned)
    (by rw [State.setEntry_entry_same]; exact hreply) hon hwait hroom, State.setEntry_entry_same, State.setPort_setEntry,
    State.setEntry_setEntry]
  rfl

/-! ### The phase that follows (R50) -/

/-- The phases of an entry whose plan is under way. -/
def Phase.inFlight : Phase → Bool
  | .recalling => true
  | .readingMemory => true
  | .writingMemory => true
  | .replying => true
  | .free => false
  | .starting => false
  | .awaitingWay => false
  | .rebuilding => false
  | .pinned => false

theorem Phase.inFlight_active {p : Phase} (h : p.inFlight = true) : p ≠ .free := by rintro rfl; cases h

theorem State.advance_inFlight {s : State} {e : EntryNo} (h : (s.entry e).phase.inFlight = true) : s.advance e =
    if (s.entry e).rebuild then s.advanceRebuild e
    else if (s.entry e).poisonOwed && (s.entry e).noPending then s.makePoison e
    else (s.stepPlan e).settlePhase e := by
  unfold State.advance
  dsimp only
  cases hp : (s.entry e).phase <;> rw [hp] at h <;> first | rfl | cases h

theorem State.advance_plan {s : State} {e : EntryNo} (h : (s.entry e).phase.inFlight = true)
    (hrebuild : (s.entry e).rebuild = false) (howed : (s.entry e).poisonOwed = false) :
    s.advance e = (s.stepPlan e).settlePhase e := by
  rw [State.advance_inFlight h, hrebuild, howed]; rfl

theorem State.settlePhase_inFlight {s : State} {e : EntryNo} (h : (s.entry e).phase.inFlight = true) : s.settlePhase e =
    match s.memOp e with
    | some true => s.modEntry e (fun x => { x with phase := .writingMemory })
    | some false => s.modEntry e (fun x => { x with phase := .readingMemory })
    | none =>
      if !(s.entry e).noPending then s.modEntry e (fun x => { x with phase := .recalling })
      else if (s.entry e).reply == .waiting || (s.entry e).breaking then s.modEntry e (fun x => { x with phase := .replying })
      else if (s.entry e).poisonOwed || (s.entry e).rebuild then s
      else if !(s.entry e).kind.isAgent || (s.entry e).reply == .placed || (s.entry e).orphaned then s.complete e
      else s := by
  unfold State.settlePhase
  dsimp only
  cases hp : (s.entry e).phase <;> rw [hp] at h <;> first | rfl | cases h

theorem State.settlePhase_writing {s : State} {e : EntryNo} (h : (s.entry e).phase.inFlight = true)
    (hmem : s.memOp e = some true) : s.settlePhase e = s.setEntry e { s.entry e with phase := .writingMemory } := by
  rw [State.settlePhase_inFlight h, hmem]
  exact State.modEntry_active (Phase.inFlight_active h) _

theorem State.settlePhase_reading {s : State} {e : EntryNo} (h : (s.entry e).phase.inFlight = true)
    (hmem : s.memOp e = some false) : s.settlePhase e = s.setEntry e { s.entry e with phase := .readingMemory } := by
  rw [State.settlePhase_inFlight h, hmem]
  exact State.modEntry_active (Phase.inFlight_active h) _

theorem State.settlePhase_recalling {s : State} {e : EntryNo} (h : (s.entry e).phase.inFlight = true)
    (hmem : s.memOp e = none) (hpending : (s.entry e).noPending = false) :
    s.settlePhase e = s.setEntry e { s.entry e with phase := .recalling } := by
  rw [State.settlePhase_inFlight h, hmem]
  dsimp only
  rw [hpending]
  exact State.modEntry_active (Phase.inFlight_active h) _

/-- An entry of an agent kind with nothing outstanding but its reply stays as it is. -/
theorem State.settlePhase_unreplied {s : State} {e : EntryNo} (h : (s.entry e).phase.inFlight = true)
    (hmem : s.memOp e = none) (hpending : (s.entry e).noPending = true) (hreply : (s.entry e).reply = .none)
    (hbreaking : (s.entry e).breaking = false) (hkind : (s.entry e).kind.isAgent = true)
    (horphaned : (s.entry e).orphaned = false) : s.settlePhase e = s := by
  rw [State.settlePhase_inFlight h, hmem]
  dsimp only
  rw [hpending, hreply, hbreaking, hkind, horphaned]
  exact ite_self _

/-! ### Completion (R56 to R59) -/

/-- An entry that completes to FREE at its next step: nothing outstanding, no recheck, no deferred request, no dependent. -/
structure Entry.finished (x : Entry) : Prop where
  phase : x.phase.inFlight = true
  pending : x.noPending = true
  reply : x.reply ≠ .waiting
  breaking : x.breaking = false
  owed : x.poisonOwed = false
  rebuild : x.rebuild = false
  answered : x.kind.isAgent = false ∨ x.reply = .placed ∨ x.orphaned = true
  dependent : x.dependent = none ∨ x.kind ≠ .retire
  recheck : x.recheck = false
  deferred : x.deferred = []

theorem State.passWay_none {s : State} {e : EntryNo} (h : (s.entry e).dependent = none) : s.passWay e = s := by
  unfold State.passWay
  dsimp only
  rw [h]

theorem State.owedPoison_none {s : State} {e : EntryNo} (h : s.owingBuffer (s.entry e).line = none) : s.owedPoison e = s := by
  unfold State.owedPoison
  dsimp only
  rw [h]

/-- Completion to FREE: the set's awaiting list is woken and waiting heads are looked at again (R56, R59). -/
theorem State.complete_frees {s : State} {e : EntryNo} (hx : (s.entry e).finished) (hrun : s.running = true)
    (howing : s.owingBuffer (s.entry e).line = none) : s.complete e =
      ((s.setEntry e (Entry.free (s.entry e).use)).push (.wake (setOf (s.entry e).line))).push .admission := by
  have hactive := Phase.inFlight_active hx.phase
  have hpass : (if (s.entry e).kind == .retire then s.passWay e else s) = s := by
    rcases hx.dependent with hnone | hkind
    · rw [State.passWay_none hnone]; exact ite_self _
    · exact if_neg (by simpa using hkind)
  let y : Entry := { s.entry e with reserved := none }
  have hy : (s.setEntry e y).entry e = y := State.setEntry_entry_same s e y
  have howed : (s.setEntry e y).owedPoison e = s.setEntry e y := State.owedPoison_none (by rw [hy]; exact howing)
  have hy' : ((s.setEntry e y).push (.wake (setOf (s.entry e).line))).entry e = y := hy
  unfold State.complete
  dsimp only
  rw [hpass, if_neg (by simp [hrun]), State.modEntry_active hactive, howed, if_neg (by rw [State.setEntry_running, hrun]; decide),
    hy, State.recheckStep, hy', if_pos (by rw [show y.recheck = false from hx.recheck]; rfl), State.handOver, hy', show y.deferred = [] from hx.deferred]
  exact congrArg (fun t => State.push (State.push t _) _) (State.setEntry_setEntry s e y _)

theorem State.settlePhase_completes {s : State} {e : EntryNo} (hx : (s.entry e).finished) (hmem : s.memOp e = none) :
    s.settlePhase e = s.complete e := by
  rw [State.settlePhase_inFlight hx.phase, hmem]
  dsimp only
  rw [hx.pending, hx.breaking, hx.owed, hx.rebuild, if_neg (by decide), if_neg (by simpa using hx.reply), if_neg (by decide),
    if_pos]
  rcases hx.answered with h | h | h <;> simp [h]

/-- The step of an entry that has nothing left to do. -/
theorem State.advance_frees {s : State} {e : EntryNo} (hx : (s.entry e).finished) (hstep : s.stepPlan e = s)
    (hmem : s.memOp e = none) (hrun : s.running = true) (howing : s.owingBuffer (s.entry e).line = none) : s.advance e =
      ((s.setEntry e (Entry.free (s.entry e).use)).push (.wake (setOf (s.entry e).line))).push .admission := by
  rw [State.advance_plan hx.phase hx.rebuild hx.owed, hstep, State.settlePhase_completes hx hmem,
    State.complete_frees hx hrun howing]

theorem State.idles_advance {s : State} {e : EntryNo} (h : (s.entry e).phase = .free) : s.idles (.advance e) = true := by
  simp [State.idles, h]

/-- The work that the step of a finished entry is, and what follows it, where nobody waits. -/
theorem State.works_frees {s : State} {e : EntryNo} {l : List Task} (hx : (s.entry e).finished) (hstep : ∀ k, State.stepPlan (s.due k) e = s.due k)
    (hmem : s.memOp e = none) (hrun : s.running = true) (howing : s.owingBuffer (s.entry e).line = none)
    (hnone : s.noneAwaiting (setOf (s.entry e).line)) (hheads : s.noHeadWaits) (hdry : s.undrained)
    (hidle : ∀ k ∈ l, (s.setEntry e (Entry.free (s.entry e).use)).idles k = true ∧ ∀ f a, k ≠ .notHeld f a) :
    Works (l.length + 3) (s.due (.advance e :: l)) ((s.setEntry e (Entry.free (s.entry e).use)).due []) := by
  let t : State := (s.setEntry e (Entry.free (s.entry e).use)).due
    (l ++ [.wake (setOf (s.entry e).line)] ++ [.admission])
  have hrun' : (s.due l).runTask (.advance e) = t := by
    rw [State.runTask_running (s := s.due l) hrun]
    exact State.advance_frees (s := s.due l) hx (hstep l) ((State.memOp_congr rfl rfl e).trans hmem) hrun
      ((State.owingBuffer_congr rfl _).trans howing)
  have hawait := State.not_awaiting hnone rfl
  have hwork : ∀ k ∈ t.work, t.idles k = true ∧ ∀ f a, k ≠ .notHeld f a := by
    intro k hk
    rcases List.mem_append.1 hk with hk | hk
    · rcases List.mem_append.1 hk with hk | hk
      · obtain ⟨hi, hn⟩ := hidle k hk
        exact ⟨by cases k <;> exact hi, hn⟩
      · obtain rfl := List.mem_singleton.1 hk
        exact ⟨State.noneAwaiting_congr rfl rfl (State.noneAwaiting_setEntry hnone hawait _), by simp⟩
    · obtain rfl := List.mem_singleton.1 hk
      exact ⟨State.idles_admission (State.noHeadWaits_congr rfl hheads), by simp⟩
  have hlen : t.work.length = l.length + 2 := by
    show (l ++ [Task.wake (setOf (s.entry e).line)] ++ [Task.admission]).length = _
    simp
  have hrest := Works.idle hwork (State.undrained_congr rfl hdry)
  rw [hlen] at hrest
  exact .step hrun' (State.undrained_congr rfl hdry) hrest

end Sys2Proof.Machine
end

section
/-! SUPPORT. Ends of memory operations: the buffer's acknowledgement, the read that failed; and steps with nothing to do. -/

namespace Sys2Proof.Machine

/-- The operations held behind a line's write are issued; where there is none, nothing changes (R142). -/
theorem State.issueHeld_none {s : State} {l : Line}
    (h : ∀ j o, (s.tag j).op = some o → o.issued = true ∨ o.claim.line ≠ l) : memTags.foldl (State.issueHeld l) s = s := by
  refine foldl_fixed _ fun j _ => ?_
  unfold State.issueHeld
  cases ho : (s.tag j).op with
  | none => rfl
  | some o => exact if_neg (by rcases h j o ho with hi | hl <;> simp [*])

/-- The acknowledgement of a written buffer, with an output place: the buffer is free and is offered on (R37, R132). -/
theorem State.offerBufferAck_placed {s : State} {b : BufferNo} (hstate : (s.buffer b).state = .acking)
    (hlate : (s.buffer b).late = false) (hatt : (s.port (s.buffer b).agent).attached = true)
    (hplace : (s.port (s.buffer b).agent).hasPlace = true) : s.offerBufferAck b =
      (((s.setBuffer b WbBuffer.free).setPort (s.buffer b).agent { s.port (s.buffer b).agent with
        output := (s.port (s.buffer b).agent).output ++ [.wbAck (s.buffer b).line] }).push .serveBuffers) := by
  unfold State.offerBufferAck
  dsimp only
  rw [hatt, if_neg (by decide), if_pos hplace, hlate]
  unfold State.ackDone
  rw [show ((s.place (s.buffer b).agent (ackMsg (s.buffer b).line false)).buffer b).state = .acking from hstate]
  rfl

/-- A buffer whose write is done is acknowledged. -/
theorem State.bufferGood_placed {s : State} {b : BufferNo}
    (hheld : ∀ j o, (s.tag j).op = some o → o.issued = true ∨ o.claim.line ≠ (s.buffer b).line)
    (hlate : (s.buffer b).late = false) (hatt : (s.port (s.buffer b).agent).attached = true)
    (hplace : (s.port (s.buffer b).agent).hasPlace = true) : s.bufferGood b =
      (((s.setBuffer b WbBuffer.free).setPort (s.buffer b).agent { s.port (s.buffer b).agent with
        output := (s.port (s.buffer b).agent).output ++ [.wbAck (s.buffer b).line] }).push .serveBuffers) := by
  let x : WbBuffer := { s.buffer b with state := .acking }
  have hx : (s.setBuffer b x).buffer b = x := State.setBuffer_buffer_same s b x
  unfold State.bufferGood
  dsimp only
  rw [State.issueHeld_none (s := s.setBuffer b x) hheld, State.offerBufferAck_placed (s := s.setBuffer b x) (by rw [hx]) (by rw [hx]; exact hlate)
    (by rw [hx]; exact hatt) (by rw [hx]; exact hplace), hx, State.setBuffer_setBuffer]
  rfl

theorem State.memDoneTaken_buffer (s : State) {c : MemClaim} {b : BufferNo} (hc : c.claimant = .buffer b) :
    s.memDoneTaken c 0 = s.bufferGood b := by
  unfold State.memDoneTaken State.endWrite
  rw [if_pos (by decide), hc]
  dsimp only
  rw [if_pos rfl]

theorem State.report_setEntry (s : State) (r : Report) (e : EntryNo) (x : Entry) :
    (s.setEntry e x).report r = (s.report r).setEntry e x := by
  cases h : s.capture with
  | none => rw [State.report_none h, State.report_none (s := s.setEntry e x) h]; rfl
  | some q => rw [State.report_some h, State.report_some (s := s.setEntry e x) h]; rfl

theorem State.idles_serveBuffers {s : State} (h : s.bufferWaiters = []) : s.idles .serveBuffers = true := by
  simp [State.idles, h]

/-- A read that failed with no data in is refused MEMORY-FAULT, and its entry looks at its plan again (R91, R111). -/
theorem State.readBad_placed {s : State} {e : EntryNo} {a : Agent} {l : Label} (hactive : (s.entry e).phase ≠ .free)
    (horigin : (s.entry e).origin = some (a, l)) (horphaned : (s.entry e).orphaned = false)
    (hreply : (s.entry e).reply = .none) (hdata : (s.entry e).data = .none) (hon : (s.port a).state = .online)
    (hwait : (s.port a).waiters = []) (hroom : (s.port a).output.length < 16) :
    s.readBad e = ((s.setPort a { s.port a with
      labels := (s.port a).labels.filter (fun k => k != l)
      output := (s.port a).output ++ [.refuse l (s.entry e).line .memoryFault] }).setEntry e
        { s.entry e with pinCounted := false, refused := true, reply := .placed }).push (.advance e) := by
  unfold State.readBad
  dsimp only
  rw [if_pos (by rw [hdata]; rfl), State.refuse_placed hactive horigin horphaned hreply hon hwait hroom]

@[simp] theorem State.report_entry (s : State) (r : Report) (e : EntryNo) : (s.report r).entry e = s.entry e := by
  obtain ⟨c, v, u, hr⟩ := s.report_frame r
  rw [hr]; rfl

/-- What a report leaves, for a fact read off other parts of the state. -/
theorem State.report_parts (s : State) (r : Report) : (s.report r).claimQueue = s.claimQueue ∧ (s.report r).tags = s.tags ∧
    (s.report r).buffers = s.buffers ∧ (s.report r).awaiting = s.awaiting ∧ (s.report r).ports = s.ports ∧
    (s.report r).entries = s.entries ∧ (s.report r).sets = s.sets ∧ (s.report r).marks = s.marks := by
  obtain ⟨c, v, u, hr⟩ := s.report_frame r
  rw [hr]
  exact ⟨rfl, rfl, rfl, rfl, rfl, rfl, rfl, rfl⟩

/-! ### A step with nothing to do (R50) -/

theorem State.stepPlan_internal {s : State} {e : EntryNo} (h : (s.entry e).kind.isAgent = false) : s.stepPlan e = s := by
  unfold State.stepPlan
  dsimp only
  cases hk : (s.entry e).kind with
  | req k => rw [hk] at h; cases h
  | retire => rfl
  | rebuild => rfl
  | sweepRecall => rfl

theorem State.stepUpgrade_replied {s : State} {e : EntryNo} (a : Agent) (hreply : (s.entry e).reply = .placed) :
    s.stepUpgrade e a = s := by
  unfold State.stepUpgrade
  dsimp only
  rw [hreply]
  by_cases hpending : (s.entry e).noPending = true
  · rw [if_neg (by simp [hpending])]
    exact ite_self _
  · exact if_pos (by simpa using hpending)

/-- An entry whose final reply is placed and that saves nothing has no step left in its plan. -/
theorem State.stepPlan_replied {s : State} {e : EntryNo} (hreply : (s.entry e).reply = .placed)
    (horphaned : (s.entry e).orphaned = false) (hsaves : (s.entry e).saves = false) : s.stepPlan e = s := by
  unfold State.stepPlan
  dsimp only
  cases hk : (s.entry e).kind with
  | req k =>
    cases ho : (s.entry e).origin with
    | none => rfl
    | some al =>
      obtain ⟨a, l⟩ := al
      dsimp only
      rw [horphaned]
      by_cases howed : (s.entry e).poisonOwed = true
      · exact if_pos howed
      · rw [if_neg howed, if_neg (by decide)]
        unfold State.stepReq
        dsimp only
        rw [hsaves, hreply, if_neg (by decide)]
        cases k with
        | upgrade => exact State.stepUpgrade_replied a hreply
        | readShared | readOwn | lockedRead | uncachedRead | uncachedWrite => rfl
  | retire => rfl
  | rebuild => rfl
  | sweepRecall => rfl

end Sys2Proof.Machine
end

section
/-! The statements of memory's answers and refusals, settled. -/

namespace Sys2Proof.Machine

/-- Settles O32: the write is done, so the buffer is acknowledged and free. -/
theorem memDoneFreesTheBuffer : Obligations.MemDoneFreesTheBuffer := by
  intro i b left s h hrun hop hissued hq hwaiters hstate hlate hon hwait hroom
  have hheld : ∀ j o, ((s.freeTag i).tag j).op = some o → o.issued = true ∨ o.claim.line ≠ ((s.freeTag i).buffer b).line := by
    intro j o hj
    by_cases hij : i = j
    · subst hij
      rw [State.freeTag, State.setTag_tag_same] at hj
      cases hj
    · rw [State.freeTag, State.setTag_tag_ne s _ hij] at hj
      exact .inl (hissued j o hj)
  have hgood := State.bufferGood_placed (s := s.freeTag i) (b := b) hheld hlate
    (Port.attached_iff.2 (.inl hon)) (Port.hasPlace_of hwait hroom)
  have hdone := State.memDoneTaken_buffer (s.freeTag i)
    (c := { claimant := .buffer b, write := true, line := (s.buffer b).line }) rfl
  have hf := State.memDoneArrives_taken hrun hop rfl rfl 0 (by rw [hdone, hgood]; exact hq)
  rw [hdone, hgood] at hf
  rw [exec_memDone]
  refine State.event_push (k := .serveBuffers) (State.atRest_resetPin h) hf ?_ ?_ (by simp)
  · exact State.atRest_setPort (s := (s.setTag i _).setBuffer b _) h
      (Port.drained_output (State.atRest_undrained h (s.buffer b).agent) _)
  · exact State.idles_serveBuffers hwaiters

/-- The memory timer of an entry's read: the tag is free, the fault reported, and the read ended without data (R145, R146). -/
theorem State.memTimeout_read {s : State} {i : MemTagNo} {o : TagOp} {e : EntryNo} (hrun : s.running = true)
    (hop : (s.tag i).op = some o) (hissued : o.issued = true) (hread : o.claim.write = false)
    (hclaimant : o.claim.claimant = .entry e) (hq : (((s.freeTag i).reportMemory .memoryTimeout o.claim none).readBad e).claimQueue = []) :
    s.memTimeout i = ((s.freeTag i).reportMemory .memoryTimeout o.claim none).readBad e := by
  unfold State.memTimeout
  rw [hop]
  dsimp only
  rw [if_neg (by simp [hrun, hissued]), hread, if_neg (by decide), hclaimant]
  exact State.regrant_empty hq

/-- Settles O34: the read is ended as a fault, so the request is refused and its entry completes. -/
theorem memoryTimeoutRefusesTheRead : Obligations.MemoryTimeoutRefusesTheRead := by
  intro i e a label l f left right s h hrun hop hentry hon hwait hroom hheads hawait hq howing hothers
  have hphase : (s.entry e).phase = .readingMemory := congrArg Entry.phase hentry
  have horigin : (s.entry e).origin = some (a, label) := congrArg Entry.origin hentry
  have hline : (s.entry e).line = l := congrArg Entry.line hentry
  have hdata : (s.entry e).data = .none := congrArg Entry.data hentry
  have hreply : (s.entry e).reply = .none := congrArg Entry.reply hentry
  have horphaned : (s.entry e).orphaned = false := congrArg Entry.orphaned hentry
  let r : Report := { kind := .memoryTimeout, sub := none, agent := some a, line := some l, set := some (setOf l), way := none
                      entry := some (entryByte e), time := s.unitTime }
  let p : Port := { s.port a with
    labels := (s.port a).labels.filter (fun k => k != label)
    output := (s.port a).output ++ [.refuse label l .memoryFault] }
  let x : Entry := { s.entry e with pinCounted := false, refused := true, reply := .placed }
  let v : State := (s.freeTag i).report r
  let w : State := (v.setEntry e x).setPort a p
  have hreport : (s.freeTag i).reportMemory .memoryTimeout { claimant := .entry e, write := false, line := l } none =
      (s.freeTag i).report r := by
    unfold State.reportMemory State.originAgent
    dsimp only
    rw [show (s.freeTag i).entry e = s.entry e from rfl, horigin]
    rfl
  obtain ⟨hvq, hvt, hvb, hva, hvp, hve, -, -⟩ := (s.freeTag i).report_parts r
  have hventry : v.entry e = s.entry e := State.report_entry _ _ _
  have hvport : v.port a = s.port a := State.report_port _ _ _
  have hbad : v.readBad e = w.push (.advance e) := by
    rw [State.readBad_placed (a := a) (l := label) (by rw [hventry, hphase]; decide) (by rw [hventry, horigin])
      (by rw [hventry, horphaned]) (by rw [hventry, hreply]) (by rw [hventry, hdata]) (by rw [hvport, hon])
      (by rw [hvport, hwait]) (by rw [hvport]; exact hroom), hventry, hvport, hline]
    rfl
  have hf : s.memTimeout i = w.due [.advance e] := by
    rw [State.memTimeout_read hrun hop rfl rfl rfl (by rw [hreport, hbad]; exact hvq.trans hq), hreport, hbad,
      State.push_eq_due, show w.work = [] from (State.report_work _ _).trans (State.atRest_work h)]
    rfl
  have hwe : w.entry e = x := State.setEntry_entry_same v e x
  have hwrun : w.running = true := (State.report_running _ _).trans hrun
  have hfin : (w.entry e).finished := by
    rw [hwe]
    exact { phase := by rw [show x.phase = .readingMemory from hphase]; rfl
            pending := Entry.noPending_of (congrArg Entry.pending hentry)
            reply := by simp [x]
            breaking := congrArg Entry.breaking hentry
            owed := congrArg Entry.poisonOwed hentry
            rebuild := congrArg Entry.rebuild hentry
            answered := .inr (.inl rfl)
            dependent := .inl (congrArg Entry.dependent hentry)
            recheck := congrArg Entry.recheck hentry
            deferred := congrArg Entry.deferred hentry }
  have hmem : w.memOp e = none := (State.memOp_congr hvq hvt e).trans (State.memOp_freeTag hq hothers)
  have hdry : w.undrained := State.undrained_setPort (s := v.setEntry e x)
    (State.undrained_congr hvp (State.atRest_undrained h)) (Port.drained_state (by simp [p, hon]))
  have hwheads : w.noHeadWaits := State.noHeadWaits_sameHead (p := p)
    (State.noHeadWaits_congr (s := s) (t := v.setEntry e x) hvp hheads) (by
      rw [show (v.setEntry e x).port a = s.port a from hvport])
  have hworks := State.works_frees (s := w) (l := []) hfin
    (fun k => State.stepPlan_replied (s := w.due k) (by rw [State.due_entry, hwe]) (by rw [State.due_entry, hwe]; exact horphaned)
      (by rw [State.due_entry, hwe]; exact congrArg Entry.saves hentry))
    hmem hwrun ((State.owingBuffer_congr hvb _).trans (by rw [hwe]; exact (congrArg s.owingBuffer hline).trans howing))
    (State.noneAwaiting_empty (s := w) (hva.trans hawait) _) hwheads
    hdry (by simp)
  rw [exec_memoryTimerExpiry, Works.event (State.atRest_resetPin h) (by rw [hf]; exact hworks) (by rw [hf]; exact hdry)]
  have hwork : (w.setEntry e (Entry.free (w.entry e).use)).work = [] := (State.report_work _ _).trans (State.atRest_work h)
  rw [State.due_self hwork, hwe, State.report_setPort, State.report_setEntry]
  exact congrArg (fun t => Host.Outcome.next (State.setPort t a p)) (State.setEntry_setEntry v e x _)

end Sys2Proof.Machine
end

section
/-! SUPPORT. The STARTING of an admitted request: the entry allocated at the arbiter, its opening work, and what is passed over
between the two. -/

namespace Sys2Proof.Machine

/-- The state in which the head of a port's request queue has just been allocated an entry (R48, R62). -/
def State.opened (s : State) (a : Agent) (q : Request) (rest : List Request) (e : EntryNo) : State :=
  (({ s with position := a } : State).setEntry e (Entry.ofRequest q ((s.entry e).use + 1) [])).setPort a
    { s.port a with requests := rest, head := .fresh }

theorem State.opened_entry (s : State) (a : Agent) (q : Request) (rest : List Request) (e : EntryNo) :
    (s.opened a q rest e).entry e = Entry.ofRequest q ((s.entry e).use + 1) [] := State.setEntry_entry_same _ e _

theorem State.opened_port (s : State) (a : Agent) (q : Request) (rest : List Request) (e : EntryNo) :
    (s.opened a q rest e).port a = { s.port a with requests := rest, head := .fresh } := State.setPort_port_same _ a _

theorem State.opened_undrained {s : State} {a : Agent} (hon : (s.port a).state = .online) (hdry : s.undrained) (q : Request)
    (rest : List Request) (e : EntryNo) : (s.opened a q rest e).undrained :=
  State.undrained_setPort (s := State.setEntry { s with position := a } e (Entry.ofRequest q ((s.entry e).use + 1) [])) hdry (Port.drained_state (by simp [hon]))

/-- The arbiter's examination of a head that takes an entry: what is due is its STARTING, and two rounds of the arbiter. -/
theorem exec_admissionExamine_opened {a : Agent} {q : Request} {rest : List Request} {e : EntryNo} {s : State}
    (h : s.atRest) (hrun : s.running = true) (hon : (s.port a).state = .online) (hreq : (s.port a).requests = q :: rest)
    (hhead : (s.port a).head ≠ .refusing) (hguard : (s.port a).guards q.line = false) (hbusy : s.busy q.line = none)
    (hentry : s.freeEntry agentPool = some e) (hplaces : s.placesHeld < 20) : exec (.admissionExamine a) s =
      .next (State.finish ((s.opened a q rest e).due [.start e, .admission, .admission])) := by
  rw [admissionAllocatesAnEntry a q rest e s h hrun hon hreq hhead hguard hbusy hentry hplaces]
  unfold State.opened Entry.ofRequest
  simp only [beq_iff_eq]
  rfl

/-- A STARTING whose opening work leaves this state, with the arbiter's rounds passed over. -/
theorem State.finish_start {s t u : State} {e : EntryNo} {l : List Task} {n : Nat} (hrun : s.running = true)
    (hstart : (s.due [.admission, .admission]).start e = t.due (.admission :: .admission :: l)) (hsdry : s.undrained)
    (htdry : t.undrained) (hheads : t.noHeadWaits) (hrest : Works n (t.due l) u) (hn : n + 3 ≤ Config.workBound) :
    (s.due [.start e, .admission, .admission]).finish = u := by
  have hidle : ∀ k : List Task, (t.due k).idles .admission = true := fun k => State.idles_admission hheads
  have hrun' : (s.due [.admission, .admission]).runTask (.start e) = t.due (.admission :: .admission :: l) :=
    (State.runTask_running (s := s.due [.admission, .admission]) hrun (.start e)).trans hstart
  refine Works.finish (n := n + 3) (.step hrun' htdry ?_) hsdry hn
  exact .pass (s := t.due (.admission :: .admission :: l)) rfl (hidle _) (by simp) htdry
    (.pass (s := t.due (.admission :: l)) rfl (hidle _) (by simp) htdry hrest)

theorem State.start_eq {s : State} {e : EntryNo} {k : ReqKind} {a : Agent} {l : Label}
    (hphase : (s.entry e).phase = .starting) (hkind : (s.entry e).kind = .req k)
    (horigin : (s.entry e).origin = some (a, l)) : s.start e =
      if !(s.openReq k e a).running then s.openReq k e a
      else (if ((s.openReq k e a).entry e).phase == .starting then
          (s.openReq k e a).modEntry e (fun x => { x with phase := .recalling })
        else s.openReq k e a).push (.advance e) := by
  unfold State.start
  dsimp only
  rw [if_neg (by simp [hphase]), hkind, horigin]

/-- The STARTING of a request that its opening work refuses. -/
theorem State.start_plain {s t : State} {e : EntryNo} {k : ReqKind} {a : Agent} {l : Label}
    (hphase : (s.entry e).phase = .starting) (hkind : (s.entry e).kind = .req k)
    (horigin : (s.entry e).origin = some (a, l)) (ht : s.openReq k e a = t) (hrun : t.running = true)
    (hkept : (t.entry e).phase = .starting) :
    s.start e = (t.setEntry e { t.entry e with phase := .recalling }).push (.advance e) := by
  rw [State.start_eq hphase hkind horigin, ht, if_neg (by simp [hrun]), if_pos (by simp [hkept]),
    State.modEntry_active (by rw [hkept]; decide)]

/-- The STARTING of a request whose opening work gives the entry its next phase. -/
theorem State.start_moved {s t : State} {e : EntryNo} {k : ReqKind} {a : Agent} {l : Label}
    (hphase : (s.entry e).phase = .starting) (hkind : (s.entry e).kind = .req k)
    (horigin : (s.entry e).origin = some (a, l)) (ht : s.openReq k e a = t) (hrun : t.running = true)
    (hmoved : (t.entry e).phase ≠ .starting) : s.start e = t.push (.advance e) := by
  rw [State.start_eq hphase hkind horigin, ht, if_neg (by simp [hrun]), if_neg (by simpa using hmoved)]

/-- An entry in its STARTING that has just taken up a request, alone with it (R51). -/
structure Entry.opening (x : Entry) (k : ReqKind) (a : Agent) (l : Label) : Prop where
  phase : x.phase = .starting
  kind : x.kind = .req k
  origin : x.origin = some (a, l)
  pending : x.pending = Vector.replicate 6 none
  data : x.data = .none
  reply : x.reply = .none
  orphaned : x.orphaned = false
  breaking : x.breaking = false
  owed : x.poisonOwed = false
  rebuild : x.rebuild = false
  saves : x.saves = false
  dependent : x.dependent = none
  reserved : x.reserved = none
  recheck : x.recheck = false
  deferred : x.deferred = []

theorem Entry.opening_ofRequest (q : Request) (use : UseNo) : (Entry.ofRequest q use []).opening q.kind q.agent q.label where
  phase := rfl
  kind := rfl
  origin := rfl
  pending := rfl
  data := rfl
  reply := rfl
  orphaned := rfl
  breaking := rfl
  owed := rfl
  rebuild := rfl
  saves := rfl
  dependent := rfl
  reserved := rfl
  recheck := rfl
  deferred := rfl

theorem State.opened_opening (s : State) {a : Agent} {q : Request} (hq : q.agent = a) (rest : List Request) (e : EntryNo) :
    ((s.opened a q rest e).entry e).opening q.kind a q.label := by
  rw [State.opened_entry, ← hq]
  exact Entry.opening_ofRequest q _

/-- An entry whose final reply has just been placed and that has nothing else outstanding. -/
theorem Entry.opening.finished {x : Entry} {k : ReqKind} {a : Agent} {l : Label} (h : x.opening k a l) {p : Phase}
    (hp : p.inFlight = true) :
    Entry.finished { x with pinCounted := false, refused := true, reply := .placed, phase := p } where
  phase := hp
  pending := Entry.noPending_of h.pending
  reply := by simp
  breaking := h.breaking
  owed := h.owed
  rebuild := h.rebuild
  answered := .inr (.inl rfl)
  dependent := .inl h.dependent
  recheck := h.recheck
  deferred := h.deferred

section
variable {s : State} {e : EntryNo} {k : ReqKind} {a : Agent} {l : Label}

/-- The STARTING of a request that is refused outright, with its refusal placed and nobody waiting (R51, R56). -/
theorem State.finish_refusedStart {r : Reason} (hx : (s.entry e).opening k a l) (hrun : s.running = true)
    (hopen : ∀ l, (s.due l).openReq k e a = (s.due l).refuse e r) (hon : (s.port a).state = .online)
    (hwait : (s.port a).waiters = []) (hroom : (s.port a).output.length < 16) (hheads : s.noHeadWaits)
    (hmem : s.memOp e = none) (howing : s.owingBuffer (s.entry e).line = none)
    (hnone : s.noneAwaiting (setOf (s.entry e).line)) (hdry : s.undrained) (hwork : s.work = []) :
    (s.due [.start e, .admission, .admission]).finish = (s.setEntry e (Entry.free (s.entry e).use)).setPort a
      { s.port a with
        labels := (s.port a).labels.filter (fun k => k != l)
        output := (s.port a).output ++ [.refuse l (s.entry e).line r] } := by
  let p : Port := { s.port a with
    labels := (s.port a).labels.filter (fun k => k != l)
    output := (s.port a).output ++ [.refuse l (s.entry e).line r] }
  let x : Entry := { s.entry e with pinCounted := false, refused := true, reply := .placed }
  let y : Entry := { x with phase := .recalling }
  let w : State := (s.setEntry e y).setPort a p
  have hwe : w.entry e = y := State.setEntry_entry_same _ e y
  have hline : (w.entry e).line = (s.entry e).line := by rw [hwe]
  have hrefuse : ∀ l, (s.due l).refuse e r = ((s.setEntry e x).setPort a p).due l := fun l => by
    rw [State.refuse_placed (s := s.due l) (by rw [State.due_entry, hx.phase]; decide) hx.origin hx.orphaned hx.reply hon
      hwait hroom, State.due_setPort, State.due_setEntry, State.setPort_setEntry]
    rfl
  have hstart : (s.due [.admission, .admission]).start e = w.due [.admission, .admission, .advance e] := by
    have hxe : ((s.setEntry e x).setPort a p).entry e = x := State.setEntry_entry_same _ e x
    rw [State.start_plain (s := s.due [.admission, .admission]) hx.phase hx.kind hx.origin ((hopen _).trans (hrefuse _)) hrun (by rw [State.due_entry, hxe]; exact hx.phase),
      State.due_entry, hxe, State.due_setEntry, State.setPort_setEntry, State.setEntry_setEntry]
    rfl
  have hwdry : w.undrained := State.undrained_setPort (s := s.setEntry e y) hdry (Port.drained_state (by simp [p, hon]))
  have hwheads : w.noHeadWaits := State.noHeadWaits_sameHead (s := s.setEntry e y) (p := p) hheads rfl
  have hfin : (w.entry e).finished := by
    rw [hwe]
    exact hx.finished rfl
  have hwnone : w.noneAwaiting (setOf (w.entry e).line) := by
    rw [hline]
    exact State.noneAwaiting_setEntry hnone (State.not_awaiting hnone rfl) y
  have hworks := State.works_frees (s := w) (l := []) hfin
    (fun k => State.stepPlan_replied (s := w.due k) (by rw [State.due_entry, hwe]) (by rw [State.due_entry, hwe]; exact hx.orphaned)
      (by rw [State.due_entry, hwe]; exact hx.saves))
    hmem hrun (by rw [hline]; exact howing) hwnone hwheads hwdry (by simp)
  rw [State.finish_start hrun hstart hdry hwdry hwheads hworks (by decide), hwe,
    State.due_self (s := w.setEntry e _) (l := []) hwork, State.setPort_setEntry, State.setEntry_setEntry]

end

end Sys2Proof.Machine
end

section
/-! The refusal by the region check, settled. -/

namespace Sys2Proof.Machine

/-- Settles O17: the entry opens, is refused by its region check, and completes. -/
theorem regionRefusalEndsTheRequest : Obligations.RegionRefusalEndsTheRequest := by
  intro a q rest e r s h hrun hon hreq hagent hhead hguard hwait hroom hothers hbusy hentry hplaces hawait hmem howing
    hregion
  let b : State := s.opened a q rest e
  have hline : (b.entry e).line = q.line := by rw [State.opened_entry]; rfl
  have huse : (b.entry e).use = (s.entry e).use + 1 := by rw [State.opened_entry]; rfl
  have hport : b.port a = { s.port a with requests := rest, head := .fresh } := State.opened_port s a q rest e
  have hopen : ∀ l, (b.due l).openReq q.kind e a = (b.due l).refuse e r := fun l => by
    unfold State.openReq
    rw [show ((b.due l).entry e).line = q.line from hline, show regionCheck (b.due l).settings q.kind a q.line = some r from hregion]
  rw [exec_admissionExamine_opened h hrun hon hreq hhead hguard hbusy hentry hplaces,
    State.finish_refusedStart (s := b) (State.opened_opening s hagent rest e) hrun hopen (by rw [hport]; exact hon)
      (by rw [hport]; exact hwait) (by rw [hport]; exact hroom) (State.noHeadWaits_setPort (s := State.setEntry _ e _) hothers rfl) hmem
      (by rw [hline]; exact howing) (State.noneAwaiting_empty (s := b) hawait _)
      (State.opened_undrained hon (State.atRest_undrained h) q rest e) (State.atRest_work (s := s) h), hport, hline, huse]
  refine congrArg Host.Outcome.next ?_
  show ((State.setPort _ a _).setEntry e _).setPort a _ = _
  rw [State.setPort_setEntry, State.setPort_setPort, State.setEntry_setEntry]
  rfl

end Sys2Proof.Machine
end

section
/-! SUPPORT. Way allocation: what the searches read, their outcomes, and an entry that waits for its memory operation. -/

namespace Sys2Proof.Machine

/-! ### The line a way holds (R2) -/

theorem State.wayLine_lookup {s : State} {l : Line} {w : WayNo} (h : s.lookup l = some w) : s.wayLine (setOf l) w = some l := by
  rw [State.wayLine, State.lookup_inUse h]
  exact congrArg some (lineOf_setOf_tagOf l)

theorem State.setOf_wayLine {s : State} {n : SetNo} {w : WayNo} {l : Line} (h : s.wayLine n w = some l) : setOf l = n := by
  obtain ⟨t, -, rfl⟩ := Option.map_eq_some_iff.1 h
  exact setOf_lineOf n t

theorem State.wayTag_wayLine {s : State} {n : SetNo} {w : WayNo} {l : Line} (h : s.wayLine n w = some l) :
    s.wayTag n w = some (tagOf l) := by
  obtain ⟨t, ht, rfl⟩ := Option.map_eq_some_iff.1 h
  rw [ht, tagOf_lineOf]

theorem State.lookup_wayLine {s : State} (h : s.arrayLawful) {n : SetNo} {w : WayNo} {l : Line} (hl : s.wayLine n w = some l) :
    s.lookup l = some w := by
  have htag := State.wayTag_wayLine hl
  rw [← State.setOf_wayLine hl] at htag
  exact State.lookup_of_unique htag fun v hv hvt => hv (State.wayTag_unique h hvt htag)

/-- No way holds an absent line. -/
theorem State.wayLine_absent {s : State} {l : Line} (h : s.lookup l = none) (n : SetNo) (w : WayNo) : s.wayLine n w ≠ some l :=
  fun hl => by
    have htag := State.wayTag_wayLine hl
    rw [← State.setOf_wayLine hl] at htag
    exact State.lookup_absent h w htag

/-! ### What the searches read (R14, R15) -/

/-- The lowest-numbered member that satisfies a predicate, in an ascending list of every number. -/
theorem find?_eq_least {n : Nat} {l : List (Fin n)} {p : Fin n → Bool} (hl : l.Pairwise (· < ·)) (hall : ∀ j, j ∈ l)
    (i : Fin n) : l.find? p = some i ↔ p i = true ∧ ∀ j, j < i → p j = false := by
  refine ⟨fun h => ⟨List.find?_some h, fun j hj => find?_least hl h (hall j) hj⟩, fun ⟨hi, hlow⟩ => ?_⟩
  cases hfind : l.find? p with
  | none => exact absurd hi (by simpa using List.find?_eq_none.1 hfind i (hall i))
  | some j =>
    rcases lt_trichotomy j i with hj | hj | hj
    · exact absurd (List.find?_some hfind) (by simp [hlow j hj])
    · rw [hj]
    · exact absurd hi (by simp [find?_least hl hfind (hall i) hj])

theorem State.freeSearch_iff {s : State} {n : SetNo} {w : WayNo} : s.freeSearch n = some w ↔
    s.available n w = true ∧ ∀ v, v < w → s.available n v = false := find?_eq_least (by decide) mem_ways w

theorem State.available_iff {s : State} {n : SetNo} {w : WayNo} : s.available n w = true ↔
    (s.mark n w).disable = false ∧ s.wayTag n w = none ∧ s.isReserved n w = false := by
  simp [State.available, State.enabled, and_assoc]

/-- An entry that holds no way before and after a change reserves none (R127). -/
theorem State.isReserved_setEntry {s : State} {e : EntryNo} {x : Entry}
    (hold : (s.entry e).phase = .free ∨ (s.entry e).reserved = none) (hnew : x.phase = .free ∨ x.reserved = none) (n : SetNo)
    (w : WayNo) : (s.setEntry e x).isReserved n w = s.isReserved n w := by
  have hnone : ∀ y : Entry, y.phase = .free ∨ y.reserved = none →
      (y.phase != .free && setOf y.line == n && y.reserved == some w) = false := fun y hy => by
    rcases hy with h | h <;> simp [h]
  unfold State.isReserved
  rw [Bool.eq_iff_iff]
  simp only [List.any_eq_true]
  refine exists_congr fun f => and_congr_right fun _ => ?_
  rw [State.setEntry_entry]
  split
  · next hef =>
    subst hef
    rw [hnone _ hold, hnone _ hnew]
  · rfl

theorem State.freeSearch_congr {s t : State} (hs : t.sets = s.sets) (hm : t.marks = s.marks) {n : SetNo}
    (hr : ∀ w, t.isReserved n w = s.isReserved n w) : t.freeSearch n = s.freeSearch n := by
  unfold State.freeSearch State.available State.enabled
  simp only [hr, State.wayTag_congr hs hm, State.mark_congr hm]

/-- A change of an entry that is busy with a line neither before nor after it. -/
theorem State.busy_other {s : State} {e : EntryNo} {x : Entry} {l : Line}
    (hold : (s.entry e).phase = .free ∨ (s.entry e).line ≠ l) (hnew : x.phase = .free ∨ x.line ≠ l) :
    (s.setEntry e x).busy l = s.busy l := by
  have hnone : ∀ y : Entry, y.phase = .free ∨ y.line ≠ l → (y.phase != .free && y.line == l) = false := fun y hy => by
    rcases hy with h | h <;> simp [h]
  unfold State.busy
  refine List.find?_congr fun f _ => ?_
  rw [State.setEntry_entry]
  split
  · next hef =>
    subst hef
    rw [hnone _ hold, hnone _ hnew]
  · rfl

/-- Victim naming does not see an entry that takes up an absent line (R15). -/
theorem State.nameVictim_setEntry {s : State} {e : EntryNo} {x : Entry} (hold : (s.entry e).phase = .free)
    (habsent : s.lookup x.line = none) (hx : x.reserved = none) (n : SetNo) :
    (s.setEntry e x).nameVictim n = s.nameVictim n := by
  have hbusy : ∀ w l, s.wayLine n w = some l → (s.setEntry e x).busy l = s.busy l := fun w l hl =>
    State.busy_other (.inl hold) (.inr fun hxl => State.wayLine_absent habsent n w (by rw [hl, hxl]))
  have hline : ∀ w, (s.setEntry e x).wayLine n w = s.wayLine n w := fun _ => rfl
  have hvictim : ∀ w, (s.setEntry e x).victimLine n w = s.victimLine n w := fun w => by
    unfold State.victimLine
    rw [hline]
    cases hl : s.wayLine n w with
    | none => rfl
    | some l => dsimp only; rw [hbusy w l hl]; rfl
  have hwait : ∀ w, (s.setEntry e x).waitWay n w = s.waitWay n w := fun w => by
    unfold State.waitWay
    rw [hline]
    cases hl : s.wayLine n w with
    | none => dsimp only; rw [State.isReserved_setEntry (.inl hold) (.inr hx)]; rfl
    | some l => dsimp only; rw [hbusy w l hl]; rfl
  unfold State.nameVictim
  simp only [hvictim, hwait]
  rfl

/-! ### The outcomes of way allocation (R127, R139) -/

theorem State.leaveAwaiting_none {s : State} {e : EntryNo} (h : ∀ m ∈ s.awaiting, m.entry ≠ e) : s.leaveAwaiting e = s := by
  unfold State.leaveAwaiting
  rw [List.filter_eq_self.2 fun m hm => by simpa using h m hm]

section
variable {s : State} {e : EntryNo} (hsound : s.soundSet (setOf (s.entry e).line)) (hrun : s.running = true)
  (hactive : (s.entry e).phase ≠ .free) (hout : ∀ m ∈ s.awaiting, m.entry ≠ e)
include hsound hrun hactive hout

/-- A free way is the answer: the entry takes it and its memory read is issued. -/
theorem State.searchWay_given {w : WayNo} {i : MemTagNo} (hfree : s.freeSearch (setOf (s.entry e).line) = some w)
    (hdata : (s.entry e).data = .none) (hready : s.tagReady (s.entry e).line i) : s.searchWay e =
      ((s.setEntry e { s.entry e with reserved := some w, phase := .readingMemory }).claimed i
        { claimant := .entry e, write := false, line := (s.entry e).line }).push (.advance e) := by
  let x : Entry := { s.entry e with reserved := some w, phase := .readingMemory }
  have hxe : (s.setEntry e x).entry e = x := State.setEntry_entry_same s e x
  have hready' : (s.setEntry e x).tagReady x.line i = true := (State.tagReady_congr rfl rfl rfl _ _).trans hready
  unfold State.searchWay
  dsimp only
  rw [State.claimTags_sound hsound, if_neg (by simp [hrun]), hfree]
  dsimp only
  unfold State.giveWay State.goOn
  rw [State.leaveAwaiting_none hout, State.modEntry_active hactive, if_pos (by rw [hxe]; exact beq_iff_eq.2 hdata), State.claimRead, hxe,
    State.claimMem_ready (c := { claimant := .entry e, write := false, line := x.line }) hready']

omit hsound hrun in
theorem State.setStand_new (st : Stand) : s.setStand e st =
    ({ s with awaiting := s.awaiting ++ [{ entry := e, stand := st }] } : State).setEntry e
      { s.entry e with phase := .awaitingWay } := by
  have hany : s.awaiting.any (fun m => m.entry == e) = false := List.any_eq_false.2 fun m hm => by simpa using hout m hm
  unfold State.setStand
  dsimp only
  rw [hany, if_neg (by decide)]
  exact State.modEntry_active (s := { s with awaiting := s.awaiting ++ [{ entry := e, stand := st }] }) hactive _

omit hactive hout in
/-- No free way: victim naming answers. -/
theorem State.searchWay_full (hfree : s.freeSearch (setOf (s.entry e).line) = none) :
    (∀ w l, s.nameVictim (setOf (s.entry e).line) = .victim w l → s.searchWay e = s.setStand e (.claimWaiting l w)) ∧
    (s.nameVictim (setOf (s.entry e).line) = .wait → s.searchWay e = s.setStand e .noClaim) ∧
    (s.nameVictim (setOf (s.entry e).line) = .none → s.searchWay e = s.refuseNoWay e) := by
  refine ⟨fun w l hname => ?_, fun hname => ?_, fun hname => ?_⟩ <;>
  · unfold State.searchWay
    dsimp only
    rw [State.claimTags_sound hsound, if_neg (by simp [hrun]), hfree]
    dsimp only
    rw [State.claimAll_sound hsound, if_neg (by simp [hrun]), hname]

omit hsound hrun in
/-- Way allocation that answers none, its refusal placed. -/
theorem State.refuseNoWay_placed {a : Agent} {l : Label} (horigin : (s.entry e).origin = some (a, l))
    (horphaned : (s.entry e).orphaned = false) (hreply : (s.entry e).reply = .none) (hon : (s.port a).state = .online)
    (hwait : (s.port a).waiters = []) (hroom : (s.port a).output.length < 16) : s.refuseNoWay e =
      ((s.setEntry e { s.entry e with pinCounted := false, refused := true, reply := .placed, phase := .replying }).setPort a
        { s.port a with
          labels := (s.port a).labels.filter (fun k => k != l)
          output := (s.port a).output ++ [.refuse l (s.entry e).line .noWay] }).push (.advance e) := by
  let x : Entry := { s.entry e with phase := .replying }
  have hxe : (s.setEntry e x).entry e = x := State.setEntry_entry_same s e x
  unfold State.refuseNoWay
  rw [State.leaveAwaiting_none hout, State.modEntry_active hactive, State.refuse_placed (s := s.setEntry e x) (a := a) (l := l)
    (by rw [hxe]; simp [x]) (by rw [hxe]; exact horigin) (by rw [hxe]; exact horphaned) (by rw [hxe]; exact hreply) hon
    hwait hroom, hxe, State.setPort_setEntry, State.setEntry_setEntry]
  rfl

end

/-! ### An entry that waits for its memory operation (R50) -/

/-- The step of an entry changes nothing, whatever other work is due. -/
def State.waits (s : State) (e : EntryNo) : Prop := ∀ l, (s.due l).advance e = s.due l

theorem State.setEntry_phase {s : State} {e : EntryNo} {p : Phase} (h : (s.entry e).phase = p) :
    s.setEntry e { s.entry e with phase := p } = s := State.setEntry_of_eq (by rw [← h])

/-- With its operation outstanding and no step left in its plan, an entry in the phase of its operation waits. -/
theorem State.waits_memOp {s : State} {e : EntryNo} {write : Bool} (hmem : s.memOp e = some write)
    (hphase : (s.entry e).phase = if write then .writingMemory else .readingMemory) (hrebuild : (s.entry e).rebuild = false)
    (howed : (s.entry e).poisonOwed = false) (hstep : ∀ l, (s.due l).stepPlan e = s.due l) : s.waits e := by
  intro l
  have hfly : ((s.due l).entry e).phase.inFlight = true := by rw [State.due_entry, hphase]; cases write <;> rfl
  have hmem' : (s.due l).memOp e = some write := (State.memOp_congr rfl rfl e).trans hmem
  rw [State.advance_plan hfly hrebuild howed, hstep]
  cases write with
  | true =>
    rw [State.settlePhase_writing hfly hmem']
    exact State.setEntry_phase (s := s.due l) hphase
  | false =>
    rw [State.settlePhase_reading hfly hmem']
    exact State.setEntry_phase (s := s.due l) hphase

/-- A request without its data has no step left in its plan, but for an UPGRADE. -/
theorem State.stepPlan_dataless {s : State} {e : EntryNo} {k : ReqKind} (hkind : (s.entry e).kind = .req k) (hk : k ≠ .upgrade)
    (hdata : (s.entry e).data = .none) (hsaves : (s.entry e).saves = true → (s.memOp e).isSome = true) : s.stepPlan e = s := by
  unfold State.stepPlan
  dsimp only
  rw [hkind]
  cases ho : (s.entry e).origin with
  | none => rfl
  | some al =>
    obtain ⟨a, l⟩ := al
    dsimp only
    have hreq : s.stepReq k e a = s := by
      have hsave : (s.entry e).saves = true → s.stepSave e = s := fun hs => by
        obtain ⟨write, hw⟩ := Option.isSome_iff_exists.1 (hsaves hs)
        unfold State.stepSave
        exact if_neg (by simp [hw])
      unfold State.stepReq State.stepWrite
      dsimp only
      rw [hdata]
      by_cases hs : (s.entry e).saves = true
      · rw [if_pos hs, hsave hs]
      rw [if_neg hs]
      cases k with
      | upgrade => exact absurd rfl hk
      | readShared | readOwn | lockedRead | uncachedRead => simp
      | uncachedWrite => simp
    have horphan : s.stepOrphan k e = s := by
      unfold State.stepOrphan State.stepWrite
      dsimp only
      rw [hdata]
      cases k with
      | upgrade => exact absurd rfl hk
      | readShared | readOwn | lockedRead | uncachedRead => rfl
      | uncachedWrite => simp
    rw [hreq, horphan, ite_self, ite_self]

/-- A request that waits for its memory read. -/
theorem State.waits_reading {s : State} {e : EntryNo} {k : ReqKind} (hkind : (s.entry e).kind = .req k) (hk : k ≠ .upgrade)
    (hmem : s.memOp e = some false) (hphase : (s.entry e).phase = .readingMemory) (hdata : (s.entry e).data = .none)
    (hrebuild : (s.entry e).rebuild = false) (howed : (s.entry e).poisonOwed = false) : s.waits e :=
  State.waits_memOp hmem hphase hrebuild howed fun l => State.stepPlan_dataless (s := s.due l) hkind hk hdata fun _ => by
    rw [State.memOp_congr (s := s) (t := s.due l) rfl rfl, hmem]
    rfl

/-- Steps of an entry that waits are passed over. -/
theorem Works.waits {s t : State} {e : EntryNo} {l : List Task} {n : Nat} (hw : s.waits e) (hrun : s.running = true)
    (hd : s.undrained) (h : Works n (s.due l) t) : Works (n + 1) (s.due (.advance e :: l)) t :=
  .step ((State.runTask_running (s := s.due l) hrun (.advance e)).trans (hw l)) hd h

theorem Works.ended {s : State} (hwork : s.work = []) : Works 0 (s.due []) s := by
  rw [State.due_self hwork]
  exact .none hwork

end Sys2Proof.Machine
end

section
/-! SUPPORT. The opening of a request for an absent line. -/

namespace Sys2Proof.Machine

/-- The entry of a cached kind whose line is absent, at its way allocation (R51, R76, R81, R86). -/
def Entry.planned (x : Entry) (k : ReqKind) (right soleReader : Bool) : Entry := { x with
  kind := .req (if k = .upgrade then .readOwn else k), first := if k = .upgrade then 0 else x.first, mayWrite := right
  sole := k == .readShared && soleReader && right, pinCounted := k == .lockedRead }

/-- What the opening work has written of the planned entry before the plan: the write right, and a LOCKED-READ's place in the
pin count. -/
def Entry.checked (x : Entry) (k : ReqKind) (right : Bool) : Entry := { x with mayWrite := right, pinCounted := k == .lockedRead }

theorem Entry.planned_readOwn {x : Entry} (hkind : x.kind = .req .readOwn) (hsole : x.sole = false) (right soleReader : Bool) :
    x.planned .readOwn right soleReader = x.checked .readOwn right := by
  cases x
  cases hkind
  cases hsole
  rfl

theorem Entry.planned_lockedRead {x : Entry} (hkind : x.kind = .req .lockedRead) (hsole : x.sole = false)
    (right soleReader : Bool) : x.planned .lockedRead right soleReader = x.checked .lockedRead right := by
  cases x
  cases hkind
  cases hsole
  rfl

theorem Entry.planned_upgrade {x : Entry} (hsole : x.sole = false) (right soleReader : Bool) :
    x.planned .upgrade right soleReader = { x.checked .upgrade right with kind := .req .readOwn, first := 0 } := by
  cases x
  cases hsole
  rfl

theorem Entry.planned_readShared {x : Entry} (hkind : x.kind = .req .readShared) (right soleReader : Bool) :
    x.planned .readShared right soleReader = { x.checked .readShared right with sole := soleReader && right } := by
  cases x
  cases hkind
  rfl

/-- An entry that leaves the pin count, or was never in it, makes it no greater (R69). -/
theorem State.pinCount_setEntry {s : State} {e : EntryNo} {x : Entry} (hx : x.pinCounted = false) :
    (s.setEntry e x).pinCount ≤ s.pinCount := by
  refine (List.monotone_filter_right entryNos fun f hf => ?_).length_le
  rw [State.setEntry_entry] at hf
  split at hf
  · rw [hx] at hf; cases hf
  · exact hf

theorem State.allocate_searches {s : State} {e : EntryNo} (h : (s.entry e).reserved = none) : s.allocate e = s.searchWay e := by
  unfold State.allocate
  rw [h]

/-- The opening work up to the lookup, with no finding (R51, R69). -/
theorem State.openReq_checked {s : State} {e : EntryNo} {k : ReqKind} {a : Agent} (hactive : (s.entry e).phase ≠ .free)
    (hpin : (s.entry e).pinCounted = false) (hk : k = .lockedRead → s.pinCount < 4)
    (hregion : regionCheck s.settings k a (s.entry e).line = none) : s.openReq k e a =
      (s.setEntry e ((s.entry e).checked k (writeRight s.settings a (s.entry e).line))).lookupStep e := by
  let v : Entry := { s.entry e with mayWrite := writeRight s.settings a (s.entry e).line }
  have hve : (s.setEntry e v).entry e = v := State.setEntry_entry_same s e v
  unfold State.openReq
  rw [hregion]
  dsimp only
  rw [State.modEntry_active hactive]
  by_cases hlocked : k = .lockedRead
  · have hcount : (s.setEntry e v).pinCount ≤ s.pinCount := State.pinCount_setEntry hpin
    have hlt := hk hlocked
    have hentry : { v with pinCounted := true } = (s.entry e).checked k (writeRight s.settings a (s.entry e).line) := by
      rw [hlocked]; rfl
    rw [if_pos (by simp [hlocked]), State.pinCheck, if_neg (show ¬ Config.pinLimit ≤ (s.setEntry e v).pinCount from not_le.2 (hcount.trans_lt hlt)),
      State.modEntry_active (s := s.setEntry e v) (by rw [hve]; exact hactive), hve, State.setEntry_setEntry, hentry]
  · have hentry : v = (s.entry e).checked k (writeRight s.settings a (s.entry e).line) := by
      unfold Entry.checked
      rw [show (k == ReqKind.lockedRead) = false by simpa using hlocked, ← hpin]
    rw [if_neg (by simpa using hlocked), ← hentry]

section
variable {s : State} {e : EntryNo} {k : ReqKind} {a : Agent} {l : Label} (hrun : s.running = true)
  (hcalm : s.calm (setOf (s.entry e).line)) (hrec : s.lineRec (s.entry e).line = none)
include hrun hcalm hrec

/-- The lookup of an absent line, and the plan for it (R51, R70). -/
theorem State.lookupStep_absent (hkind : (s.entry e).kind = .req k) (horigin : (s.entry e).origin = some (a, l))
    (horphaned : (s.entry e).orphaned = false) (hcopy : (s.entry e).copy = none) : s.lookupStep e = s.planAbsent k e := by
  have htake : s.takeCopy e = s := by
    unfold State.takeCopy
    dsimp only
    rw [hrec]
    exact State.modEntry_fixed (by rw [Option.map_none, ← hcopy])
  unfold State.lookupStep
  dsimp only
  rw [State.claimEntry_calm hcalm, if_neg (by simp [hrun]), State.lineLost_calm (State.calm_iff.1 hcalm).2.1,
    if_neg (by decide), htake]
  unfold State.plan
  dsimp only
  rw [hkind, horigin]
  dsimp only
  rw [horphaned, if_neg (by simp)]
  unfold State.planReq
  rw [hrec]

/-- The opening work of a cached kind with no finding, for an absent line: way allocation. -/
theorem State.openReq_absent (hx : (s.entry e).opening k a l) (hcopy : (s.entry e).copy = none)
    (hsole : (s.entry e).sole = false) (hpin : (s.entry e).pinCounted = false)
    (hk : k = .readShared ∨ k = .readOwn ∨ k = .upgrade ∨ (k = .lockedRead ∧ s.pinCount < 4))
    (hregion : regionCheck s.settings k a (s.entry e).line = none) : s.openReq k e a =
      (s.setEntry e ((s.entry e).planned k (writeRight s.settings a (s.entry e).line) s.settings.soleReader)).searchWay e := by
  let right := writeRight s.settings a (s.entry e).line
  let x : Entry := (s.entry e).checked k right
  let t : State := s.setEntry e x
  have hte : t.entry e = x := State.setEntry_entry_same s e x
  have hactive : (s.entry e).phase ≠ .free := by rw [hx.phase]; decide
  have htactive : (t.entry e).phase ≠ .free := by rw [hte]; exact hactive
  have hsearch : ∀ y : Entry, y.reserved = none → (t.setEntry e y).allocate e = (s.setEntry e y).searchWay e := fun y hy => by
    rw [State.allocate_searches (by rw [State.setEntry_entry_same]; exact hy), State.setEntry_setEntry]
  have hstep : t.lookupStep e = t.planAbsent k e :=
    State.lookupStep_absent (s := t) (a := a) (l := l) hrun (by rw [hte]; exact hcalm) (by rw [hte]; exact hrec)
      (by rw [hte]; exact hx.kind) (by rw [hte]; exact hx.origin) (by rw [hte]; exact hx.orphaned) (by rw [hte]; exact hcopy)
  rw [State.openReq_checked hactive hpin (fun hlocked => by simpa [hlocked] using hk) hregion, hstep]
  unfold State.planAbsent
  rcases hk with rfl | rfl | rfl | ⟨rfl, -⟩
  · dsimp only
    rw [State.modEntry_active htactive, hte, hsearch { x with sole := t.settings.soleReader && x.mayWrite } hx.reserved, Entry.planned_readShared hx.kind]
    rfl
  · dsimp only
    rw [Entry.planned_readOwn hx.kind hsole, State.allocate_searches (by rw [hte]; exact hx.reserved)]
  · dsimp only
    unfold State.asReadOwn
    rw [State.modEntry_active htactive, hte, if_pos (show x.kind = _ from hx.kind), hsearch { x with kind := .req .readOwn, first := 0 } hx.reserved, Entry.planned_upgrade hsole]
  · dsimp only
    rw [Entry.planned_lockedRead hx.kind hsole, State.allocate_searches (by rw [hte]; exact hx.reserved)]

end

end Sys2Proof.Machine
end

section
/-! The way allocation of a request for an absent line, settled. -/

namespace Sys2Proof.Machine

theorem State.noneFailed_iff {s : State} : s.noneFailed ↔ ∀ a, (s.port a).state ≠ .failed := by
  unfold State.noneFailed
  simp only [List.all_eq_true, bne_iff_ne]
  exact ⟨fun h a => h a (Keeps.mem_agents a), fun h a _ => h a⟩

theorem State.calm_congr {s t : State} (hs : t.sets = s.sets) (hm : t.marks = s.marks)
    (hp : ∀ a, (t.port a).state = (s.port a).state) {n : SetNo} (h : s.calm n) : t.calm n := by
  obtain ⟨hsound, hlost, hfailed⟩ := State.calm_iff.1 h
  refine State.calm_iff.2 ⟨?_, ?_, State.noneFailed_iff.2 fun a => by rw [hp]; exact State.noneFailed_iff.1 hfailed a⟩
  · unfold State.soundSet at hsound ⊢
    rw [State.aset_congr hs]
    exact hsound
  · refine State.noLost_iff.2 fun w => ?_
    unfold State.isLost
    rw [State.mark_congr hm]
    exact State.noLost_iff.1 hlost w

theorem State.admits_iff {s : State} {a : Agent} {q : Request} {rest : List Request} {e : EntryNo}
    (h : s.admits a q rest e) : s.atRest ∧ s.running = true ∧ (s.port a).state = .online ∧ (s.port a).requests = q :: rest ∧
      q.agent = a ∧ (s.port a).head ≠ .refusing ∧ (s.port a).guards q.line = false ∧
      (∀ b, b ≠ a → (s.port b).headWaits = false) ∧ s.busy q.line = none ∧ s.freeEntry agentPool = some e ∧
      s.placesHeld < 20 := by
  simp only [State.admits, Bool.and_eq_true, beq_iff_eq, bne_iff_ne, Bool.not_eq_true', List.all_eq_true, Bool.or_eq_true,
    decide_eq_true_eq] at h
  obtain ⟨⟨⟨⟨⟨⟨⟨⟨⟨⟨hrest, hrun⟩, hon⟩, hreq⟩, hagent⟩, hhead⟩, hguard⟩, hothers⟩, hbusy⟩, hentry⟩, hplaces⟩ := h
  exact ⟨hrest, hrun, hon, hreq, hagent, hhead, hguard, fun b hb => (hothers b (Keeps.mem_agents b)).resolve_left hb, hbusy,
    hentry, hplaces⟩

/-- The opened state with the entry rewritten. -/
def State.openedAs (s : State) (a : Agent) (rest : List Request) (e : EntryNo) (x : Entry) : State :=
  (({ s with position := a } : State).setEntry e x).setPort a { s.port a with requests := rest, head := .fresh }

theorem State.opened_setEntry (s : State) (a : Agent) (q : Request) (rest : List Request) (e : EntryNo) (x : Entry) :
    (s.opened a q rest e).setEntry e x = s.openedAs a rest e x := by
  unfold State.opened State.openedAs
  rw [State.setPort_setEntry, State.setEntry_setEntry]

theorem State.openedAs_entry (s : State) (a : Agent) (rest : List Request) (e : EntryNo) (x : Entry) :
    (s.openedAs a rest e x).entry e = x := State.setEntry_entry_same _ e x

theorem State.openedAs_setEntry (s : State) (a : Agent) (rest : List Request) (e : EntryNo) (x y : Entry) :
    (s.openedAs a rest e x).setEntry e y = s.openedAs a rest e y := by
  unfold State.openedAs
  rw [State.setPort_setEntry, State.setEntry_setEntry]

theorem State.openedAs_port (s : State) (a : Agent) (rest : List Request) (e : EntryNo) (x : Entry) (b : Agent) :
    (s.openedAs a rest e x).port b = if a = b then { s.port a with requests := rest, head := .fresh } else s.port b :=
  State.setPort_port _ a b _

theorem State.openedAs_calm {s : State} {n : SetNo} (h : s.calm n) (a : Agent) (rest : List Request) (e : EntryNo) (x : Entry) :
    (s.openedAs a rest e x).calm n :=
  State.calm_congr (s := s) (t := s.openedAs a rest e x) rfl rfl (fun b => by
    rw [State.openedAs_port]
    split
    · next hab => rw [← hab]
    · rfl) h

theorem Entry.planned_ofRequest {q : Request} (hq : q.kind ≠ .uncachedWrite) (use : UseNo) (right soleReader : Bool) :
    (Entry.ofRequest q use []).planned q.kind right soleReader = { Entry.free use with
      kind := .req (if q.kind = .upgrade then .readOwn else q.kind), origin := some (q.agent, q.label), line := q.line
      phase := .starting, first := if q.kind = .upgrade then 0 else q.first, mayWrite := right
      sole := q.kind == .readShared && soleReader && right, pinCounted := q.kind == .lockedRead } := by
  have hkind : (q.kind == .uncachedWrite) = false := by simpa using hq
  unfold Entry.planned Entry.ofRequest
  rw [hkind]
  rfl

theorem State.openedAs_freeSearch {s : State} {e : EntryNo} {x : Entry} (hold : (s.entry e).phase = .free)
    (hx : x.reserved = none) (a : Agent) (rest : List Request) (n : SetNo) :
    (s.openedAs a rest e x).freeSearch n = s.freeSearch n :=
  State.freeSearch_congr (s := s) (t := s.openedAs a rest e x) rfl rfl fun w => State.isReserved_setEntry (s := { s with position := a }) (.inl hold) (.inr hx) n w

theorem State.openedAs_nameVictim {s : State} {e : EntryNo} {x : Entry} (hold : (s.entry e).phase = .free)
    (hx : x.reserved = none) (habsent : s.lookup x.line = none) (a : Agent) (rest : List Request) (n : SetNo) :
    (s.openedAs a rest e x).nameVictim n = s.nameVictim n :=
  State.nameVictim_setEntry (s := { s with position := a }) hold habsent hx n

theorem State.lineRec_of_absent {s : State} {l : Line} (h : s.lookup l = none) : s.lineRec l = none := by
  unfold State.lineRec
  rw [h]
  rfl

/-- The entry as it stands at the way allocation of its request. -/
def State.absentEntry (s : State) (a : Agent) (q : Request) (e : EntryNo) : Entry :=
  (Entry.ofRequest q ((s.entry e).use + 1) []).planned q.kind (writeRight s.settings a q.line) s.settings.soleReader

theorem State.absentEntry_active (s : State) (a : Agent) (q : Request) (e : EntryNo) :
    (s.absentEntry a q e).phase ≠ .free := by
  rw [show (s.absentEntry a q e).phase = .starting from rfl]
  decide

/-- The STARTING of an admitted request for an absent line comes to way allocation. -/
theorem State.openReq_opened {s : State} {a : Agent} {q : Request} {e : EntryNo} (rest : List Request) (hrun : s.running = true)
    (hagent : q.agent = a)
    (hk : q.kind = .readShared ∨ q.kind = .readOwn ∨ q.kind = .upgrade ∨ (q.kind = .lockedRead ∧ s.pinCount < 4))
    (hregion : regionCheck s.settings q.kind a q.line = none) (hcalm : s.calm (setOf q.line)) (habsent : s.lookup q.line = none)
    (l : List Task) : ((s.opened a q rest e).due l).openReq q.kind e a =
      ((s.openedAs a rest e (s.absentEntry a q e)).due l).searchWay e := by
  have hx : ((s.opened a q rest e).due l).entry e = Entry.ofRequest q ((s.entry e).use + 1) [] := State.opened_entry s a q rest e
  have hline : (((s.opened a q rest e).due l).entry e).line = q.line := by rw [hx]; rfl
  have hcalm' : ((s.opened a q rest e).due l).calm (setOf q.line) := State.openedAs_calm hcalm a rest e _
  have hcount : ((s.opened a q rest e).due l).pinCount ≤ s.pinCount :=
    State.pinCount_setEntry (s := { s with position := a }) (x := Entry.ofRequest q ((s.entry e).use + 1) []) rfl
  have hopening := s.opened_opening hagent rest e
  rw [State.openReq_absent (s := (s.opened a q rest e).due l) (k := q.kind) (a := a) (l := q.label) hrun (by rw [hline]; exact hcalm')
    (by rw [hline]; exact State.lineRec_of_absent habsent) hopening (by rw [hx]; rfl) (by rw [hx]; rfl) (by rw [hx]; rfl)
    (hk.imp_right (Or.imp_right (Or.imp_right (And.imp_right hcount.trans_lt)))) (by rw [hline]; exact hregion), hline, hx,
    State.due_setEntry, State.opened_setEntry]
  rfl

theorem State.freeEntry_free {s : State} {pool : List EntryNo} {e : EntryNo} (h : s.freeEntry pool = some e) :
    (s.entry e).phase = .free := by
  simpa using List.find?_some h

theorem State.waits_awaiting {s : State} {e : EntryNo} (h : (s.entry e).phase = .awaitingWay) : s.waits e := fun l => by
  unfold State.advance
  dsimp only
  rw [State.due_entry, h]

section
variable {s : State} {a : Agent} {q : Request} {rest : List Request} {e : EntryNo} (hadmits : s.admits a q rest e)
  (hk : q.kind = .readShared ∨ q.kind = .readOwn ∨ q.kind = .upgrade ∨ (q.kind = .lockedRead ∧ s.pinCount < 4))
  (hregion : regionCheck s.settings q.kind a q.line = none) (hcalm : s.calm (setOf q.line)) (habsent : s.lookup q.line = none)
include hadmits hk hregion hcalm habsent

/-- The admission of a request for an absent line, from what its way allocation leaves. -/
theorem State.exec_absent {t u : State} {k : List Task} {n : Nat}
    (hsearch : ∀ l, ((s.openedAs a rest e (s.absentEntry a q e)).due l).searchWay e = t.due (l ++ k))
    (hmoved : (t.entry e).phase ≠ .starting) (htrun : t.running = true) (hdry : t.undrained) (hheads : t.noHeadWaits)
    (hrest : Works n (t.due (k ++ [.advance e])) u) (hn : n + 3 ≤ Config.workBound) : exec (.admissionExamine a) s = .next u := by
  obtain ⟨hatrest, hrun, hon, hreq, hagent, hhead, hguard, -, hbusy, hentry, hplaces⟩ := State.admits_iff hadmits
  have hopening := s.opened_opening hagent rest e
  have hstart : ((s.opened a q rest e).due [.admission, .admission]).start e =
      t.due (.admission :: .admission :: (k ++ [.advance e])) := by
    rw [State.start_moved (s := (s.opened a q rest e).due [.admission, .admission]) hopening.phase hopening.kind hopening.origin
      ((State.openReq_opened rest hrun hagent hk hregion hcalm habsent _).trans (hsearch _)) htrun hmoved, State.due_push]
    simp
  rw [exec_admissionExamine_opened hatrest hrun hon hreq hhead hguard hbusy hentry hplaces,
    State.finish_start (s := s.opened a q rest e) hrun hstart (State.opened_undrained hon (State.atRest_undrained hatrest) q rest e)
      hdry hheads hrest hn]

/-- A free way: the memory read is issued, and the entry waits for it. -/
theorem State.exec_absent_given (hmem : s.memOp e = none) (hout : ∀ m ∈ s.awaiting, m.entry ≠ e) {w : WayNo} {i : MemTagNo}
    (hfree : s.freeSearch (setOf q.line) = some w) (hready : s.tagReady q.line i) : exec (.admissionExamine a) s =
      .next ((s.openedAs a rest e { s.absentEntry a q e with reserved := some w, phase := .readingMemory }).claimed i
        { claimant := .entry e, write := false, line := q.line }) := by
  obtain ⟨hatrest, hrun, hon, hreq, hagent, hhead, hguard, hothers, hbusy, hentry, hplaces⟩ := State.admits_iff hadmits
  let x : Entry := s.absentEntry a q e
  let y : Entry := { x with reserved := some w, phase := .readingMemory }
  let c : MemClaim := { claimant := .entry e, write := false, line := q.line }
  let b : State := s.openedAs a rest e x
  let t : State := (s.openedAs a rest e y).claimed i c
  have hbe : b.entry e = x := State.openedAs_entry s a rest e x
  have hte : t.entry e = y := State.openedAs_entry s a rest e y
  have hsearch : ∀ l, (b.due l).searchWay e = t.due (l ++ [.advance e]) := fun l => by
    rw [State.searchWay_given (s := b.due l) (w := w) (i := i)
      (by rw [State.due_entry, hbe]; exact (State.calm_iff.1 hcalm).1) hrun (by rw [State.due_entry, hbe]; exact s.absentEntry_active a q e) hout
      (by rw [State.due_entry, hbe]; exact (State.openedAs_freeSearch (x := x) (State.freeEntry_free hentry) rfl a rest _).trans hfree)
      (by rw [State.due_entry, hbe]; rfl) (by rw [State.due_entry, hbe]; exact (State.tagReady_congr rfl rfl rfl _ _).trans hready),
      State.due_entry, hbe, State.due_setEntry, State.openedAs_setEntry]
    rfl
  have htmem : t.memOp e = some false :=
    State.memOp_granted (s := { s.openedAs a rest e y with memSent := _ }) (c := c) hmem rfl
  have hwaits : t.waits e := State.waits_reading (k := if q.kind = .upgrade then .readOwn else q.kind) (by rw [hte]; rfl)
    (by split <;> simp [*]) htmem (by rw [hte]) (by rw [hte]; rfl) (by rw [hte]; rfl) (by rw [hte]; rfl)
  have hdry : t.undrained := State.opened_undrained hon (State.atRest_undrained hatrest) q rest e
  have hheads : t.noHeadWaits := State.noHeadWaits_setPort (s := ({ s with position := a } : State).setEntry e y) hothers rfl
  exact State.exec_absent hadmits hk hregion hcalm habsent (k := [.advance e]) hsearch (by rw [hte]; simp [y]) hrun hdry hheads
    (.waits hwaits hrun hdry (.waits hwaits hrun hdry (.ended (State.atRest_work (s := s) hatrest)))) (by decide)

/-- No free way: the entry joins the awaiting list with this stand. -/
theorem State.exec_absent_waits (hout : ∀ m ∈ s.awaiting, m.entry ≠ e) (hfree : s.freeSearch (setOf q.line) = none) {st : Stand}
    (hname : (∃ w l, s.nameVictim (setOf q.line) = .victim w l ∧ st = .claimWaiting l w) ∨
      (s.nameVictim (setOf q.line) = .wait ∧ st = .noClaim)) : exec (.admissionExamine a) s =
      .next { s.openedAs a rest e { s.absentEntry a q e with phase := .awaitingWay } with
        awaiting := s.awaiting ++ [{ entry := e, stand := st }] } := by
  obtain ⟨hatrest, hrun, hon, hreq, hagent, hhead, hguard, hothers, hbusy, hentry, hplaces⟩ := State.admits_iff hadmits
  let x : Entry := s.absentEntry a q e
  let y : Entry := { x with phase := .awaitingWay }
  let b : State := s.openedAs a rest e x
  let t : State := { s.openedAs a rest e y with awaiting := s.awaiting ++ [{ entry := e, stand := st }] }
  have hbe : b.entry e = x := State.openedAs_entry s a rest e x
  have hte : t.entry e = y := State.openedAs_entry s a rest e y
  have hsearch : ∀ l, (b.due l).searchWay e = t.due (l ++ []) := fun l => by
    have hstand : (b.due l).setStand e st = t.due l := by
      rw [State.setStand_new (s := b.due l) (by rw [State.due_entry, hbe]; exact s.absentEntry_active a q e) hout,
        State.due_entry, hbe]
      exact congrArg (fun u : State => ({ u with awaiting := s.awaiting ++ [{ entry := e, stand := st }] } : State).due l)
        (State.openedAs_setEntry s a rest e x y)
    have hname' : ∀ n, (b.due l).nameVictim n = s.nameVictim n := fun n =>
      State.openedAs_nameVictim (x := x) (State.freeEntry_free hentry) rfl habsent a rest n
    have hline : ((b.due l).entry e).line = q.line := by rw [State.due_entry, hbe]; rfl
    obtain ⟨hvictim, hwaiting, -⟩ := State.searchWay_full (s := b.due l) (e := e)
      (by rw [hline]; exact (State.calm_iff.1 hcalm).1) hrun
      (by rw [hline]; exact (State.openedAs_freeSearch (x := x) (State.freeEntry_free hentry) rfl a rest _).trans hfree)
    rw [hline, hname'] at hvictim hwaiting
    rw [List.append_nil, ← hstand]
    rcases hname with ⟨w, l', hv, rfl⟩ | ⟨hv, rfl⟩
    · exact hvictim w l' hv
    · exact hwaiting hv
  have hdry : t.undrained := State.opened_undrained hon (State.atRest_undrained hatrest) q rest e
  have hheads : t.noHeadWaits := State.noHeadWaits_setPort (s := ({ s with position := a } : State).setEntry e y) hothers rfl
  exact State.exec_absent hadmits hk hregion hcalm habsent (k := []) hsearch (by rw [hte]; simp [y]) hrun hdry hheads
    (.waits (State.waits_awaiting (by rw [hte])) hrun hdry (.ended (State.atRest_work (s := s) hatrest))) (by decide)

/-- Way allocation answers none: the refusal is placed and the entry completes. -/
theorem State.exec_absent_refused (hmem : s.memOp e = none) (hout : ∀ m ∈ s.awaiting, m.entry ≠ e)
    (hfree : s.freeSearch (setOf q.line) = none) (hname : s.nameVictim (setOf q.line) = .none)
    (hnone : s.noneAwaiting (setOf q.line)) (howing : s.owingBuffer q.line = none) (hwait : (s.port a).waiters = [])
    (hroom : (s.port a).output.length < 16) : exec (.admissionExamine a) s =
      .next ((s.openedAs a rest e (Entry.free ((s.entry e).use + 1))).setPort a { s.port a with
        requests := rest, head := .fresh, output := (s.port a).output ++ [.refuse q.label q.line .noWay]
        labels := (s.port a).labels.filter (fun k => k != q.label) }) := by
  obtain ⟨hatrest, hrun, hon, hreq, hagent, hhead, hguard, hothers, hbusy, hentry, hplaces⟩ := State.admits_iff hadmits
  let x : Entry := s.absentEntry a q e
  let y : Entry := { x with pinCounted := false, refused := true, reply := .placed, phase := .replying }
  let p : Port := { s.port a with
    requests := rest, head := .fresh, output := (s.port a).output ++ [.refuse q.label q.line .noWay]
    labels := (s.port a).labels.filter (fun k => k != q.label) }
  let b : State := s.openedAs a rest e x
  let t : State := (s.openedAs a rest e y).setPort a p
  have hbe : b.entry e = x := State.openedAs_entry s a rest e x
  have hbp : b.port a = { s.port a with requests := rest, head := .fresh } := (State.openedAs_port s a rest e x a).trans (if_pos rfl)
  have hte : t.entry e = y := State.openedAs_entry s a rest e y
  have horigin : x.origin = some (a, q.label) := by rw [← hagent]; rfl
  have hsearch : ∀ l, (b.due l).searchWay e = t.due (l ++ [.advance e]) := fun l => by
    have hrefuse : (b.due l).refuseNoWay e = t.due (l ++ [.advance e]) := by
      rw [State.refuseNoWay_placed (s := b.due l) (a := a) (l := q.label)
        (by rw [State.due_entry, hbe]; exact s.absentEntry_active a q e) hout (by rw [State.due_entry, hbe, horigin])
        (by rw [State.due_entry, hbe]; rfl) (by rw [State.due_entry, hbe]; rfl) (by rw [State.due_port, hbp]; exact hon)
        (by rw [State.due_port, hbp]; exact hwait) (by rw [State.due_port, hbp]; exact hroom), State.due_entry, hbe,
        State.due_port, hbp, State.due_setEntry, State.openedAs_setEntry]
      rfl
    have hname' : ∀ n, (b.due l).nameVictim n = s.nameVictim n := fun n =>
      State.openedAs_nameVictim (x := x) (State.freeEntry_free hentry) rfl habsent a rest n
    have hline : ((b.due l).entry e).line = q.line := by rw [State.due_entry, hbe]; rfl
    obtain ⟨-, -, hnone⟩ := State.searchWay_full (s := b.due l) (e := e)
      (by rw [hline]; exact (State.calm_iff.1 hcalm).1) hrun
      (by rw [hline]; exact (State.openedAs_freeSearch (x := x) (State.freeEntry_free hentry) rfl a rest _).trans hfree)
    rw [hline, hname'] at hnone
    exact (hnone hname).trans hrefuse
  have hdry : t.undrained := State.undrained_setPort (State.opened_undrained hon (State.atRest_undrained hatrest) q rest e)
    (Port.drained_state (by simp [p, hon]))
  have hheads : t.noHeadWaits := State.noHeadWaits_setPort (s := s.openedAs a rest e y) (fun c hc => by
    rw [State.openedAs_port, if_neg fun hac => hc hac.symm]; exact hothers c hc) rfl
  have hfin : (t.entry e).finished := by
    rw [hte]
    exact { phase := rfl, pending := Entry.noPending_of rfl, reply := by simp [y], breaking := rfl, owed := rfl
            rebuild := rfl, answered := .inr (.inl rfl), dependent := .inl rfl, recheck := rfl, deferred := rfl }
  have hworks := State.works_frees (s := t) (l := [.advance e]) hfin
    (fun k => State.stepPlan_replied (s := t.due k) (by rw [State.due_entry, hte]) (by rw [State.due_entry, hte]; rfl)
      (by rw [State.due_entry, hte]; rfl))
    hmem hrun (by rw [hte]; exact howing)
    (by rw [hte]; exact State.noneAwaiting_setEntry (s := s) hnone hout y) hheads hdry (fun k hk => by
      obtain rfl := List.mem_singleton.1 hk
      exact ⟨State.idles_advance (by rw [State.setEntry_entry_same]; rfl), by simp⟩)
  rw [State.exec_absent hadmits hk hregion hcalm habsent (k := [.advance e]) hsearch (by rw [hte]; simp [y]) hrun hdry hheads
    hworks (show 4 + 3 ≤ Config.workBound by decide), hte, State.due_self (s := t.setEntry e _) (l := []) (State.atRest_work (s := s) hatrest)]
  refine congrArg Host.Outcome.next ?_
  show ((s.openedAs a rest e y).setPort a p).setEntry e _ = _
  rw [State.setPort_setEntry, State.openedAs_setEntry]
  rfl

end

/-- Settles O20: the free-way search by its members, then each answer of way allocation. -/
theorem anAbsentLineAsksForAWay : Obligations.AnAbsentLineAsksForAWay := by
  refine ⟨fun s n w => ?_, fun a q rest e s hadmits hk hregion hcalm habsent hmem hout => ?_⟩
  · have hnone : ∀ v, s.available n v = false ↔
        (s.mark n v).disable = true ∨ s.wayTag n v ≠ none ∨ s.isReserved n v = true := fun v => by
      rw [← Bool.not_eq_true, State.available_iff]
      cases (s.mark n v).disable <;> cases s.isReserved n v <;> simp
    rw [State.freeSearch_iff, State.available_iff]
    simp only [hnone]
  · obtain ⟨-, -, -, -, hagent, -⟩ := State.admits_iff hadmits
    have hfresh : s.absentEntry a q e = { Entry.free ((s.entry e).use + 1) with
        kind := .req (if q.kind = .upgrade then .readOwn else q.kind), origin := some (a, q.label), line := q.line
        phase := .starting, first := if q.kind = .upgrade then 0 else q.first, mayWrite := writeRight s.settings a q.line
        sole := q.kind == .readShared && s.settings.soleReader && writeRight s.settings a q.line
        pinCounted := q.kind == .lockedRead } := by
      rw [State.absentEntry, Entry.planned_ofRequest (by rcases hk with h | h | h | ⟨h, -⟩ <;> simp [h]), hagent]
    refine ⟨fun w i hfree hready => ?_, fun w l hfree hname => ?_, fun hfree hname => ?_, fun hfree hname hnone howing hwait hroom => ?_⟩
    · rw [State.exec_absent_given hadmits hk hregion hcalm habsent hmem hout hfree hready, hfresh]
      rfl
    · rw [State.exec_absent_waits hadmits hk hregion hcalm habsent hout hfree (.inl ⟨w, l, hname, rfl⟩), hfresh]
      rfl
    · rw [State.exec_absent_waits hadmits hk hregion hcalm habsent hout hfree (.inr ⟨hname, rfl⟩), hfresh]
      rfl
    · rw [State.exec_absent_refused hadmits hk hregion hcalm habsent hmem hout hfree hname hnone howing hwait hroom]
      rfl

end Sys2Proof.Machine
end

section
/-! SUPPORT. The record operations as one write of a set, one of the busy entry's copy, and one of a holding count. -/

namespace Sys2Proof.Machine

theorem State.changeBusy_port (s : State) (l : Line) (f : Entry → Entry) (a : Agent) :
    (s.changeBusy l f).port a = s.port a := by
  unfold State.changeBusy
  split <;> rfl

theorem State.freeRec_unheld {s : State} {w : WayNo} {r : Rec} (h : r.holders = 0) (l : Line) :
    s.freeRec l w r = s.freeWay l w := by
  unfold State.freeRec
  rw [h, AgentSet.list_zero]
  rfl

theorem AgentSet.has_ne_zero {h : AgentSet} {a : Agent} (ha : AgentSet.has h a = true) : h ≠ 0 := by
  revert h a; decide

section
variable {s : State} (harray : s.arrayLawful) {l : Line} {w : WayNo}
include harray

/-- FREE of a record with one holder, its port not draining (R11). -/
theorem State.freeRec_only {r : Rec} {a : Agent} (hr : r.holders = AgentSet.only a) (hstate : (s.port a).state ≠ .draining) :
    s.freeRec l w r = (((s.putSet (setOf l) ((s.aset (setOf l)).freed w)).changeBusy l (fun x => { x with
      copy := none, reserved := if x.keepsFreed then some w else x.reserved })).setPort a
        { s.port a with holding := (s.port a).holding - 1 }).push (.wake (setOf l)) := by
  unfold State.freeRec
  rw [hr, AgentSet.list_only, State.freeWay_eq harray]
  have hport : ∀ (t : State) (k : Task), (t.push k).port a = t.port a := fun _ _ => rfl
  rw [List.foldl_cons, List.foldl_nil, State.subHold_eq (by rw [hport, State.changeBusy_port]; exact hstate), hport,
    State.changeBusy_port]
  rfl

/-- REMOVE-HOLDER of one sharer of several, its port not draining (R8, R9). -/
theorem State.removeFrom_sharer {h : AgentSet} {a : Agent}
    (hrec : s.lineRec l = some (w, { state := .shared, holders := h, pin := none })) (hhas : AgentSet.has h a = true)
    (hleft : AgentSet.remove h a ≠ 0) (hstate : (s.port a).state ≠ .draining) (loss touch : Bool) :
    s.removeFrom l a loss touch = ((s.putSet (setOf l) ((s.aset (setOf l)).edited w
      { state := .shared, holders := AgentSet.remove h a, pin := none } touch)).changeBusy l (fun x => { x with
        copy := some { state := .shared, holders := AgentSet.remove h a, pin := none } })).setPort a
          { s.port a with holding := (s.port a).holding - 1 } := by
  obtain ⟨hl, hr⟩ := State.lineRec_some hrec
  unfold State.removeFrom
  rw [hl]
  dsimp only
  unfold State.removeHolder
  dsimp only
  rw [← hr, hhas, if_neg (by decide)]
  dsimp only
  unfold State.rewrite
  dsimp only
  rw [if_neg (by decide), if_neg (by simpa using hleft), AgentSet.remove_lost hhas, AgentSet.remove_gained, AgentSet.list_only,
    AgentSet.list_zero, List.foldl_nil, List.foldl_cons, List.foldl_nil, if_neg (by simp), State.editState_eq harray,
    State.subHold_eq (by rw [State.changeBusy_port]; exact hstate), State.changeBusy_port]
  rfl

/-- REMOVE-HOLDER of the exclusive holder, cleanly (R9). -/
theorem State.removeFrom_exclusive {a : Agent} {p : Option Agent}
    (hrec : s.lineRec l = some (w, { state := .exclusive, holders := AgentSet.only a, pin := p }))
    (hstate : (s.port a).state ≠ .draining) (touch : Bool) : s.removeFrom l a false touch =
      (((s.putSet (setOf l) ((s.aset (setOf l)).freed w)).changeBusy l (fun x => { x with
        copy := none, reserved := if x.keepsFreed then some w else x.reserved })).setPort a
          { s.port a with holding := (s.port a).holding - 1 }).push (.wake (setOf l)) := by
  obtain ⟨hl, hr⟩ := State.lineRec_some hrec
  unfold State.removeFrom
  rw [hl]
  dsimp only
  unfold State.removeHolder
  dsimp only
  rw [← hr, AgentSet.has_only, if_neg (by simp)]
  dsimp only
  rw [if_neg (by decide), State.freeRec_only harray rfl hstate]

end

end Sys2Proof.Machine
end

section
/-! CLEAR-POISON, drops and writebacks on idle lines, settled. -/

namespace Sys2Proof.Machine

theorem State.clearLine_busy {s : State} (hrun : s.running = true) {l : Line} (hsound : s.soundSet (setOf l)) {e : EntryNo}
    (hbusy : s.busy l = some e) : s.clearLine l = (s, .only .busy) := by
  unfold State.clearLine
  dsimp only
  rw [State.claimLine_sound hsound, if_neg (by simp [hrun]), hbusy]

theorem State.clearLine_idle {s : State} (hrun : s.running = true) {l : Line} (hsound : s.soundSet (setOf l))
    (hidle : s.busy l = none) : s.clearLine l = s.clearIdlePoison l := by
  unfold State.clearLine
  dsimp only
  rw [State.claimLine_sound hsound, if_neg (by simp [hrun]), hidle]

/-- Settles O52: a busy line, a line with no POISONED record, and the record freed with its set's awaiting list woken. -/
theorem clearPoisonFreesTheRecord : Obligations.ClearPoisonFreesTheRecord := by
  intro line l s h hrun hline hcalm
  obtain ⟨hsound, hnolost, -⟩ := State.calm_iff.1 hcalm
  have hlost := State.noLost_iff.1 hnolost
  have hf : s.clearPoison line = s.clearLine l := by
    rw [State.clearPoison, lineArg_of_toNat hline]
    exact State.inRunning_taken hrun _
  rw [exec_clearPoison]
  refine ⟨fun e hbusy => ?_, fun hbusy hrec => ?_, fun w hbusy hlawful hnone hrec => ?_⟩
  · exact State.frame_command_same h (hf.trans (State.clearLine_busy hrun hsound hbusy))
  · refine State.frame_command_same h (hf.trans ((State.clearLine_idle hrun hsound hbusy).trans ?_))
    unfold State.clearIdlePoison
    rcases hrec with hrec | ⟨w, r, hrec, hr⟩
    · rw [hrec]; rfl
    · rw [hrec]
      dsimp only
      rw [hlost, if_neg (by decide), if_neg (by simpa using hr)]
      rfl
  · let u : State := s.putSet (setOf l) ((s.aset (setOf l)).freed w)
    have hfree : s.freeRec l w { state := .poisoned, holders := 0, pin := none } = u.push (.wake (setOf l)) := by
      rw [State.freeRec_unheld rfl, State.freeWay_eq hlawful.1, State.changeBusy_none (s := u) ((State.busy_congr (s := s) rfl l).trans hbusy)]
    have hclear : s.clearIdlePoison l = (u.push (.wake (setOf l)), .only .ok) := by
      unfold State.clearIdlePoison
      rw [hrec]
      dsimp only
      rw [hlost, if_neg (by decide), if_pos (by decide), hfree]
    have hrest := State.frameReady_atRest h
    have hdry : u.undrained := State.atRest_undrained hrest
    have hwork : u.work = [] := State.atRest_work hrest
    have hworks : Works 1 (u.push (.wake (setOf l))) u := by
      rw [State.push_eq_due, hwork]
      exact .pass (s := u.due [.wake (setOf l)]) rfl (show u.noneAwaiting (setOf l) = true from hnone) (by simp) hdry (.ended hwork)
    obtain ⟨hl, -⟩ := State.lineRec_some hrec
    refine ⟨_, State.frame_command_works h (hf.trans ((State.clearLine_idle hrun hsound hbusy).trans hclear)) hdry hworks, State.lookup_freed hlawful.1 hl, ?_, fun v hv => ?_,
      fun k hk => State.putSet_aset_ne hlawful.1 _ _ hk, rfl⟩
    · exact congrArg (fun x : ASet => x.order.value) (State.putSet_aset_same hlawful.1 (setOf l) _)
    · exact (congrArg (fun x : ASet => x.ways[v]) (State.putSet_aset_same hlawful.1 (setOf l) _)).trans (ASet.freed_ways_ne _ hv)

/-! ### Drops (R101, R102) -/

/-- The DROP of an idle line of a calm set goes by what the record says of its sender. -/
theorem State.handle_idleDrop {s : State} {a : Agent} {l : Line} (hrun : s.running = true) (htakes : s.takesHead a (.drop l))
    (hidle : s.busy l = none) (hcalm : s.calm (setOf l)) : s.handle a .drop = s.takeDrop a 0 l := by
  obtain ⟨hsound, hlost, hfailed⟩ := State.calm_iff.1 hcalm
  rw [State.handle_takesHead (k := .drop) htakes rfl]
  show s.routeDrop a 0 l = _
  unfold State.routeDrop
  rw [hidle]
  dsimp only
  rw [State.claimLine_sound hsound, if_neg (by simp [hrun]), State.lineLost_calm hlost, if_neg (by decide),
    State.stripFailed_none hfailed]

theorem State.listed_of_lineRec {s : State} {l : Line} {w : WayNo} {r : Rec} (h : s.lineRec l = some (w, r)) (a : Agent) :
    s.listed l a = AgentSet.has r.holders a := by
  unfold State.listed
  rw [h]

theorem State.pinnedBy_idle {s : State} {l : Line} (h : s.busy l = none) (a : Agent) : s.pinnedBy l a = none := by
  unfold State.pinnedBy
  rw [h]

/-- Settles O26: a late drop is counted; a sharer's removes it from the record. -/
theorem dropOnAnIdleLine : Obligations.DropOnAnIdleLine := by
  intro a l s h hheads hon htakes hidle hcalm
  obtain ⟨hrun, hatt⟩ := State.takesHead_running htakes
  have hroute := State.handle_idleDrop hrun htakes hidle hcalm
  rw [exec_responseHandlerDrop]
  refine ⟨fun hlisted => ?_, fun w h' hlawful hrec hhas hleft => ?_⟩
  · let t : State := { s with counters := { s.counters with
      lateDrop := if s.counters.lateDrop < 65535 then s.counters.lateDrop + 1 else 65535 } }
    let p : Port := { s.port a with responses := (s.port a).responses.tail }
    have hf : s.handle a .drop = (t.setPort a p).push .admission := by
      rw [hroute, State.takeDrop, hlisted, if_neg (by decide)]
      exact State.takeResponse_head (s := t) (by rw [show t.port a = s.port a from rfl, hon]; decide)
    refine State.event_push (k := .admission) (t := t.setPort a p) (State.atRest_resetPin h) hf ?_ ?_ (by simp)
    · exact State.atRest_setPort (s := t) h (Port.drained_state (by simp [p, hon]))
    · exact State.idles_admission (State.noHeadWaits_sameHead (s := t) (p := p) hheads rfl)
  · let r : Rec := { state := .shared, holders := AgentSet.remove h' a, pin := none }
    let u : State := s.putSet (setOf l) ((s.aset (setOf l)).edited w r false)
    let q : Port := { s.port a with holding := (s.port a).holding - 1 }
    let p : Port := { q with responses := (s.port a).responses.tail }
    have hub : u.busy l = none := (State.busy_congr (s := s) rfl l).trans hidle
    have hremove : s.removeFrom l a false false = u.setPort a q := by
      rw [State.removeFrom_sharer hlawful.1 hrec hhas hleft (by rw [hon]; decide), State.changeBusy_none (s := u) hub]
    have hadvance : (u.setPort a q).advanceBusy l = u.setPort a q := by
      unfold State.advanceBusy
      rw [show (u.setPort a q).busy l = none from hub]
    have hport : (u.setPort a q).port a = q := State.setPort_port_same u a q
    have hf : s.handle a .drop = (u.setPort a p).push .admission := by
      rw [hroute, State.takeDrop, State.listed_of_lineRec hrec, hhas, if_pos rfl, State.listedDrop, State.pinnedBy_idle hidle]
      dsimp only
      rw [hremove, hadvance, State.takeResponse_head (by rw [hport]; simp [q, hon]), hport, State.setPort_setPort]
    have haset : (u.setPort a p).aset (setOf l) = (s.aset (setOf l)).edited w r false :=
      State.putSet_aset_same hlawful.1 (setOf l) _
    refine ⟨_, State.event_push (k := .admission) (t := u.setPort a p) (State.atRest_resetPin h) hf
      (State.atRest_setPort (s := u) h (Port.drained_state (by simp [p, q, hon])))
      (State.idles_admission (State.noHeadWaits_sameHead (s := u) (p := p) hheads rfl)) (by simp),
      State.recAt_edited hlawful.1 _ w r false, ?_, fun v hv => ?_, fun n hn => State.putSet_aset_ne hlawful.1 _ _ hn,
      State.setPort_port_same u a p, fun c hc => State.setPort_port_ne u p fun hac => hc hac.symm, rfl⟩
    · rw [haset, ASet.edited_order]
    · rw [haset, ASet.edited_ways_ne _ r false hv]

end Sys2Proof.Machine
end

section
/-! SUPPORT. A recall reply that ends an INVALIDATE of a sharer. -/

namespace Sys2Proof.Machine

section
variable {s : State} {e : EntryNo} {b : Agent} {p : PendingRecall} {r : RecallEnd}

/-- A reply without data of an entry in its plan, in one claim (R52, R88). -/
theorem State.applyReply_plan (hpending : (s.entry e).pending[b] = some p) (hactive : (s.entry e).phase ≠ .free)
    (howed : (s.entry e).poisonOwed = false) (hrebuild : (s.entry e).rebuild = false) : s.applyReply e b r =
      ((s.setEntry e { s.entry e with pending := (s.entry e).pending.set b none }).planReply e b p.kind r).push (.advance e) := by
  unfold State.applyReply
  rw [hpending]
  dsimp only
  rw [State.modEntry_active hactive, howed, hrebuild]
  rfl

/-- The effect of the end of an INVALIDATE without data: its agent leaves the record (R89). -/
theorem State.planReply_invalidate (hr : ∀ d k, r ≠ .data d k) (hrun : s.running = true)
    (hclaim : s.claimEntry e (some b) = s) :
    s.planReply e b .invalidate r = s.removeFrom (s.entry e).line b (r == .failed) (s.touches e) := by
  unfold State.planReply
  dsimp only
  rw [hclaim, if_neg (by simp [hrun])]
  cases r with
  | data d k => exact absurd rfl (hr d k)
  | ack held => rfl
  | failed => rfl

/-- The end of an INVALIDATE at one sharer of several (R9, R89). -/
theorem State.applyReply_sharer {w : WayNo} {h : AgentSet} (harray : s.arrayLawful)
    (hpending : (s.entry e).pending[b] = some { kind := .invalidate, placed := true })
    (howed : (s.entry e).poisonOwed = false) (hrebuild : (s.entry e).rebuild = false) (hr : ∀ d k, r ≠ .data d k)
    (hrun : s.running = true) (hclaim : ∀ x : Entry, x.line = (s.entry e).line → (s.setEntry e x).claimEntry e (some b) = s.setEntry e x)
    (hbusy : s.busy (s.entry e).line = some e)
    (hrec : s.lineRec (s.entry e).line = some (w, { state := .shared, holders := h, pin := none }))
    (hhas : AgentSet.has h b = true) (hleft : AgentSet.remove h b ≠ 0) (hstate : (s.port b).state ≠ .draining) :
    s.applyReply e b r = (((s.putSet (setOf (s.entry e).line) ((s.aset (setOf (s.entry e).line)).edited w
      { state := .shared, holders := AgentSet.remove h b, pin := none } (s.entry e).kind.isAgent)).setEntry e
        { s.entry e with
          pending := (s.entry e).pending.set b none
          copy := some { state := .shared, holders := AgentSet.remove h b, pin := none } }).setPort b
      { s.port b with holding := (s.port b).holding - 1 }).push (.advance e) := by
  obtain ⟨hactive, -⟩ := State.busy_some hbusy
  let x : Entry := { s.entry e with pending := (s.entry e).pending.set b none }
  let t : State := s.setEntry e x
  have hte : t.entry e = x := State.setEntry_entry_same s e x
  have hline : (t.entry e).line = (s.entry e).line := by rw [hte]
  have htouch : t.touches e = (s.entry e).kind.isAgent := by unfold State.touches; rw [hte]
  have hbusy' : ∀ y, (t.putSet (setOf (s.entry e).line) y).busy (s.entry e).line = some e := fun y =>
    (State.busy_congr (s := t) rfl _).trans (State.busy_setEntry hbusy hactive rfl)
  rw [State.applyReply_plan hpending hactive howed hrebuild, State.planReply_invalidate (s := t) hr hrun (hclaim x rfl), hline,
    htouch, State.removeFrom_sharer (s := t) harray hrec hhas hleft hstate, State.changeBusy_some (hbusy' _)]
  refine congrArg (fun u => State.push (State.setPort u b _) _) ?_
  show ((t.putSet _ _).setEntry e { t.entry e with copy := _ }) = _
  rw [hte]
  exact State.setEntry_setEntry (s.putSet _ _) e x _

end

end Sys2Proof.Machine
end

section
/-! The acknowledgement of an INVALIDATE, settled. -/

namespace Sys2Proof.Machine

theorem State.handle_recallAck {s : State} {a : Agent} {entry : Byte} {use : UseNo} {held : Bool} {e : EntryNo}
    (htakes : s.takesHead a (.recallAck entry use held)) (hmatch : s.matchReply a entry use = some e) :
    s.handle a .reply = (s.applyReply e a (.ack held)).takeResponse a 0 := by
  rw [State.handle_takesHead (k := .reply) htakes rfl]
  show s.routeReply a 0 entry use _ = _
  unfold State.routeReply
  rw [hmatch]

theorem State.handle_recallData {s : State} {a : Agent} {entry : Byte} {use : UseNo} {d : LineData} {kept : Bool} {e : EntryNo}
    (htakes : s.takesHead a (.recallData entry use d kept)) (hmatch : s.matchReply a entry use = some e) :
    s.handle a .reply = (s.applyReply e a (.data d kept)).takeResponse a 0 := by
  rw [State.handle_takesHead (k := .reply) htakes rfl]
  show s.routeReply a 0 entry use _ = _
  unfold State.routeReply
  rw [hmatch]

/-- Settles O23: the sharer leaves the record, and the entry waits on for its read. -/
theorem invalidateAckRemovesASharer : Obligations.InvalidateAckRemovesASharer := by
  intro b entry use held e w h s hrest hheads hlawful hon htakes hmatch hpending hkind hphase hdata hreply horphaned howed
    hrebuild hmem hbusy hcalm hrec hhas hleft
  have harray := hlawful.1
  obtain ⟨hrun, hatt⟩ := State.takesHead_running htakes
  obtain ⟨hactive, -⟩ := State.busy_some hbusy
  let r : Rec := { state := .shared, holders := AgentSet.remove h b, pin := none }
  let x : Entry := { s.entry e with pending := (s.entry e).pending.set b none, copy := some r }
  let q : Port := { s.port b with holding := (s.port b).holding - 1 }
  let p : Port := { q with responses := (s.port b).responses.tail }
  let v : State := s.putSet (setOf (s.entry e).line) ((s.aset (setOf (s.entry e).line)).edited w r true)
  let u : State := v.setEntry e x
  let t : State := u.setPort b p
  have hclaim : ∀ y : Entry, y.line = (s.entry e).line → (s.setEntry e y).claimEntry e (some b) = s.setEntry e y :=
    fun y hy => State.claimEntry_calm (s := s.setEntry e y) (by rw [State.setEntry_entry_same, hy]; exact hcalm) _
  have happly : s.applyReply e b (.ack held) = (u.setPort b q).push (.advance e) := by
    rw [State.applyReply_sharer harray hpending howed hrebuild (by simp) hrun hclaim hbusy hrec hhas hleft (by rw [hon]; decide), hkind]
    rfl
  have hf : s.handle b .reply = t.due [.advance e, .admission] := by
    have hport : ((u.setPort b q).push (.advance e)).port b = q := State.setPort_port_same u b q
    rw [State.handle_recallAck htakes hmatch, happly, State.takeResponse_head (by rw [hport]; simp [q, hon]), hport,
      State.push_eq_due, State.push_eq_due, State.due_setPort, State.setPort_setPort,
      show (u.setPort b q).work = [] from State.atRest_work (s := s) hrest]
    rfl
  have hte : t.entry e = x := State.setEntry_entry_same v e x
  have hwaits : t.waits e := State.waits_reading (s := t) (k := .readOwn) (by rw [hte]; exact hkind) (by decide)
    ((State.memOp_congr (s := s) (t := t) rfl rfl e).trans hmem) (by rw [hte]; exact hphase) (by rw [hte]; exact hdata)
    (by rw [hte]; exact hrebuild) (by rw [hte]; exact howed)
  have hdry : t.undrained := State.undrained_setPort (s := u) (State.atRest_undrained hrest) (Port.drained_state (by simp [p, q, hon]))
  have hwheads : t.noHeadWaits := State.noHeadWaits_sameHead (s := u) (p := p) hheads rfl
  have hwork : t.work = [] := State.atRest_work (s := s) hrest
  have hworks : Works 2 (t.due [.advance e, .admission]) t :=
    .waits hwaits hrun hdry (.pass (s := t.due [.admission]) rfl (State.idles_admission hwheads) (by simp) hdry (.ended hwork))
  have haset : t.aset (setOf (s.entry e).line) = (s.aset (setOf (s.entry e).line)).edited w r true :=
    State.putSet_aset_same harray (setOf (s.entry e).line) _
  rw [exec_responseHandlerRecallReply]
  refine ⟨t, Works.event (State.atRest_resetPin hrest) (by rw [hf]; exact hworks) (by rw [hf]; exact hdry),
    State.recAt_edited harray _ w r true, ?_, fun v hv => ?_, fun n hn => State.putSet_aset_ne harray _ _ hn, hte,
    fun f hf => State.setEntry_entry_ne v x fun hef => hf hef.symm, State.setPort_port_same u b p,
    fun c hc => State.setPort_port_ne u p fun hbc => hc hbc.symm, rfl⟩
  · rw [haset, ASet.edited_front]
  · rw [haset, ASet.edited_ways_ne _ r true hv]

end Sys2Proof.Machine
end

section
/-! The writeback of an idle line, settled. -/

namespace Sys2Proof.Machine

/-- The WRITEBACK of an idle line of a calm set goes by what the record says of its sender. -/
theorem State.handle_idleWb {s : State} {a : Agent} {l : Line} {d : LineData} (hrun : s.running = true)
    (htakes : s.takesHead a (.writeback l d)) (hidle : s.busy l = none) (hcalm : s.calm (setOf l)) :
    s.handle a .writeback = s.idleWb a 0 l d false := by
  obtain ⟨hsound, hlost, hfailed⟩ := State.calm_iff.1 hcalm
  rw [State.handle_takesHead (k := .writeback) htakes rfl]
  show s.routeWb a 0 l d false = _
  unfold State.routeWb
  rw [hidle]
  dsimp only
  rw [State.claimLine_sound hsound, if_neg (by simp [hrun]), State.lineLost_calm hlost, if_neg (by decide),
    State.stripFailed_none hfailed]

/-- Settles O24: the record is freed, the buffer takes the data, and its write is issued. -/
theorem writebackTakesABuffer : Obligations.WritebackTakesABuffer := by
  intro a l d w p b i s h hheads hlawful hon htakes hidle hcalm hnone hrec hbuffer hq htag hbefore hwriting
  have harray := hlawful.1
  obtain ⟨hrun, hatt⟩ := State.takesHead_running htakes
  let y : WbBuffer := { state := .writing, line := l, agent := a, late := false, data := d, ackDone := false }
  let c : MemClaim := { claimant := .buffer b, write := true, line := l }
  let q : Port := { s.port a with holding := (s.port a).holding - 1 }
  let o : Port := { q with responses := (s.port a).responses.tail }
  let u : State := s.putSet (setOf l) ((s.aset (setOf l)).freed w)
  let v : State := (u.setBuffer b y).claimed i c
  have hub : u.busy l = none := (State.busy_congr (s := s) rfl l).trans hidle
  have hremove : s.removeFrom l a false false = (u.setPort a q).due [.wake (setOf l)] := by
    rw [State.removeFrom_exclusive harray hrec (by rw [hon]; decide), State.changeBusy_none (s := u) hub, State.push_eq_due,
      show (u.setPort a q).work = [] from State.atRest_work (s := s) h]
    rfl
  have hheld : (u.setBuffer b y).heldBehind c = false := State.heldBehind_none fun k hk hline => by
    rw [State.setBuffer_buffer] at hk hline
    split at hk
    · next hbk => exact congrArg Claimant.buffer hbk
    · next hbk =>
      rw [if_neg hbk] at hline
      exact absurd hline (hwriting k hk)
  have hclaim : (((u.setPort a q).due [.wake (setOf l)]).setBuffer b y).claimMem c = (v.setPort a q).due [.wake (setOf l)] :=
    State.claimMem_granted hq htag hbefore (.inl rfl) hheld
  have hf : s.handle a .writeback = (v.setPort a o).due [.wake (setOf l), .admission] := by
    have hport : ((v.setPort a q).due [.wake (setOf l)]).port a = q := State.setPort_port_same v a q
    rw [State.handle_idleWb hrun htakes hidle hcalm]
    unfold State.idleWb
    rw [hrec]
    dsimp only
    rw [AgentSet.has_only, if_neg (by simp)]
    unfold State.bufferWb
    rw [hbuffer]
    dsimp only
    rw [hremove, hclaim, State.takeResponse_head (by rw [hport]; simp [q, hon]), hport, State.due_setPort, State.setPort_setPort]
    rfl
  have hvbuffer : (u.setBuffer b y).buffer b = y := State.setBuffer_buffer_same u b y
  have hnone' : (v.setPort a o).noneAwaiting (setOf l) := State.noneAwaiting_congr (s := s) rfl rfl hnone
  have hheads' : (v.setPort a o).noHeadWaits := State.noHeadWaits_sameHead (s := v) (p := o) hheads rfl
  have haset : (v.setPort a o).aset (setOf l) = (s.aset (setOf l)).freed w := State.putSet_aset_same harray (setOf l) _
  obtain ⟨hl, -⟩ := State.lineRec_some hrec
  rw [exec_responseHandlerWriteback]
  refine ⟨v.setPort a o, State.event_idle (State.atRest_resetPin h) hf
      (State.atRest_setPort (s := v) h (Port.drained_state (by simp [o, q, hon]))) (fun k hk => ?_)
      (show 2 ≤ Config.workBound by decide),
    State.lookup_freed harray hl, ?_, fun k hk => ?_, fun n hn => State.putSet_aset_ne harray _ _ hn,
    State.setPort_port_same v a o, fun k hk => State.setPort_port_ne v o fun hak => hk hak.symm, hvbuffer,
    fun k hk => State.setBuffer_buffer_ne u y fun hbk => hk hbk.symm, State.setTag_tag_same _ i _,
    fun j hj => State.setTag_tag_ne _ _ fun hij => hj hij.symm, ?_, rfl⟩
  · rcases List.mem_cons.1 hk with rfl | hk
    · exact ⟨hnone', by simp⟩
    · obtain rfl := List.mem_singleton.1 hk
      exact ⟨State.idles_admission hheads', by simp⟩
  · rw [haset]; rfl
  · rw [haset, ASet.freed_ways_ne _ hk]
  · show s.memSent ++ [(u.setBuffer b y).issueMsg i c] = _
    unfold State.issueMsg State.claimantData
    rw [if_pos rfl]
    show s.memSent ++ [.write i ((s.tag i).use + 1) l ((u.setBuffer b y).buffer b).data] = _
    rw [hvbuffer]

end Sys2Proof.Machine
end

section
/-! SUPPORT. Data that arrives from memory, a grant that installs, and a step that ends an entry. -/

namespace Sys2Proof.Machine

theorem State.putSet_sets (s : State) (n : SetNo) (x : ASet) :
    (s.putSet n x).sets = storePut ASet.cleared s.sets n.toNat x := rfl

theorem maskBits_zero : ∀ n, maskBits 0 n = 0 := by
  intro n
  induction n with
  | zero => rfl
  | succ n ih =>
    rw [maskBits, ih, if_neg (by simp)]
    exact BitVec.zero_or

theorem mergeData_zero (old new : LineData) : mergeData 0 old new = new := by
  unfold mergeData
  rw [maskBits_zero]
  show (old &&& 0#512) ||| (new &&& ~~~0#512) = new
  rw [BitVec.and_zero, BitVec.zero_or, BitVec.not_zero, BitVec.and_allOnes]

theorem State.memDataTaken_entry (s : State) {c : MemClaim} {e : EntryNo} (hc : c.claimant = .entry e) (d : LineData) :
    s.memDataTaken c 0 d = s.readGood e d := by
  unfold State.memDataTaken
  rw [if_pos (by decide), hc]
  unfold State.endRead
  dsimp only

/-- The data of a read that no holder's data preceded, for a request that merges nothing (R53, R90). -/
theorem State.readGood_read {s : State} {e : EntryNo} (hactive : (s.entry e).phase ≠ .free) (hdata : (s.entry e).data = .none)
    (hkind : (s.entry e).kind ≠ .req .uncachedWrite) (d : LineData) : s.readGood e d =
      (s.setEntry e { s.entry e with buffer := mergeData (s.entry e).mask (s.entry e).buffer d, data := .fromMemory }).push
        (.advance e) := by
  unfold State.readGood
  dsimp only
  rw [if_pos (by simp [hdata]), State.modEntry_active hactive, if_neg (by simpa using hkind)]

/-- An item that does in one state what it does in another leaves the same work. -/
theorem Works.sameStep {s t u : State} {k : Task} {l : List Task} {n : Nat} (h : Works n (t.due (k :: l)) u)
    (hk : (s.due l).runTask k = (t.due l).runTask k) : Works n (s.due (k :: l)) u := by
  generalize hw : t.due (k :: l) = v at h
  cases h with
  | none hnil =>
    subst hw
    cases hnil
  | item hcons hrun hdry hrest =>
    subst hw
    cases hcons
    exact .item rfl (hk.trans hrun) hdry hrest

/-- The step of an entry that its plan's last step finishes, and what follows it, where nobody waits. -/
theorem State.works_stepFrees {s t : State} {e : EntryNo} {l : List Task} (hphase : (s.entry e).phase.inFlight = true)
    (hrebuild : (s.entry e).rebuild = false) (howed : (s.entry e).poisonOwed = false) (hsrun : s.running = true)
    (hplan : (s.due l).stepPlan e = t.due l) (hx : (t.entry e).finished) (hstep : ∀ k, State.stepPlan (t.due k) e = t.due k)
    (hmem : t.memOp e = none) (hrun : t.running = true) (howing : t.owingBuffer (t.entry e).line = none)
    (hnone : t.noneAwaiting (setOf (t.entry e).line)) (hheads : t.noHeadWaits) (hdry : t.undrained)
    (hidle : ∀ k ∈ l, (t.setEntry e (Entry.free (t.entry e).use)).idles k = true ∧ ∀ f a, k ≠ .notHeld f a)
    (hwork : t.work = []) :
    Works (l.length + 3) (s.due (.advance e :: l)) (t.setEntry e (Entry.free (t.entry e).use)) := by
  have hfrees := State.works_frees hx hstep hmem hrun howing hnone hheads hdry hidle
  rw [State.due_self (s := t.setEntry e _) (l := []) hwork] at hfrees
  refine Works.sameStep hfrees ?_
  rw [State.runTask_running (s := s.due l) hsrun, State.runTask_running (s := t.due l) hrun]
  show (s.due l).advance e = (t.due l).advance e
  rw [State.advance_plan (s := s.due l) hphase hrebuild howed, State.advance_plan (s := t.due l) hx.phase hx.rebuild hx.owed,
    hplan, hstep]

/-! ### A grant (R74) -/

section
variable {s : State} {e : EntryNo} {a : Agent} {lb : Label}

/-- A final reply placed at an ONLINE port. -/
theorem State.placeReply_online (hactive : (s.entry e).phase ≠ .free) (hon : (s.port a).state = .online) (m : OutMsg) :
    s.placeReply e a lb m = (s.setEntry e { s.entry e with reply := .placed }).setPort a { s.port a with
      labels := (s.port a).labels.filter (fun k => k != lb), output := (s.port a).output ++ [m] } := by
  unfold State.placeReply State.place
  rw [State.modPort_eq, State.releaseLabel_modPort _ (by rw [State.setPort_port_same]; simp [hon]), State.modPort_eq,
    State.setPort_port_same, State.setPort_setPort, State.modEntry_active (by rw [State.setPort_entry]; exact hactive),
    State.setPort_entry]
  rfl

/-- A grant that installs the record in the entry's reserved way (R7, R74). -/
theorem State.placeGrant_installs {w : WayNo} {m : OutMsg} (harray : s.arrayLawful) (hrun : s.running = true)
    (hbusy : s.busy (s.entry e).line = some e) (hclaim : s.claimEntry e none = s) (hon : (s.port a).state = .online)
    (hlookup : s.lookup (s.entry e).line = none) (hreserved : (s.entry e).reserved = some w)
    (henabled : s.enabled (setOf (s.entry e).line) w = true) (hfree : s.wayTag (setOf (s.entry e).line) w = none)
    (hpins : m.pins = false) (hholders : (m.granted a 0).holders = AgentSet.only a) : s.placeGrant e a lb m =
      ((s.putSet (setOf (s.entry e).line) ((s.aset (setOf (s.entry e).line)).installed w (tagOf (s.entry e).line)
        (m.granted a 0))).setEntry e { s.entry e with copy := some (m.granted a 0), reserved := none, reply := .placed }).setPort a
          { s.port a with
            labels := (s.port a).labels.filter (fun k => k != lb), output := (s.port a).output ++ [m]
            holding := (s.port a).holding + 1 } := by
  let line : Line := (s.entry e).line
  let r : Rec := m.granted a 0
  let y : ASet := (s.aset (setOf line)).installed w (tagOf line) r
  let x : Entry := { s.entry e with copy := some r }
  let u : State := (s.putSet (setOf line) y).setEntry e x
  let q : Port := { s.port a with holding := (s.port a).holding + 1 }
  obtain ⟨hactive, -⟩ := State.busy_some hbusy
  have hubusy : (s.putSet (setOf line) y).busy line = some e := (State.busy_congr (s := s) rfl line).trans hbusy
  have hinstall : s.install line w r = u.setPort a q := by
    rw [State.install_eq harray, State.changeBusy_some hubusy, show r.holders = _ from hholders, AgentSet.list_only,
      List.foldl_cons, List.foldl_nil]
    exact State.addHold_eq (s := u) (by rw [show u.port a = s.port a from rfl, hon]; decide)
  have hue : (u.setPort a q).entry e = x := State.setEntry_entry_same (s.putSet (setOf line) y) e x
  have hgive : (s.install line w r).modEntry e (fun x => { x with reserved := none }) =
      (u.setEntry e { x with reserved := none }).setPort a q := by
    rw [hinstall, State.modEntry_active (by rw [hue]; exact hactive), hue]
    rfl
  have hce : ((u.setEntry e { x with reserved := none }).setPort a q).entry e = { x with reserved := none } :=
    State.setEntry_entry_same u e _
  have hcp : ((u.setEntry e { x with reserved := none }).setPort a q).port a = q :=
    State.setPort_port_same (u.setEntry e { x with reserved := none }) a q
  unfold State.placeGrant
  dsimp only
  rw [hclaim, if_neg (by simp [hrun]), if_neg (by simp [Port.attached_iff.2 (.inl hon)]), State.lineRec_of_absent hlookup]
  dsimp only
  rw [hreserved]
  dsimp only
  rw [if_pos (by rw [henabled, hfree]; rfl), hpins, if_neg (by decide), hgive, State.placeReply_online (by rw [hce]; exact hactive)
    (by rw [hcp]; exact hon), hce, hcp, State.setPort_setEntry, State.setPort_setPort, State.setEntry_setEntry]
  refine congrArg (fun t => State.setPort t a _) ?_
  exact State.setEntry_setEntry (s.putSet (setOf line) y) e x _

end

end Sys2Proof.Machine
end

section
/-! A READ-SHARED granted on its data, settled. -/

namespace Sys2Proof.Machine

theorem AgentSet.add_zero (a : Agent) : AgentSet.add 0 a = AgentSet.only a := by revert a; decide

/-- A READ-SHARED with its data in and no reply decided is granted (R76). -/
theorem State.stepPlan_readShared {s : State} {e : EntryNo} {a : Agent} {lb : Label} (hkind : (s.entry e).kind = .req .readShared)
    (horigin : (s.entry e).origin = some (a, lb)) (howed : (s.entry e).poisonOwed = false)
    (horphaned : (s.entry e).orphaned = false) (hsaves : (s.entry e).saves = false) (hreply : (s.entry e).reply = .none)
    (hdata : (s.entry e).data ≠ .none) (hsole : (s.entry e).sole = false) (hon : (s.port a).state = .online)
    (hwait : (s.port a).waiters = []) (hroom : (s.port a).output.length < 16) : s.stepPlan e =
      s.placeGrant e a lb (.grantShared lb (s.entry e).line (beatsFrom (s.entry e).buffer (s.entry e).first)) := by
  unfold State.stepPlan
  dsimp only
  rw [hkind, horigin]
  dsimp only
  rw [howed, horphaned, if_neg (by decide), if_neg (by decide)]
  unfold State.stepReq
  dsimp only
  rw [hsaves, if_neg (by decide), hreply, if_pos (by simpa using hdata)]
  unfold State.offerGrant
  dsimp only
  rw [horigin]
  dsimp only
  rw [if_neg (by simp [Port.attached_iff.2 (.inl hon)]), if_pos (Port.hasPlace_of hwait hroom), hsole, if_neg (by decide)]

/-- Settles O31: the data enters, the grant installs the record and is placed, and the entry completes. -/
theorem readSharedIsGrantedOnItsData : Obligations.ReadSharedIsGrantedOnItsData := by
  intro i d e a label l w f left right s h hrun hlawful hop hentry hbusy hlookup henabled hfree hcalm hon hwait hroom hheads
    hawait hq howing hothers
  have harray := hlawful.1
  have hphase : (s.entry e).phase = .readingMemory := congrArg Entry.phase hentry
  have hline : (s.entry e).line = l := congrArg Entry.line hentry
  have hdata : (s.entry e).data = .none := congrArg Entry.data hentry
  have hkind : (s.entry e).kind = .req .readShared := congrArg Entry.kind hentry
  have horigin : (s.entry e).origin = some (a, label) := congrArg Entry.origin hentry
  have hmerge : mergeData (s.entry e).mask (s.entry e).buffer d = d := by
    rw [show (s.entry e).mask = 0 from congrArg Entry.mask hentry, mergeData_zero]
  let x : Entry := { s.entry e with buffer := d, data := .fromMemory }
  let v : State := s.freeTag i
  let u : State := v.setEntry e x
  let m : OutMsg := .grantShared label l (beatsFrom d f)
  let r : Rec := { state := .shared, holders := AgentSet.only a, pin := none }
  let y : ASet := (s.aset (setOf l)).installed w (tagOf l) r
  let p : Port := { s.port a with
    labels := (s.port a).labels.filter (fun k => k != label), output := (s.port a).output ++ [m]
    holding := (s.port a).holding + 1 }
  let x' : Entry := { x with copy := some r, reserved := none, reply := .placed }
  let c : State := (s.putSet (setOf l) y).setTag i { s.tag i with op := none }
  let b : State := c.setEntry e x'
  let t : State := b.setPort a p
  have hue : u.entry e = x := State.setEntry_entry_same v e x
  have hgood : v.readGood e d = u.push (.advance e) := by
    rw [State.readGood_read (s := v) (by rw [show (v.entry e).phase = _ from hphase]; decide) hdata
      (by rw [show (v.entry e).kind = _ from hkind]; decide), show mergeData (v.entry e).mask (v.entry e).buffer d = d from hmerge]
    rfl
  have hf : s.memDataArrives (BitVec.ofNat 8 i.val) (s.tag i).use 0 d = u.due [.advance e] := by
    have hdone := State.memDataTaken_entry v (c := { claimant := .entry e, write := false, line := l }) rfl d
    have harrives := State.memDataArrives_taken hrun hop rfl rfl 0 d (by rw [hdone, hgood]; exact hq)
    rw [hdone, hgood, State.push_eq_due, show u.work = [] from State.atRest_work (s := s) h] at harrives
    exact harrives
  have hgranted : m.granted a 0 = r := by
    show { state := .shared, holders := AgentSet.add 0 a, pin := none } = r
    rw [AgentSet.add_zero]
  have hul : ((u.due []).entry e).line = l := by rw [State.due_entry, hue]; exact hline
  have hub : u.busy l = some e := State.busy_setEntry (s := v) ((State.busy_congr (s := s) rfl l).trans hbusy)
    (by rw [show x.phase = _ from hphase]; decide) hline
  have hplan : (u.due []).stepPlan e = t.due [] := by
    rw [State.stepPlan_readShared (s := u.due []) (a := a) (lb := label) (by rw [State.due_entry, hue]; exact hkind)
      (by rw [State.due_entry, hue]; exact horigin) (by rw [State.due_entry, hue]; exact congrArg Entry.poisonOwed hentry)
      (by rw [State.due_entry, hue]; exact congrArg Entry.orphaned hentry)
      (by rw [State.due_entry, hue]; exact congrArg Entry.saves hentry)
      (by rw [State.due_entry, hue]; exact congrArg Entry.reply hentry) (by rw [State.due_entry, hue]; simp [x])
      (by rw [State.due_entry, hue]; exact congrArg Entry.sole hentry) hon hwait hroom, State.due_entry, hue,
      show x.line = l from hline, show x.first = f from congrArg Entry.first hentry]
    rw [State.placeGrant_installs (s := u.due []) (e := e) (a := a) (w := w) (m := m) harray hrun (by rw [hul]; exact hub)
      (State.claimEntry_calm (by rw [hul]; exact hcalm) none) hon (by rw [hul]; exact hlookup)
      (by rw [State.due_entry, hue]; exact congrArg Entry.reserved hentry) (by rw [hul]; exact henabled)
      (by rw [hul]; exact hfree) rfl (AgentSet.add_zero a), hul, State.due_entry, hue, hgranted, State.due_putSet,
      State.setEntry_putSet, State.due_setEntry, State.setEntry_setEntry, State.due_setPort]
    rfl
  have hte : t.entry e = x' := State.setEntry_entry_same c e x'
  have htl : (t.entry e).line = l := by rw [hte]; exact hline
  have hfin : (t.entry e).finished := by
    rw [hte]
    exact { phase := by rw [show x'.phase = _ from hphase]; rfl
            pending := Entry.noPending_of (congrArg Entry.pending hentry)
            reply := by simp [x']
            breaking := congrArg Entry.breaking hentry
            owed := congrArg Entry.poisonOwed hentry
            rebuild := congrArg Entry.rebuild hentry
            answered := .inr (.inl rfl)
            dependent := .inl (congrArg Entry.dependent hentry)
            recheck := congrArg Entry.recheck hentry
            deferred := congrArg Entry.deferred hentry }
  have hdry : s.undrained := State.atRest_undrained h
  have htdry : t.undrained := State.undrained_setPort (s := b) (State.undrained_congr (s := s) rfl hdry)
    (Port.drained_state (by simp [p, hon]))
  have htheads : t.noHeadWaits := State.noHeadWaits_sameHead (s := b) (p := p) (State.noHeadWaits_congr (s := s) rfl hheads) rfl
  have htmem : t.memOp e = none := (State.memOp_congr (s := v) (t := t) rfl rfl e).trans (State.memOp_freeTag hq hothers)
  have htowing : t.owingBuffer (t.entry e).line = none := by
    rw [htl, State.owingBuffer_congr (s := s) (t := t) rfl, howing]
  have hwork : s.work = [] := State.atRest_work h
  have hworks := State.works_stepFrees (s := u) (t := t) (l := []) (by rw [hue, show x.phase = _ from hphase]; rfl)
    (by rw [hue]; exact congrArg Entry.rebuild hentry) (by rw [hue]; exact congrArg Entry.poisonOwed hentry) hrun hplan hfin
    (fun k => State.stepPlan_replied (s := t.due k) (by rw [State.due_entry, hte])
      (by rw [State.due_entry, hte]; exact congrArg Entry.orphaned hentry)
      (by rw [State.due_entry, hte]; exact congrArg Entry.saves hentry))
    htmem hrun htowing (State.noneAwaiting_empty (s := t) hawait _) htheads htdry (by simp) hwork
  let g : State := c.setEntry e (Entry.free (s.entry e).use)
  let z : State := g.setPort a p
  have hz : t.setEntry e (Entry.free (t.entry e).use) = z := by
    rw [hte, State.setPort_setEntry, State.setEntry_setEntry]
  rw [hz] at hworks
  have hudry : (u.due [.advance e]).undrained := State.undrained_congr (s := s) rfl hdry
  have hsets : z.sets = (s.putSet (setOf l) y).sets := rfl
  have haset : z.aset (setOf l) = y := (State.aset_congr hsets _).trans (State.putSet_aset_same harray (setOf l) y)
  have hothersets : ∀ n, n ≠ setOf l → z.aset n = s.aset n := fun n hn =>
    (State.aset_congr hsets n).trans (State.putSet_aset_ne harray _ _ hn)
  have hrec : z.lineRec l = some (w, r) :=
    (State.lineRec_congr hsets rfl l).trans (State.lineRec_installed harray hlookup henabled r)
  rw [exec_memData]
  refine ⟨z, Works.event (State.atRest_resetPin h) (by rw [hf]; exact hworks) (by rw [hf]; exact hudry), hrec, ?_,
    fun v hv => ?_, hothersets, State.setPort_port_same g a p, fun k hk => State.setPort_port_ne g p fun hak => hk hak.symm,
    State.setEntry_entry_same c e _, fun k hk => State.setEntry_entry_ne c _ fun hek => hk hek.symm,
    State.setTag_tag_same (s.putSet (setOf l) y) i _, fun j hj => State.setTag_tag_ne (s.putSet (setOf l) y) _ fun hij => hj hij.symm, rfl⟩
  · rw [haset]; rfl
  · rw [haset, ASet.installed_ways_ne _ _ r hv]

end Sys2Proof.Machine
end

section
/-! SUPPORT. The end of a pin. -/

namespace Sys2Proof.Machine

/-- The entry of a pin that has ended, with the record copy that its edit left (R121, R123). -/
def Entry.released (x : Entry) (c : Option Rec) : Entry :=
  { x with copy := c, pinTimer := none, pinCounted := false, phase := .recalling }

theorem AgentSet.only_ne_zero (a : Agent) : AgentSet.only a ≠ 0 := by revert a; decide

theorem AgentSet.and_not_self (h : AgentSet) : h &&& ~~~h = 0 := by revert h; decide

section
variable {s : State} {l : Line} {w : WayNo} {a : Agent} {e : EntryNo} (harray : s.arrayLawful) (hbusy : s.busy l = some e)
  (hrec : s.lineRec l = some (w, { state := .exclusive, holders := AgentSet.only a, pin := some a }))
include harray hbusy hrec

/-- The pin of an exclusive record is cleared, and its entry leaves PINNED (R121, R123). -/
theorem State.endPin_clearPin (touch : Bool) : (s.clearPin l touch).endPin e =
    (s.putSet (setOf l) ((s.aset (setOf l)).edited w { state := .exclusive, holders := AgentSet.only a, pin := none } touch)).setEntry
      e ((s.entry e).released (some { state := .exclusive, holders := AgentSet.only a, pin := none })) := by
  let r : Rec := { state := .exclusive, holders := AgentSet.only a, pin := none }
  let u : State := s.putSet (setOf l) ((s.aset (setOf l)).edited w r touch)
  let x : Entry := { s.entry e with copy := some r }
  have hub : u.busy l = some e := (State.busy_congr (s := s) rfl l).trans hbusy
  obtain ⟨hactive, -⟩ := State.busy_some hbusy
  have hclear : s.clearPin l touch = u.setEntry e x := by
    unfold State.clearPin
    rw [hrec]
    dsimp only
    rw [if_pos (by rfl)]
    unfold State.rewrite
    dsimp only
    rw [if_neg (by decide), if_neg (by simpa using AgentSet.only_ne_zero a), AgentSet.and_not_self, AgentSet.list_zero,
      List.foldl_nil, List.foldl_nil, State.editState_eq harray]
    exact State.changeBusy_some (s := u) hub _
  have hxe : (u.setEntry e x).entry e = x := State.setEntry_entry_same u e x
  unfold State.endPin
  rw [hclear, State.modEntry_active (by rw [hxe]; exact hactive), hxe, State.setEntry_setEntry]
  rfl

/-- Data that ends a pin: the record is freed, and its entry leaves PINNED with the way (R122). -/
theorem State.endPin_remove (hkeeps : (s.entry e).keepsFreed = true) (hstate : (s.port a).state ≠ .draining) :
    (s.removeFrom l a false false).endPin e =
      (((s.putSet (setOf l) ((s.aset (setOf l)).freed w)).setEntry e
        { (s.entry e).released none with reserved := some w }).setPort a
          { s.port a with holding := (s.port a).holding - 1 }).push (.wake (setOf l)) := by
  let u : State := s.putSet (setOf l) ((s.aset (setOf l)).freed w)
  let x : Entry := { s.entry e with copy := none, reserved := some w }
  let q : Port := { s.port a with holding := (s.port a).holding - 1 }
  have hub : u.busy l = some e := (State.busy_congr (s := s) rfl l).trans hbusy
  obtain ⟨hactive, -⟩ := State.busy_some hbusy
  have hremove : s.removeFrom l a false false = ((u.setEntry e x).setPort a q).push (.wake (setOf l)) := by
    rw [State.removeFrom_exclusive harray hrec hstate, State.changeBusy_some (s := u) hub, if_pos (show (u.entry e).keepsFreed = true from hkeeps)]
    rfl
  have hxe : (((u.setEntry e x).setPort a q).push (.wake (setOf l))).entry e = x := State.setEntry_entry_same u e x
  unfold State.endPin
  rw [hremove, State.modEntry_active (by rw [hxe]; exact hactive), hxe, State.push_eq_due, State.due_setEntry,
    State.setPort_setEntry, State.setEntry_setEntry]
  rfl

end

end Sys2Proof.Machine
end

section
/-! SUPPORT. A state with one set, one entry and one port written: what it holds. -/

namespace Sys2Proof.Machine

/-- The state with one set of the array, one entry and one port written. -/
def State.written (s : State) (n : SetNo) (y : ASet) (e : EntryNo) (x : Entry) (a : Agent) (p : Port) : State :=
  ((s.putSet n y).setEntry e x).setPort a p

section
variable (s : State) (n : SetNo) (y : ASet) (e : EntryNo) (x : Entry) (a : Agent) (p : Port)

theorem State.written_sets : (s.written n y e x a p).sets = (s.putSet n y).sets := rfl

theorem State.written_marks : (s.written n y e x a p).marks = s.marks := rfl

theorem State.written_work : (s.written n y e x a p).work = s.work := rfl

theorem State.written_aset_same (h : s.arrayLawful) : (s.written n y e x a p).aset n = y :=
  (State.aset_congr (s.written_sets n y e x a p) n).trans (State.putSet_aset_same h n y)

theorem State.written_aset_ne (h : s.arrayLawful) {k : SetNo} (hk : k ≠ n) : (s.written n y e x a p).aset k = s.aset k :=
  (State.aset_congr (s.written_sets n y e x a p) k).trans (State.putSet_aset_ne h n y hk)

theorem State.written_entry_same : (s.written n y e x a p).entry e = x := State.setEntry_entry_same (s.putSet n y) e x

theorem State.written_entry_ne {f : EntryNo} (h : f ≠ e) : (s.written n y e x a p).entry f = s.entry f :=
  State.setEntry_entry_ne (s.putSet n y) x fun hef => h hef.symm

theorem State.written_port_same : (s.written n y e x a p).port a = p := State.setPort_port_same ((s.putSet n y).setEntry e x) a p

theorem State.written_port_ne {c : Agent} (h : c ≠ a) : (s.written n y e x a p).port c = s.port c :=
  State.setPort_port_ne ((s.putSet n y).setEntry e x) p fun hac => h hac.symm

theorem State.written_setEntry (x' : Entry) : (s.written n y e x a p).setEntry e x' = s.written n y e x' a p := by
  unfold State.written
  rw [State.setPort_setEntry, State.setEntry_setEntry]

theorem State.written_setPort (p' : Port) : (s.written n y e x a p).setPort a p' = s.written n y e x a p' := by
  unfold State.written
  rw [State.setPort_setPort]

theorem State.written_undrained (h : s.undrained) (hp : p.drained = false) : (s.written n y e x a p).undrained :=
  State.undrained_setPort (s := (s.putSet n y).setEntry e x) h hp

theorem State.written_noHeadWaits (h : s.noHeadWaits) (hp : p.head = (s.port a).head) : (s.written n y e x a p).noHeadWaits :=
  State.noHeadWaits_sameHead (s := (s.putSet n y).setEntry e x) (p := p) h hp

theorem State.written_noneAwaiting {m : SetNo} (h : s.noneAwaiting m) (he : setOf (s.entry e).line = m) :
    (s.written n y e x a p).noneAwaiting m :=
  State.noneAwaiting_setEntry (s := s.putSet n y) h (State.not_awaiting h he) x

theorem State.written_memOp (f : EntryNo) : (s.written n y e x a p).memOp f = s.memOp f := State.memOp_congr rfl rfl f

theorem State.written_owingBuffer (l : Line) : (s.written n y e x a p).owingBuffer l = s.owingBuffer l :=
  State.owingBuffer_congr rfl l

theorem State.written_eq : s.written n y e x a p = { s with
    sets := (s.written n y e x a p).sets, ports := (s.written n y e x a p).ports
    entries := (s.written n y e x a p).entries } := rfl

end

end Sys2Proof.Machine
end

section
/-! SUPPORT. A claim granted with its message apart, and the memory write of an entry. -/

namespace Sys2Proof.Machine

/-- A claim granted at once, with this message sent. -/
def State.sent (s : State) (m : MemMsg) (i : MemTagNo) (c : MemClaim) : State :=
  ({ s with memSent := s.memSent ++ [m] } : State).setTag i (s.grantedTag i c)

theorem State.claimed_eq (s : State) (i : MemTagNo) (c : MemClaim) : s.claimed i c = s.sent (s.issueMsg i c) i c := rfl

section
variable (s : State) (m : MemMsg) (i : MemTagNo) (c : MemClaim)

theorem State.sent_setEntry (e : EntryNo) (x : Entry) : (s.sent m i c).setEntry e x = (s.setEntry e x).sent m i c := rfl

theorem State.sent_setPort (a : Agent) (p : Port) : (s.sent m i c).setPort a p = (s.setPort a p).sent m i c := rfl

theorem State.sent_due (l : List Task) : (s.sent m i c).due l = (s.due l).sent m i c := rfl

theorem State.sent_entry (e : EntryNo) : (s.sent m i c).entry e = s.entry e := rfl

theorem State.sent_port (a : Agent) : (s.sent m i c).port a = s.port a := rfl

theorem State.sent_tag_same : (s.sent m i c).tag i = s.grantedTag i c := State.setTag_tag_same _ i _

theorem State.sent_tag_ne {j : MemTagNo} (h : j ≠ i) : (s.sent m i c).tag j = s.tag j :=
  State.setTag_tag_ne { s with memSent := s.memSent ++ [m] } _ fun hij => h hij.symm

theorem State.sent_memOp {e : EntryNo} (h : s.memOp e = none) (hc : c.claimant = .entry e) :
    (s.sent m i c).memOp e = some c.write :=
  State.memOp_granted (s := { s with memSent := s.memSent ++ [m] }) h hc

end

/-- The memory write of an entry's buffer, claimed with a tag ready (R79, R142). -/
theorem State.claimWrite_ready {s : State} {e : EntryNo} {l : Line} {i : MemTagNo} (hactive : (s.entry e).phase ≠ .free)
    (hline : (s.entry e).line = l) (hwrote : (s.entry e).wrote = false) (hready : s.tagReady l i) : s.claimWrite e =
      (s.setEntry e { s.entry e with wrote := true }).sent (.write i ((s.tag i).use + 1) l (s.entry e).buffer) i
        { claimant := .entry e, write := true, line := l } := by
  subst hline
  let x : Entry := { s.entry e with wrote := true }
  let c : MemClaim := { claimant := .entry e, write := true, line := (s.entry e).line }
  have hxe : (s.setEntry e x).entry e = x := State.setEntry_entry_same s e x
  have hready' : (s.setEntry e x).tagReady c.line i = true := (State.tagReady_congr rfl rfl rfl _ _).trans hready
  have hmsg : (s.setEntry e x).issueMsg i c = .write i ((s.tag i).use + 1) (s.entry e).line (s.entry e).buffer := by
    unfold State.issueMsg
    rw [if_pos rfl]
    show MemMsg.write i ((s.tag i).use + 1) (s.entry e).line ((s.setEntry e x).entry e).buffer = _
    rw [hxe]
  unfold State.claimWrite
  dsimp only
  rw [hwrote, if_neg (by decide), State.modEntry_active hactive, hxe, State.claimMem_ready (c := c) hready', State.claimed_eq, hmsg]

/-- The step of an entry whose memory write is outstanding. -/
theorem State.advance_writing {s : State} {e : EntryNo} (hphase : (s.entry e).phase.inFlight = true)
    (hrebuild : (s.entry e).rebuild = false) (howed : (s.entry e).poisonOwed = false) (hstep : s.stepPlan e = s)
    (hmem : s.memOp e = some true) : s.advance e = s.setEntry e { s.entry e with phase := .writingMemory } := by
  rw [State.advance_plan hphase hrebuild howed, hstep, State.settlePhase_writing hphase hmem]

/-- Data of a holder, or of a writeback, enters the buffer of an entry that merges nothing (R53, R90). -/
theorem State.enterData_plain {s : State} {e : EntryNo} (hactive : (s.entry e).phase ≠ .free) (hmem : s.memOp e ≠ some true)
    (hkind : (s.entry e).kind ≠ .req .uncachedWrite) (hmask : (s.entry e).mask = 0) (d : LineData) (st : DataState) :
    s.enterData e d st = s.setEntry e { s.entry e with buffer := d, data := st } := by
  have hmerge : mergeData (s.entry e).mask (s.entry e).buffer d = d := by rw [hmask, mergeData_zero]
  unfold State.enterData
  rw [if_neg (by simpa using hmem), State.modEntry_active hactive, hmerge, if_neg (by simpa using hkind)]

end Sys2Proof.Machine
end

section
/-! UNPIN and the pin timer, settled. -/

namespace Sys2Proof.Machine

theorem State.handle_unpin {s : State} {a : Agent} {l : Line} {d : Option LineData} (htakes : s.takesHead a (.unpin l d)) :
    s.handle a .unpin = s.routeUnpin a 0 l d := State.handle_takesHead (k := .unpin) htakes rfl

theorem State.offerAck_placed {s : State} {a : Agent} (hon : (s.port a).state = .online) (hwait : (s.port a).waiters = [])
    (hroom : (s.port a).output.length < 16) (m : OutMsg) :
    s.offerAck a m = s.setPort a { s.port a with output := (s.port a).output ++ [m] } := by
  unfold State.offerAck
  rw [if_neg (by simp [Port.attached_iff.2 (.inl hon)]), if_pos (Port.hasPlace_of hwait hroom)]
  rfl

/-- An UNPIN without data of an idle line of a calm set is late (R124). -/
theorem State.handle_idleUnpin {s : State} {a : Agent} {l : Line} (htakes : s.takesHead a (.unpin l none))
    (hon : (s.port a).state = .online) (hwait : (s.port a).waiters = []) (hroom : (s.port a).output.length < 16)
    (hidle : s.busy l = none) (hcalm : s.calm (setOf l)) : s.handle a .unpin = (s.setPort a { s.port a with
      responses := (s.port a).responses.tail, output := (s.port a).output ++ [.unpinAck l true] }).push .admission := by
  obtain ⟨hsound, hlost, hfailed⟩ := State.calm_iff.1 hcalm
  obtain ⟨hrun, hatt⟩ := State.takesHead_running htakes
  rw [State.handle_unpin htakes]
  unfold State.routeUnpin
  rw [State.pinnedBy_idle hidle]
  dsimp only
  unfold State.lateUnpin
  dsimp only
  rw [hidle]
  dsimp only
  rw [State.claimLine_sound hsound, if_neg (by simp [hrun]), State.lineLost_calm hlost, if_neg (by decide),
    State.stripFailed_none hfailed, State.offerAck_placed hon hwait hroom,
    State.takeResponse_head (by rw [State.setPort_port_same]; simp [hon]), State.setPort_port_same, State.setPort_setPort]

/-- An entry whose line one agent holds pinned. -/
structure Entry.pinning (x : Entry) (a : Agent) (lb : Label) (l : Line) : Prop where
  kind : x.kind = .req .lockedRead
  origin : x.origin = some (a, lb)
  line : x.line = l
  phase : x.phase = .pinned
  reply : x.reply = .placed
  orphaned : x.orphaned = false
  pending : x.pending = Vector.replicate 6 none
  deferred : x.deferred = []
  recheck : x.recheck = false
  rebuild : x.rebuild = false
  owed : x.poisonOwed = false
  breaking : x.breaking = false
  saves : x.saves = false

theorem State.pinnedBy_of {s : State} {a : Agent} {lb : Label} {l : Line} {e : EntryNo} (hx : (s.entry e).pinning a lb l)
    (hbusy : s.busy l = some e) : s.pinnedBy l a = some e := by
  unfold State.pinnedBy
  rw [hbusy]
  dsimp only
  exact if_pos (by rw [hx.phase, Entry.isOf, hx.origin]; simp)

section
variable {s t : State} {a : Agent} {lb : Label} {l : Line} {e : EntryNo} {c : Option Rec} (hx : (s.entry e).pinning a lb l)
  (ht : t.entry e = (s.entry e).released c)
include hx ht

theorem State.stepPlan_released : t.stepPlan e = t :=
  State.stepPlan_replied (by rw [ht]; exact hx.reply) (by rw [ht]; exact hx.orphaned) (by rw [ht]; exact hx.saves)

/-- The entry of a pin that has ended without data completes, where nobody waits (R121, R123). -/
theorem State.works_released {k : List Task} (hmem : t.memOp e = none) (hrun : t.running = true)
    (howing : t.owingBuffer l = none) (hnone : t.noneAwaiting (setOf l)) (hheads : t.noHeadWaits) (hdry : t.undrained)
    (hidle : ∀ j ∈ k, (t.setEntry e (Entry.free (t.entry e).use)).idles j = true ∧ ∀ f a, j ≠ .notHeld f a)
    (hwork : t.work = []) : Works (k.length + 3) (t.due (.advance e :: k)) (t.setEntry e (Entry.free (t.entry e).use)) := by
  have hline : (t.entry e).line = l := by rw [ht]; exact hx.line
  have hfin : (t.entry e).finished := by
    rw [ht]
    exact { phase := rfl, pending := Entry.noPending_of hx.pending
            reply := by rw [show Entry.reply ((s.entry e).released c) = .placed from hx.reply]; decide
            breaking := hx.breaking, owed := hx.owed, rebuild := hx.rebuild, answered := .inr (.inl hx.reply)
            dependent := .inr (by rw [show Entry.kind ((s.entry e).released c) = _ from hx.kind]; decide)
            recheck := hx.recheck, deferred := hx.deferred }
  have hstep : ∀ j, (t.due j).stepPlan e = t.due j := fun j => State.stepPlan_released (t := t.due j) hx ht
  exact State.works_stepFrees (s := t) hfin.phase hfin.rebuild hfin.owed hrun (hstep k) hfin hstep hmem hrun
    (by rw [hline]; exact howing) (by rw [hline]; exact hnone) hheads hdry hidle hwork

end

section
variable {s : State} {a : Agent} {lb : Label} {l : Line} {e : EntryNo} (h : s.atRest) (hrun : s.running = true)
  (hheads : s.noHeadWaits) (hcalm : s.calm (setOf l)) (hnone : s.noneAwaiting (setOf l)) (hbusy : s.busy l = some e)
  (hx : (s.entry e).pinning a lb l) (hmem : s.memOp e = none) (howing : s.owingBuffer l = none)
  (hon : (s.port a).state = .online)

include h hrun hheads hnone hx hmem howing hon in
/-- With its record rewritten and its message placed, the entry of a pin that has ended completes. -/
theorem State.works_pinEnds (y : ASet) (c : Option Rec) {p : Port} (hstate : p.state = (s.port a).state)
    (hhead : p.head = (s.port a).head) {k : List Task} (hk : ∀ j ∈ k, j = .admission) :
    Works (k.length + 3) ((s.written (setOf l) y e ((s.entry e).released c) a p).due (.advance e :: k))
      (s.written (setOf l) y e (Entry.free (s.entry e).use) a p) := by
  have hte := s.written_entry_same (setOf l) y e ((s.entry e).released c) a p
  have hworks := State.works_released (s := s) (t := s.written (setOf l) y e ((s.entry e).released c) a p) (k := k) hx hte
    ((s.written_memOp _ _ _ _ _ _ e).trans hmem) hrun ((s.written_owingBuffer _ _ _ _ _ _ l).trans howing)
    (s.written_noneAwaiting _ _ _ _ _ _ hnone (by rw [hx.line])) (s.written_noHeadWaits _ _ _ _ _ _ hheads hhead)
    (s.written_undrained _ _ _ _ _ _ (State.atRest_undrained h) (Port.drained_state (by rw [hstate, hon]; decide)))
    (fun j hj => by
      rw [hk j hj, State.written_setEntry]
      exact ⟨State.idles_admission (s.written_noHeadWaits _ _ _ _ _ _ hheads hhead), by simp⟩)
    ((s.written_work _ _ _ _ _ _).trans (State.atRest_work h))
  rw [hte, State.written_setEntry] at hworks
  exact hworks

include hbusy hx in
/-- An UNPIN taken against its agent's pin. -/
theorem State.handle_pinnedUnpin {d : Option LineData} (htakes : s.takesHead a (.unpin l d)) :
    s.handle a .unpin = s.takeUnpin a 0 l d e := by
  rw [State.handle_unpin htakes]
  unfold State.routeUnpin
  rw [State.pinnedBy_of hx hbusy]

include hrun hcalm in
theorem State.takeUnpin_away : s.takeUnpin a 0 l none e =
    ((((s.clearPin l false).endPin e).offerAck a (.unpinAck l false)).push (.advance e)).takeResponse a 0 := by
  obtain ⟨hsound, -, -⟩ := State.calm_iff.1 hcalm
  unfold State.takeUnpin
  dsimp only
  rw [State.claimLine_sound hsound, if_neg (by simp [hrun])]

include hrun hcalm in
theorem State.takeUnpin_data (d : LineData) : s.takeUnpin a 0 l (some d) e =
    (s.returnPinned a l d e (.unpinAck l false)).takeResponse a 0 := by
  obtain ⟨hsound, -, -⟩ := State.calm_iff.1 hcalm
  unfold State.takeUnpin
  dsimp only
  rw [State.claimLine_sound hsound, if_neg (by simp [hrun])]

end

/-- Settles O27: a late UNPIN; then the pin ended by an UNPIN, by data, and by its timer. -/
theorem unpinAndPinExpiryEndThePin : Obligations.UnpinAndPinExpiryEndThePin := by
  refine ⟨fun a l s h hheads hon htakes hwait hroom hidle hcalm => ?_,
    fun a l e w label s h hrun hheads hlawful hcalm hnone hbusy hentry hmem howing hrec hon hwait hroom => ?_⟩
  · rw [exec_responseHandlerUnpin]
    exact State.event_push (k := .admission) (State.atRest_resetPin h)
      (State.handle_idleUnpin htakes hon hwait hroom hidle hcalm) (State.atRest_setPort h (Port.drained_state (by simp [hon])))
      (State.idles_admission (State.noHeadWaits_sameHead hheads rfl)) (by simp)
  · have harray := hlawful.1
    have hx : (s.entry e).pinning a label l := {
      kind := congrArg Entry.kind hentry, origin := congrArg Entry.origin hentry, line := congrArg Entry.line hentry
      phase := congrArg Entry.phase hentry, reply := congrArg Entry.reply hentry
      orphaned := congrArg Entry.orphaned hentry, pending := congrArg Entry.pending hentry
      deferred := congrArg Entry.deferred hentry, recheck := congrArg Entry.recheck hentry
      rebuild := congrArg Entry.rebuild hentry, owed := congrArg Entry.poisonOwed hentry
      breaking := congrArg Entry.breaking hentry, saves := congrArg Entry.saves hentry }
    let r : Rec := { state := .exclusive, holders := AgentSet.only a, pin := none }
    let y : Bool → ASet := fun touch => (s.aset (setOf l)).edited w r touch
    have hrest : ∀ touch x p, (∀ v, v ≠ w → ((s.written (setOf l) (y touch) e x a p).aset (setOf l)).ways[v] =
        (s.aset (setOf l)).ways[v]) ∧ (∀ n, n ≠ setOf l → (s.written (setOf l) (y touch) e x a p).aset n = s.aset n) ∧
        (∀ f, f ≠ e → (s.written (setOf l) (y touch) e x a p).entry f = s.entry f) ∧
        (∀ c, c ≠ a → (s.written (setOf l) (y touch) e x a p).port c = s.port c) := fun touch x p =>
      ⟨fun v hv => by rw [State.written_aset_same _ _ _ _ _ _ _ harray, ASet.edited_ways_ne _ r touch hv],
        fun n hn => s.written_aset_ne _ _ _ _ _ _ harray hn, fun f hf => s.written_entry_ne _ _ _ _ _ _ hf,
        fun c hc => s.written_port_ne _ _ _ _ _ _ hc⟩
    have hrecAt : ∀ touch x p, (s.written (setOf l) (y touch) e x a p).recAt (setOf l) w = r := fun touch x p =>
      (State.recAt_congr (s.written_sets _ _ _ _ _ _) _ _).trans (State.recAt_edited harray _ w r touch)
    intro rest
    refine ⟨fun htakes => ?_, fun d i htakes hwrote hmask hready => ?_, fun left htimer => ?_⟩
    · let p : Port := { s.port a with
        responses := (s.port a).responses.tail, output := (s.port a).output ++ [.unpinAck l false] }
      let t : State := s.written (setOf l) (y false) e ((s.entry e).released (some r)) a p
      let u : State := (s.putSet (setOf l) (y false)).setEntry e ((s.entry e).released (some r))
      have hend : (s.clearPin l false).endPin e = u := State.endPin_clearPin harray hbusy hrec false
      have hf : s.handle a .unpin = t.due [.advance e, .admission] := by
        rw [State.handle_pinnedUnpin hbusy hx htakes, State.takeUnpin_away hrun hcalm, hend,
          State.offerAck_placed (s := u) hon hwait hroom, State.takeResponse_head (by
            rw [State.push_port, State.setPort_port_same]; simp [show (u.port a).state = .online from hon]),
          State.push_port, State.setPort_port_same, State.push_eq_due, State.push_eq_due, State.due_setPort, State.setPort_setPort,
          show (u.setPort a _).work = [] from State.atRest_work (s := s) h]
        rfl
      have hworks := State.works_pinEnds h hrun hheads hnone hx hmem howing hon (y false) (some r) (p := p) rfl rfl
        (k := [.admission]) (by simp)
      rw [exec_responseHandlerUnpin]
      have haset := s.written_aset_same (setOf l) (y false) e (Entry.free (s.entry e).use) a p harray
      exact ⟨_, Works.event (State.atRest_resetPin h) (by rw [hf]; exact hworks)
        (by rw [hf]; exact s.written_undrained _ _ _ _ _ _ (State.atRest_undrained h) (Port.drained_state (by simp [p, hon]))),
        hrest false _ p, hrecAt false _ p, by rw [haset]; rfl, s.written_entry_same _ _ _ _ _ _, s.written_port_same _ _ _ _ _ _,
        s.written_eq _ _ _ _ _ _⟩
    · let x : Entry := { s.entry e with buffer := d, data := .fromWriteback }
      let x' : Entry := { x.released none with reserved := some w }
      let q : Port := { s.port a with holding := (s.port a).holding - 1 }
      let o : Port := { q with output := (s.port a).output ++ [.unpinAck l false] }
      let p : Port := { o with responses := (s.port a).responses.tail }
      let f : ASet := (s.aset (setOf l)).freed w
      let c : MemClaim := { claimant := .entry e, write := true, line := l }
      let m : MemMsg := .write i ((s.tag i).use + 1) l d
      let t : State := (s.written (setOf l) f e { x' with wrote := true } a p).sent m i c
      have hactive : (s.entry e).phase ≠ .free := by rw [hx.phase]; decide
      have hxe : (s.setEntry e x).entry e = x := State.setEntry_entry_same s e x
      have hdata : s.enterData e d .fromWriteback = s.setEntry e x :=
        State.enterData_plain hactive (by rw [hmem]; simp) (by rw [hx.kind]; decide) hmask d _
      have hend : ((s.setEntry e x).removeFrom l a false false).endPin e =
          (s.written (setOf l) f e x' a q).due [.wake (setOf l)] := by
        rw [State.endPin_remove (s := s.setEntry e x) harray (State.busy_setEntry hbusy hactive hx.line) hrec
          (by rw [hxe, Entry.keepsFreed, show x.kind = _ from hx.kind, show x.orphaned = false from hx.orphaned]; rfl)
          (by rw [State.setEntry_port, hon]; decide), hxe, State.setEntry_putSet, State.setEntry_setEntry,
          State.push_eq_due, State.setPort_work, State.setEntry_work, State.putSet_work, State.atRest_work h]
        rfl
      let k : List Task := [.wake (setOf l)]
      have hack : ((s.written (setOf l) f e x' a q).due k).offerAck a (.unpinAck l false) =
          (s.written (setOf l) f e x' a o).due k := by
        have hport : ((s.written (setOf l) f e x' a q).due k).port a = q := s.written_port_same _ _ _ _ _ _
        rw [State.offerAck_placed (by rw [hport]; exact hon) (by rw [hport]; exact hwait) (by rw [hport]; exact hroom), hport,
          State.due_setPort, State.written_setPort]
      have hwrite : ((s.written (setOf l) f e x' a o).due k).claimWrite e =
          ((s.written (setOf l) f e { x' with wrote := true } a o).sent m i c).due k := by
        have hentry' : ((s.written (setOf l) f e x' a o).due k).entry e = x' := s.written_entry_same (setOf l) f e x' a o
        have hready' : ((s.written (setOf l) f e x' a o).due k).tagReady l i = true :=
          (State.tagReady_congr (s := s) rfl rfl rfl l i).trans hready
        rw [State.claimWrite_ready (i := i) (by rw [hentry']; exact Phase.inFlight_active rfl) (by rw [hentry']; exact hx.line)
          (by rw [hentry']; exact hwrote) hready', hentry', State.due_setEntry, State.written_setEntry]
        rfl
      have hf : s.handle a .unpin = t.due [.wake (setOf l), .advance e, .admission] := by
        have hport : (((s.written (setOf l) f e { x' with wrote := true } a o).sent m i c).due (k ++ [.advance e])).port a = o :=
          s.written_port_same _ _ _ _ _ _
        rw [State.handle_pinnedUnpin hbusy hx htakes, State.takeUnpin_data hrun hcalm, State.returnPinned, hdata, hend, hack, hwrite, State.due_push, State.takeResponse_head (by rw [hport]; simp [o, q, hon]), hport, State.due_setPort,
          State.sent_setPort, State.written_setPort]
        rfl
      let y' : Entry := { x' with wrote := true, phase := .writingMemory }
      let z : State := (s.written (setOf l) f e y' a p).sent m i c
      have hte : t.entry e = { x' with wrote := true } := s.written_entry_same (setOf l) f e _ a p
      have htmem : t.memOp e = some true :=
        State.sent_memOp (s.written (setOf l) f e _ a p) m i c ((s.written_memOp _ _ _ _ _ _ e).trans hmem) rfl
      have hstep : ∀ j, (t.due j).runTask (.advance e) = z.due j := fun j => by
        rw [State.runTask_running (s := t.due j) hrun]
        dsimp only
        rw [State.advance_writing (s := t.due j) (by rw [State.due_entry, hte]; rfl) (by rw [State.due_entry, hte]; exact hx.rebuild)
          (by rw [State.due_entry, hte]; exact hx.owed) (State.stepPlan_replied (by rw [State.due_entry, hte]; exact hx.reply)
            (by rw [State.due_entry, hte]; exact hx.orphaned) (by rw [State.due_entry, hte]; exact hx.saves))
          ((State.memOp_congr rfl rfl e).trans htmem), State.due_entry, hte, State.due_setEntry, State.sent_setEntry,
          State.written_setEntry]
      have hdry : s.undrained := State.atRest_undrained h
      have htdry : t.undrained := s.written_undrained (setOf l) f e _ a p hdry (Port.drained_state (by simp [p, o, q, hon]))
      have hzdry : z.undrained := s.written_undrained (setOf l) f e y' a p hdry (Port.drained_state (by simp [p, o, q, hon]))
      have hzheads : z.noHeadWaits := s.written_noHeadWaits (setOf l) f e y' a p hheads rfl
      have htnone : t.noneAwaiting (setOf l) := s.written_noneAwaiting (setOf l) f e _ a p hnone (by rw [hx.line])
      have hzwork : z.work = [] := State.atRest_work (s := s) h
      have hworks : Works 3 (t.due [.wake (setOf l), .advance e, .admission]) z :=
        .pass (s := t.due [.wake (setOf l), .advance e, .admission]) rfl htnone (by simp) htdry
          (.step (hstep _) hzdry
            (.pass (s := z.due [.admission]) rfl (State.idles_admission hzheads) (by simp) hzdry (.ended hzwork)))
      obtain ⟨hl, -⟩ := State.lineRec_some hrec
      have hsets := s.written_sets (setOf l) f e y' a p
      have haset := s.written_aset_same (setOf l) f e y' a p harray
      rw [exec_responseHandlerUnpin]
      refine ⟨z, Works.event (State.atRest_resetPin h) (by rw [hf]; exact hworks) (by rw [hf]; exact htdry),
        ⟨fun v hv => ?_, fun n hn => s.written_aset_ne (setOf l) f e y' a p harray hn,
          fun g hg => s.written_entry_ne (setOf l) f e y' a p hg, fun g hg => s.written_port_ne (setOf l) f e y' a p hg⟩,
        (State.lookup_congr hsets rfl l).trans (State.lookup_freed harray hl), ?_,
        s.written_entry_same (setOf l) f e y' a p, s.written_port_same (setOf l) f e y' a p,
        State.sent_tag_same (s.written (setOf l) f e y' a p) m i c,
        fun j hj => State.sent_tag_ne (s.written (setOf l) f e y' a p) m i c hj, rfl⟩
      · exact (congrArg (fun g : ASet => g.ways[v]) haset).trans (ASet.freed_ways_ne _ hv)
      · exact congrArg (fun g : ASet => g.order.value) haset
    · let p : Port := { s.port a with output := (s.port a).output ++ [.pinBroken l] }
      let t : State := s.written (setOf l) (y true) e ((s.entry e).released (some r)) a p
      let u : State := (s.putSet (setOf l) (y true)).setEntry e ((s.entry e).released (some r))
      have hend : (s.clearPin l true).endPin e = u := State.endPin_clearPin harray hbusy hrec true
      have hue : u.entry e = (s.entry e).released (some r) := State.setEntry_entry_same (s.putSet (setOf l) (y true)) e _
      have hbroken : u.offerPinBroken e = t := by
        unfold State.offerPinBroken
        dsimp only
        rw [hue, show Entry.origin ((s.entry e).released (some r)) = some (a, label) from hx.origin]
        dsimp only
        rw [if_neg (by simp [Port.attached_iff.2 (.inl (show (u.port a).state = .online from hon))]),
          if_pos (Port.hasPlace_of (show (u.port a).waiters = [] from hwait) hroom),
          show Entry.line ((s.entry e).released (some r)) = l from hx.line]
        rfl
      have hf : s.pinExpires e = t.due [.advance e] := by
        unfold State.pinExpires
        dsimp only
        rw [if_neg (by simp [hrun, hx.phase, htimer]), State.claimEntry_calm (by rw [hx.line]; exact hcalm), if_neg (by simp [hrun]),
          hx.line, hend, hbroken, State.push_eq_due, show t.work = [] from State.atRest_work (s := s) h]
        rfl
      have hworks := State.works_pinEnds h hrun hheads hnone hx hmem howing hon (y true) (some r) (p := p) rfl rfl (k := []) (by simp)
      have haset := s.written_aset_same (setOf l) (y true) e (Entry.free (s.entry e).use) a p harray
      rw [exec_pinTimerExpiry]
      exact ⟨_, Works.event (State.atRest_resetPin h) (by rw [hf]; exact hworks)
        (by rw [hf]; exact s.written_undrained _ _ _ _ _ _ (State.atRest_undrained h) (Port.drained_state (by simp [p, hon]))),
        hrest true _ p, hrecAt true _ p, by rw [haset]; rfl, s.written_entry_same _ _ _ _ _ _, s.written_port_same _ _ _ _ _ _,
        s.written_eq _ _ _ _ _ _⟩

end Sys2Proof.Machine
end

section
/-! SUPPORT. A writeback absorbed by the busy line's entry. -/

namespace Sys2Proof.Machine

section
variable {s : State} {a : Agent} {l : Line} {d : LineData} {e : EntryNo} {w : WayNo}

/-- The WRITEBACK of the exclusive holder of a busy line that is not pinned is absorbed (R98). -/
theorem State.handle_absorb {p : Option Agent} (htakes : s.takesHead a (.writeback l d)) (hcalm : s.calm (setOf l))
    (hbusy : s.busy l = some e) (hphase : (s.entry e).phase ≠ .starting) (hpinned : (s.entry e).phase ≠ .pinned)
    (hrebuild : (s.entry e).rebuild = false)
    (hrec : s.lineRec l = some (w, { state := .exclusive, holders := AgentSet.only a, pin := p })) :
    s.handle a .writeback = s.absorbWb a 0 l d false e := by
  obtain ⟨hsound, hlost, -⟩ := State.calm_iff.1 hcalm
  obtain ⟨hrun, -⟩ := State.takesHead_running htakes
  rw [State.handle_takesHead (k := .writeback) htakes rfl]
  show s.routeWb a 0 l d false = _
  unfold State.routeWb
  rw [hbusy]
  dsimp only
  rw [if_neg (by simpa using hphase), hrebuild, if_neg (by decide), State.claimLine_sound hsound, if_neg (by simp [hrun]),
    State.lineLost_calm hlost, if_neg (by decide)]
  unfold State.busyWb
  rw [hrec]
  dsimp only
  rw [AgentSet.has_only, if_neg (by simp)]
  unfold State.pinnedBy
  rw [hbusy]
  dsimp only
  rw [if_neg (by simp [hpinned])]

/-- The data enters the buffer, the record is freed and its way kept, and the acknowledgement is placed (R98, R99). -/
theorem State.absorbed_ack {p : Option Agent} (h : s.atRest) (harray : s.arrayLawful) (hbusy : s.busy l = some e)
    (hmem : s.memOp e = none) (hkind : (s.entry e).kind ≠ .req .uncachedWrite) (hmask : (s.entry e).mask = 0)
    (hkeeps : (s.entry e).keepsFreed = true)
    (hrec : s.lineRec l = some (w, { state := .exclusive, holders := AgentSet.only a, pin := p }))
    (hon : (s.port a).state = .online) (hwait : (s.port a).waiters = []) (hroom : (s.port a).output.length < 16) :
    ((s.enterData e d .fromWriteback).removeFrom l a false false).offerAck a (.wbAck l) =
      (s.written (setOf l) ((s.aset (setOf l)).freed w) e
        { s.entry e with buffer := d, data := .fromWriteback, reserved := some w, copy := none } a
        { s.port a with output := (s.port a).output ++ [.wbAck l], holding := (s.port a).holding - 1 }).due [.wake (setOf l)] := by
  obtain ⟨hactive, hline⟩ := State.busy_some hbusy
  let x : Entry := { s.entry e with buffer := d, data := .fromWriteback }
  let q : Port := { s.port a with holding := (s.port a).holding - 1 }
  let u : State := (s.setEntry e x).putSet (setOf l) ((s.aset (setOf l)).freed w)
  have hu : u = (s.putSet (setOf l) ((s.aset (setOf l)).freed w)).setEntry e x := rfl
  have hxe : u.entry e = x := State.setEntry_entry_same s e x
  have hub : u.busy l = some e := (State.busy_congr (s := s.setEntry e x) rfl l).trans (State.busy_setEntry hbusy hactive hline)
  have hremove : (s.setEntry e x).removeFrom l a false false = (s.written (setOf l) ((s.aset (setOf l)).freed w) e
      { x with reserved := some w, copy := none } a q).due [.wake (setOf l)] := by
    rw [State.removeFrom_exclusive (s := s.setEntry e x) harray hrec (by rw [State.setEntry_port, hon]; decide),
      State.setEntry_aset, State.changeBusy_some (s := u) hub, hxe, if_pos (show x.keepsFreed = true from hkeeps), State.push_eq_due]
    unfold State.written
    rw [State.setPort_work, State.setEntry_work, show u.work = [] from State.atRest_work (s := s) h, hu, State.setEntry_setEntry]
    rfl
  have hport := s.written_port_same (setOf l) ((s.aset (setOf l)).freed w) e { x with reserved := some w, copy := none } a q
  rw [State.enterData_plain hactive (by rw [hmem]; simp) hkind hmask, hremove,
    State.offerAck_placed (by rw [State.due_port, hport]; exact hon) (by rw [State.due_port, hport]; exact hwait)
      (by rw [State.due_port, hport]; exact hroom), State.due_port, hport, State.due_setPort, State.written_setPort]

end

end Sys2Proof.Machine
end

section
/-! The writeback absorbed by a busy line's entry, settled. -/

namespace Sys2Proof.Machine

/-- A request for exclusive use with recalls pending gives no grant (R82). -/
theorem State.stepPlan_pendingOwn {s : State} {e : EntryNo} (hkind : (s.entry e).kind = .req .readOwn ∨ (s.entry e).kind = .req .lockedRead)
    (howed : (s.entry e).poisonOwed = false) (horphaned : (s.entry e).orphaned = false) (hsaves : (s.entry e).saves = false)
    (hpending : (s.entry e).noPending = false) : s.stepPlan e = s := by
  unfold State.stepPlan
  dsimp only
  cases horigin : (s.entry e).origin with
  | none => rcases hkind with hk | hk <;> rw [hk]
  | some al =>
    obtain ⟨b, lb⟩ := al
    have hstep : ∀ k, k = .readOwn ∨ k = .lockedRead → s.stepReq k e b = s := fun k hk => by
      unfold State.stepReq
      dsimp only
      rw [hsaves, if_neg (by decide), hpending]
      rcases hk with rfl | rfl <;> simp
    rcases hkind with hk | hk <;> rw [hk] <;> dsimp only <;> rw [howed, horphaned, if_neg (by decide), if_neg (by decide)]
    · exact hstep _ (.inl rfl)
    · exact hstep _ (.inr rfl)

/-- An entry with a recall pending and no memory operation waits for it. -/
theorem State.waits_recalling {s : State} {e : EntryNo} (hphase : (s.entry e).phase = .recalling) (hmem : s.memOp e = none)
    (hpending : (s.entry e).noPending = false) (hrebuild : (s.entry e).rebuild = false) (howed : (s.entry e).poisonOwed = false)
    (hstep : ∀ l, (s.due l).stepPlan e = s.due l) : s.waits e := by
  intro l
  have hfly : ((s.due l).entry e).phase.inFlight = true := by rw [State.due_entry, hphase]; rfl
  rw [State.advance_plan hfly hrebuild howed, hstep, State.settlePhase_recalling hfly ((State.memOp_congr rfl rfl e).trans hmem) hpending]
  exact State.setEntry_phase (s := s.due l) hphase

/-- Settles O28: READ-OWN and LOCKED-READ keep the data for their grant; RETIRE and SWEEP-RECALL write it. -/
theorem absorbedWritebacksAreKeptOrWritten : Obligations.AbsorbedWritebacksAreKeptOrWritten := by
  intro a l d e w s h hheads hlawful hon htakes hwait hroom hcalm hnone hbusy hentry hpending hmem hrec absorbed taken
  have harray := hlawful.1
  have hphase : (s.entry e).phase = .recalling := congrArg Entry.phase hentry
  have hmask : (s.entry e).mask = 0 := congrArg Entry.mask hentry
  have horphaned : (s.entry e).orphaned = false := congrArg Entry.orphaned hentry
  have hrebuild : (s.entry e).rebuild = false := congrArg Entry.rebuild hentry
  have howed : (s.entry e).poisonOwed = false := congrArg Entry.poisonOwed hentry
  have hsaves : (s.entry e).saves = false := congrArg Entry.saves hentry
  have hreply : (s.entry e).reply = .none := congrArg Entry.reply hentry
  have hrefused : (s.entry e).refused = false := congrArg Entry.refused hentry
  obtain ⟨hrun, -⟩ := State.takesHead_running htakes
  obtain ⟨hactive, hline⟩ := State.busy_some hbusy
  obtain ⟨hl, -⟩ := State.lineRec_some hrec
  let f : ASet := (s.aset (setOf l)).freed w
  let o : Port := { s.port a with output := (s.port a).output ++ [.wbAck l], holding := (s.port a).holding - 1 }
  let p : Port := { o with responses := (s.port a).responses.tail }
  have hroute := State.handle_absorb htakes hcalm hbusy (by rw [hphase]; decide) (by rw [hphase]; decide) hrebuild hrec
  have htaken : ∀ x, taken (s.written (setOf l) f e x a p) := fun x => by
    have hsets := s.written_sets (setOf l) f e x a p
    have haset := s.written_aset_same (setOf l) f e x a p harray
    refine ⟨(State.lookup_congr hsets rfl l).trans (State.lookup_freed harray hl), ?_, fun v hv => ?_,
      fun n hn => s.written_aset_ne (setOf l) f e x a p harray hn, fun g hg => s.written_entry_ne (setOf l) f e x a p hg,
      s.written_port_same (setOf l) f e x a p, fun c hc => s.written_port_ne (setOf l) f e x a p hc⟩
    · exact congrArg (fun g : ASet => g.order.value) haset
    · exact (congrArg (fun g : ASet => g.ways[v]) haset).trans (ASet.freed_ways_ne _ hv)
  have hdry : s.undrained := State.atRest_undrained h
  have hpdry : p.drained = false := Port.drained_state (by simp [p, o, hon])
  have habsorb : ∀ (u : State) (k : List Task), (s.entry e).kind ≠ .req .uncachedWrite → (s.entry e).keepsFreed = true →
      (u.port a) = o → (if absorbed.writesReturned then ((s.written (setOf l) f e absorbed a o).due [.wake (setOf l)]).claimWrite e
        else ((s.written (setOf l) f e absorbed a o).due [.wake (setOf l)]).saveUnheld e) = u.due k →
      s.handle a .writeback = (u.setPort a p).due (k ++ [.advance e] ++ [.admission]) := fun u k hne hkeeps hport hsave => by
    have hte : ((s.written (setOf l) f e absorbed a o).due [.wake (setOf l)]).entry e = absorbed :=
      s.written_entry_same (setOf l) f e absorbed a o
    rw [hroute]
    unfold State.absorbWb
    dsimp only
    rw [show ackMsg l false = .wbAck l from rfl, State.absorbed_ack h harray hbusy hmem hne hmask hkeeps hrec hon hwait hroom,
      hte, hsave, State.due_push, State.takeResponse_head (by rw [State.due_port, hport]; simp [o, hon]), State.due_port, hport]
    rfl
  rw [exec_responseHandlerWriteback]
  refine ⟨fun hkind => ?_, fun i hkind hready => ?_⟩
  · let t : State := s.written (setOf l) f e absorbed a p
    have hte : t.entry e = absorbed := s.written_entry_same (setOf l) f e absorbed a p
    have hkeeps : (s.entry e).keepsFreed = true := by
      rcases hkind with hk | hk <;> rw [Entry.keepsFreed, hk, horphaned] <;> rfl
    have hret : absorbed.writesReturned = false := by
      rcases hkind with hk | hk <;> rw [Entry.writesReturned, show absorbed.kind = _ from hk]
    have hsave : ((s.written (setOf l) f e absorbed a o).due [.wake (setOf l)]).saveUnheld e =
        (s.written (setOf l) f e absorbed a o).due [.wake (setOf l)] := by
      unfold State.saveUnheld
      dsimp only
      rw [State.due_entry, State.written_entry_same]
      exact if_neg (by rw [show absorbed.refused = false from hrefused, show absorbed.reply = .none from hreply]; decide)
    have hf : s.handle a .writeback = t.due [.wake (setOf l), .advance e, .admission] := by
      rw [habsorb (s.written (setOf l) f e absorbed a o) [.wake (setOf l)] (by rcases hkind with hk | hk <;> rw [hk] <;> decide) hkeeps
        (s.written_port_same (setOf l) f e absorbed a o) (by rw [if_neg (by rw [hret]; decide), hsave]), State.written_setPort]
      rfl
    have hnotall : absorbed.noPending = false := Entry.pending_of hpending
    have hwaits : t.waits e := State.waits_recalling (by rw [hte]; exact hphase) ((s.written_memOp _ _ _ _ _ _ e).trans hmem)
      (by rw [hte]; exact hnotall) (by rw [hte]; exact hrebuild) (by rw [hte]; exact howed)
      (fun k => State.stepPlan_pendingOwn (s := t.due k) (by rw [State.due_entry, hte]; exact hkind) (by rw [State.due_entry, hte]; exact howed)
        (by rw [State.due_entry, hte]; exact horphaned) (by rw [State.due_entry, hte]; exact hsaves)
        (by rw [State.due_entry, hte]; exact hnotall))
    have htdry : t.undrained := s.written_undrained (setOf l) f e absorbed a p hdry hpdry
    have htheads : t.noHeadWaits := s.written_noHeadWaits (setOf l) f e absorbed a p hheads rfl
    have htnone : t.noneAwaiting (setOf l) := s.written_noneAwaiting (setOf l) f e absorbed a p hnone (by rw [hline])
    have htwork : t.work = [] := State.atRest_work (s := s) h
    have hworks : Works 3 (t.due [.wake (setOf l), .advance e, .admission]) t :=
      .pass (s := t.due [.wake (setOf l), .advance e, .admission]) rfl htnone (by simp) htdry
        (.waits hwaits hrun htdry (.pass (s := t.due [.admission]) rfl (State.idles_admission htheads) (by simp) htdry (.ended htwork)))
    exact ⟨t, Works.event (State.atRest_resetPin h) (by rw [hf]; exact hworks) (by rw [hf]; exact htdry), htaken absorbed, hte, rfl⟩
  · let c : MemClaim := { claimant := .entry e, write := true, line := l }
    let m : MemMsg := .write i ((s.tag i).use + 1) l d
    let x : Entry := { absorbed with wrote := true }
    let y : Entry := { absorbed with phase := .writingMemory, wrote := true }
    let t : State := (s.written (setOf l) f e x a p).sent m i c
    let z : State := (s.written (setOf l) f e y a p).sent m i c
    have hkeeps : (s.entry e).keepsFreed = true := by
      rcases hkind with hk | hk <;> rw [Entry.keepsFreed, hk]
    have hret : absorbed.writesReturned = true := by
      rcases hkind with hk | hk <;> rw [Entry.writesReturned, show absorbed.kind = _ from hk]
    have hagent : absorbed.kind.isAgent = false := by
      rcases hkind with hk | hk <;> rw [show absorbed.kind = _ from hk] <;> rfl
    have hwrite : ((s.written (setOf l) f e absorbed a o).due [.wake (setOf l)]).claimWrite e =
        ((s.written (setOf l) f e x a o).sent m i c).due [.wake (setOf l)] := by
      have hentry' : ((s.written (setOf l) f e absorbed a o).due [.wake (setOf l)]).entry e = absorbed :=
        s.written_entry_same (setOf l) f e absorbed a o
      have hready' : ((s.written (setOf l) f e absorbed a o).due [.wake (setOf l)]).tagReady l i = true :=
        (State.tagReady_congr (s := s) rfl rfl rfl l i).trans hready
      rw [State.claimWrite_ready (l := l) (i := i) (by rw [hentry']; exact hactive) (by rw [hentry']; exact hline)
        (by rw [hentry']; exact congrArg Entry.wrote hentry) hready', hentry',
        State.due_setEntry, State.written_setEntry]
      rfl
    have hf : s.handle a .writeback = t.due [.wake (setOf l), .advance e, .admission] := by
      rw [habsorb ((s.written (setOf l) f e x a o).sent m i c) [.wake (setOf l)] (by rcases hkind with hk | hk <;> rw [hk] <;> decide)
        hkeeps (s.written_port_same (setOf l) f e x a o) (by rw [if_pos hret, hwrite]), State.sent_setPort, State.written_setPort]
      rfl
    have hte : t.entry e = x := s.written_entry_same (setOf l) f e x a p
    have htmem : t.memOp e = some true :=
      State.sent_memOp (s.written (setOf l) f e x a p) m i c ((s.written_memOp _ _ _ _ _ _ e).trans hmem) rfl
    have hstep : ∀ j, (t.due j).runTask (.advance e) = z.due j := fun j => by
      rw [State.runTask_running (s := t.due j) hrun]
      dsimp only
      rw [State.advance_writing (s := t.due j) (by rw [State.due_entry, hte, show x.phase = _ from hphase]; rfl)
        (by rw [State.due_entry, hte]; exact hrebuild) (by rw [State.due_entry, hte]; exact howed)
        (State.stepPlan_internal (by rw [State.due_entry, hte]; exact hagent))
        ((State.memOp_congr rfl rfl e).trans htmem), State.due_entry, hte, State.due_setEntry, State.sent_setEntry,
        State.written_setEntry]
    have htdry : t.undrained := s.written_undrained (setOf l) f e x a p hdry hpdry
    have hzdry : z.undrained := s.written_undrained (setOf l) f e y a p hdry hpdry
    have hzheads : z.noHeadWaits := s.written_noHeadWaits (setOf l) f e y a p hheads rfl
    have htnone : t.noneAwaiting (setOf l) := s.written_noneAwaiting (setOf l) f e x a p hnone (by rw [hline])
    have hzwork : z.work = [] := State.atRest_work (s := s) h
    have hworks : Works 3 (t.due [.wake (setOf l), .advance e, .admission]) z :=
      .pass (s := t.due [.wake (setOf l), .advance e, .admission]) rfl htnone (by simp) htdry
        (.step (hstep _) hzdry
          (.pass (s := z.due [.admission]) rfl (State.idles_admission hzheads) (by simp) hzdry (.ended hzwork)))
    exact ⟨z, Works.event (State.atRest_resetPin h) (by rw [hf]; exact hworks) (by rw [hf]; exact htdry), htaken y,
      s.written_entry_same (setOf l) f e y a p, State.sent_tag_same (s.written (setOf l) f e y a p) m i c,
      fun j hj => State.sent_tag_ne (s.written (setOf l) f e y a p) m i c hj, rfl⟩

end Sys2Proof.Machine
end

section
/-! SUPPORT. The deferred list: how a head joins it, and how a completing entry goes to its own head. -/

namespace Sys2Proof.Machine

/-! ### Memory replies and the tag they free (R141, R144) -/

theorem State.settleLineDebt_none {s : State} {l : Line} (h : s.owingBuffer l = none) : s.settleLineDebt l = s := by
  unfold State.settleLineDebt
  rw [h]

theorem State.owingBuffer_free {s : State} (h : ∀ b, (s.buffer b).state = .free) (l : Line) : s.owingBuffer l = none :=
  List.find?_eq_none.2 fun b _ => by simp [h b]

/-- The end of a write that calls for nothing else: the entry goes on (R141). -/
theorem State.writeGood_plain {s : State} {e : EntryNo} (howing : s.owingBuffer (s.entry e).line = none)
    (hrun : s.running = true) (hrebuild : (s.entry e).rebuild = false)
    (hkind : (s.entry e).kind = .req .readShared ∨ (s.entry e).kind = .req .uncachedRead ∨ (s.entry e).kind = .retire) :
    s.writeGood e = s.push (.advance e) := by
  unfold State.writeGood
  dsimp only
  rw [State.settleLineDebt_none howing, hrebuild, if_neg (by decide)]
  rcases hkind with hk | hk | hk <;> rw [hk] <;> exact if_pos hrun

/-- The tag that a reply frees is ready for the next claim, with no buffer in use. -/
theorem State.tagReady_freeTag {s : State} {i : MemTagNo} (hq : s.claimQueue = []) (hbefore : ∀ j, j < i → (s.tag j).op ≠ none)
    (hbuffers : ∀ b, (s.buffer b).state = .free) (l : Line) : (s.freeTag i).tagReady l i = true := by
  have hfind : memTags.find? (fun j => ((s.freeTag i).tag j).op == none) = some i := by
    refine (find?_eq_least (by decide) mem_memTags i).2 ⟨?_, fun j hj => ?_⟩
    · rw [State.freeTag, State.setTag_tag_same]; rfl
    · rw [State.freeTag, State.setTag_tag_ne s _ (Fin.ne_of_gt hj)]
      simpa [Option.isSome_iff_ne_none] using hbefore j hj
  unfold State.tagReady
  rw [hfind, State.owingBuffer_free (s := s.freeTag i) hbuffers, show (s.freeTag i).claimQueue = [] from hq]
  refine Bool.and_eq_true_iff.2 ⟨by simp, List.all_eq_true.2 fun b _ => ?_⟩
  rw [show (s.freeTag i).buffer b = s.buffer b from rfl, hbuffers b]
  rfl

/-! ### The lookup of a listed line (R51) -/

theorem State.lookupStep_found {s : State} {e : EntryNo} {w : WayNo} {r : Rec} (hrun : s.running = true)
    (hactive : (s.entry e).phase ≠ .free) (hcalm : s.calm (setOf (s.entry e).line))
    (hrec : s.lineRec (s.entry e).line = some (w, r)) :
    s.lookupStep e = (s.setEntry e { s.entry e with copy := some r }).plan e := by
  unfold State.lookupStep
  dsimp only
  rw [State.claimEntry_calm hcalm, if_neg (by simp [hrun]), State.lineLost_calm (State.calm_iff.1 hcalm).2.1,
    if_neg (by decide)]
  unfold State.takeCopy
  rw [hrec, State.modEntry_active hactive]
  rfl

/-- The plan of a READ-SHARED of a SHARED record: the data comes from memory (R71). -/
theorem State.plan_sharedRead {s : State} {e : EntryNo} {a : Agent} {lb : Label} {w : WayNo} {r : Rec}
    (hkind : (s.entry e).kind = .req .readShared) (horigin : (s.entry e).origin = some (a, lb))
    (horphaned : (s.entry e).orphaned = false) (hrec : s.lineRec (s.entry e).line = some (w, r)) (hr : r.state = .shared) :
    s.plan e = s.claimRead e := by
  unfold State.plan
  dsimp only
  rw [hkind, horigin]
  dsimp only
  rw [horphaned, if_neg (by simp)]
  unfold State.planReq
  rw [hrec]
  dsimp only
  rw [hr]
  rfl

/-! ### The hand-over (R58) -/

/-- An entry that has nothing left to do but to pass to its deferred requests. -/
def Entry.handsOver (x : Entry) : Prop := Entry.finished { x with deferred := [] }

theorem State.settlePhase_handsOver {s : State} {e : EntryNo} (hx : (s.entry e).handsOver) (hmem : s.memOp e = none) :
    s.settlePhase e = s.complete e := by
  rw [State.settlePhase_inFlight (show (s.entry e).phase.inFlight = true from hx.phase), hmem]
  dsimp only
  rw [show (s.entry e).noPending = true from hx.pending, show (s.entry e).breaking = false from hx.breaking,
    show (s.entry e).poisonOwed = false from hx.owed, show (s.entry e).rebuild = false from hx.rebuild, if_neg (by decide),
    if_neg (by simpa using show (s.entry e).reply ≠ .waiting from hx.reply), if_neg (by decide), if_pos]
  rcases (show (s.entry e).kind.isAgent = false ∨ (s.entry e).reply = .placed ∨ (s.entry e).orphaned = true from hx.answered)
    with h | h | h <;> simp [h]

/-- The head of the deferred list takes the entry over, and its STARTING is due. -/
theorem State.complete_handsOver {s : State} {e : EntryNo} {q : Request} {rest : List Request} (hx : (s.entry e).handsOver)
    (hkind : (s.entry e).kind ≠ .retire) (hdeferred : (s.entry e).deferred = q :: rest) (hrun : s.running = true)
    (howing : s.owingBuffer (s.entry e).line = none) : s.complete e =
      ((s.setEntry e (Entry.ofRequest q ((s.entry e).use + 1) rest)).push (.wake (setOf (s.entry e).line))).push (.start e) := by
  let y : Entry := { s.entry e with reserved := none }
  have hy : (s.setEntry e y).entry e = y := State.setEntry_entry_same s e y
  have howed : (s.setEntry e y).owedPoison e = s.setEntry e y := State.owedPoison_none (by rw [hy]; exact howing)
  have hy' : ((s.setEntry e y).push (.wake (setOf (s.entry e).line))).entry e = y := hy
  have hactive : (s.entry e).phase ≠ .free := Phase.inFlight_active (show (s.entry e).phase.inFlight = true from hx.phase)
  unfold State.complete
  dsimp only
  rw [if_neg (show ¬ ((s.entry e).kind == .retire) = true by simpa using hkind), if_neg (by simp [hrun]), State.modEntry_active hactive, howed,
    if_neg (by rw [State.setEntry_running, hrun]; decide), hy, State.recheckStep, hy',
    if_pos (by rw [show y.recheck = false from hx.recheck]; rfl), State.handOver, hy',
    show y.deferred = q :: rest from hdeferred]
  exact congrArg (fun t => State.push (State.push t _) _) (State.setEntry_setEntry s e y _)

/-- The step of an entry whose memory operation reads. -/
theorem State.advance_reading {s : State} {e : EntryNo} (hfly : (s.entry e).phase.inFlight = true)
    (hrebuild : (s.entry e).rebuild = false) (howed : (s.entry e).poisonOwed = false) (hstep : s.stepPlan e = s)
    (hmem : s.memOp e = some false) : s.advance e = s.setEntry e { s.entry e with phase := .readingMemory } := by
  rw [State.advance_plan hfly hrebuild howed, hstep, State.settlePhase_reading hfly hmem]

/-- The opening work of a READ-SHARED of a SHARED record, with no finding: its memory read is out (R51, R71). -/
theorem State.openReq_sharedRead {s : State} {e : EntryNo} {a : Agent} {lb : Label} {w : WayNo} {r : Rec} {i : MemTagNo}
    (hrun : s.running = true) (hactive : (s.entry e).phase ≠ .free) (hkind : (s.entry e).kind = .req .readShared)
    (horigin : (s.entry e).origin = some (a, lb)) (horphaned : (s.entry e).orphaned = false)
    (hpin : (s.entry e).pinCounted = false) (hregion : regionCheck s.settings .readShared a (s.entry e).line = none)
    (hcalm : s.calm (setOf (s.entry e).line)) (hrec : s.lineRec (s.entry e).line = some (w, r)) (hr : r.state = .shared)
    (hready : s.tagReady (s.entry e).line i = true) : s.openReq .readShared e a =
      (s.setEntry e { s.entry e with mayWrite := writeRight s.settings a (s.entry e).line, copy := some r }).claimed i
        { claimant := .entry e, write := false, line := (s.entry e).line } := by
  let x : Entry := { s.entry e with mayWrite := writeRight s.settings a (s.entry e).line }
  let y : Entry := { x with copy := some r }
  have hchecked : (s.entry e).checked .readShared (writeRight s.settings a (s.entry e).line) = x := by
    unfold Entry.checked
    rw [show (ReqKind.readShared == ReqKind.lockedRead) = false from rfl, ← hpin]
  have hx : (s.setEntry e x).entry e = x := State.setEntry_entry_same s e x
  have hy : (s.setEntry e y).entry e = y := State.setEntry_entry_same s e y
  rw [State.openReq_checked hactive hpin (by simp) hregion, hchecked,
    State.lookupStep_found (s := s.setEntry e x) (w := w) (r := r) hrun (by rw [hx]; exact hactive) (by rw [hx]; exact hcalm)
      (by rw [hx]; exact hrec), hx, State.setEntry_setEntry]
  rw [State.plan_sharedRead (s := s.setEntry e y) (w := w) (r := r) (by rw [hy]; exact hkind) (by rw [hy]; exact horigin)
    (by rw [hy]; exact horphaned) (by rw [hy]; exact hrec) hr]
  unfold State.claimRead
  rw [hy]
  exact State.claimMem_ready (c := { claimant := .entry e, write := false, line := (s.entry e).line }) hready

end Sys2Proof.Machine
end

section
/-! The deferred requests of an entry, settled. -/

namespace Sys2Proof.Machine

/-- A head on a line whose entry holds a place joins its deferred list (R54, R62). -/
theorem State.examine_defers {s : State} {a : Agent} {q : Request} {rest : List Request} {e : EntryNo}
    (hrun : s.running = true) (hon : (s.port a).state = .online) (hreq : (s.port a).requests = q :: rest)
    (hguard : (s.port a).guards q.line = false) (hbusy : s.busy q.line = some e)
    (hout : (s.entry e).outstanding q.agent = false) (hplace : (s.entry e).holdsPlace = true) :
    s.examine a = ((s.setPort a { s.port a with requests := rest, head := .fresh }).setEntry e
      { s.entry e with deferred := (s.entry e).deferred ++ [q] }, true) := by
  have htakes := State.atRest_takes hrun (.inl hon)
  obtain ⟨hactive, -⟩ := State.busy_some hbusy
  have hadm : s.admission a = .defer e := by
    unfold State.admission
    rw [hreq]
    simp [htakes, hon, hguard, hbusy, hout, hplace]
  unfold State.examine
  rw [hreq, hadm]
  dsimp only
  rw [State.deferHead, State.popRequest, State.modPort_eq, hreq, State.modEntry_active (by rw [State.setPort_entry]; exact hactive)]
  rfl

/-- A READ-SHARED that takes over the entry of a SHARED line, up to its memory read. -/
def Entry.sharedReader (q : Request) (use : UseNo) (rest : List Request) (right : Bool) (r : Rec) : Entry :=
  { Entry.ofRequest q use rest with mayWrite := right, copy := some r }

section
variable {s : State} {i : MemTagNo} {q : Request} {rest : List Request} {e : EntryNo} {w : WayNo} {r : Rec}

/-- The STARTING of a READ-SHARED that has taken an entry over. -/
theorem State.start_sharedRead {u : UseNo} (hrun : s.running = true) (hentry : s.entry e = Entry.ofRequest q u rest)
    (hkind : q.kind = .readShared) (hcalm : s.calm (setOf q.line)) (hrec : s.lineRec q.line = some (w, r))
    (hr : r.state = .shared) (hregion : regionCheck s.settings q.kind q.agent q.line = none)
    (hready : s.tagReady q.line i = true) :
    s.start e = (((s.setEntry e { Entry.sharedReader q u rest (writeRight s.settings q.agent q.line) r with
      phase := .recalling }).sent (.read i ((s.tag i).use + 1) q.line) i
        { claimant := .entry e, write := false, line := q.line }).push (.advance e)) := by
  have hopen := State.openReq_sharedRead (s := s) (e := e) (a := q.agent) (lb := q.label) (w := w) (r := r) (i := i) hrun
    (by rw [hentry]; exact Phase.noConfusion) (by rw [hentry, ← hkind]; rfl) (by rw [hentry]; rfl) (by rw [hentry]; rfl) (by rw [hentry]; rfl)
    (by rw [hentry, ← hkind]; exact hregion) (by rw [hentry]; exact hcalm) (by rw [hentry]; exact hrec) hr
    (by rw [hentry]; exact hready)
  rw [State.start_plain (k := .readShared) (a := q.agent) (l := q.label) (by rw [hentry]; rfl) (by rw [hentry, ← hkind]; rfl)
    (by rw [hentry]; rfl) hopen hrun (by rw [hentry, State.claimed_eq, State.sent_entry, State.setEntry_entry_same]; rfl)]
  rw [State.claimed_eq, State.sent_entry, State.setEntry_entry_same, State.sent_setEntry, State.setEntry_setEntry, hentry]
  rfl

theorem State.freeTag_use (s : State) (i : MemTagNo) : ((s.freeTag i).tag i).use = (s.tag i).use := by
  rw [State.freeTag, State.setTag_tag_same]

theorem State.setEntry_freeTag (s : State) (i : MemTagNo) (e : EntryNo) (x : Entry) :
    (s.freeTag i).setEntry e x = (s.setEntry e x).freeTag i := rfl

/-- A tag given again at once after its reply. -/
theorem State.sent_freeTag (s : State) (m : MemMsg) (i : MemTagNo) (c : MemClaim) : (s.freeTag i).sent m i c = s.sent m i c := by
  unfold State.sent State.grantedTag State.freeTag
  rw [State.setTag_tag_same]
  exact State.setTag_setTag (s := { s with memSent := s.memSent ++ [m] }) i _ _

/-- The work of an entry that completes and goes to a READ-SHARED on its deferred list, up to the read (R56, R58). -/
theorem State.works_handsOver {l : Line} (hx : (s.entry e).handsOver) (hline : (s.entry e).line = l)
    (hkind : (s.entry e).kind ≠ .retire) (hdeferred : (s.entry e).deferred = q :: rest) (hstep : ∀ k, (s.due k).stepPlan e = s.due k)
    (hmem : s.memOp e = none) (hrun : s.running = true) (hdry : s.undrained) (hwork : s.work = [])
    (hnone : s.noneAwaiting (setOf l)) (hqkind : q.kind = .readShared) (hqline : q.line = l)
    (hcalm : s.calm (setOf l)) (hrec : s.lineRec l = some (w, r)) (hr : r.state = .shared)
    (hregion : regionCheck s.settings q.kind q.agent l = none) (hready : s.tagReady l i = true) :
    Works 4 (s.due [.advance e]) ((s.setEntry e { Entry.sharedReader q ((s.entry e).use + 1) rest
        (writeRight s.settings q.agent l) r with phase := .readingMemory }).sent (.read i ((s.tag i).use + 1) l) i
      { claimant := .entry e, write := false, line := l }) := by
  let u : UseNo := (s.entry e).use + 1
  let c : MemClaim := { claimant := .entry e, write := false, line := l }
  let m : MemMsg := .read i ((s.tag i).use + 1) l
  let x : Entry := Entry.sharedReader q u rest (writeRight s.settings q.agent l) r
  let t : State := s.setEntry e (Entry.ofRequest q u rest)
  let y : State := (s.setEntry e { x with phase := .recalling }).sent m i c
  let z : State := (s.setEntry e { x with phase := .readingMemory }).sent m i c
  have howing : s.owingBuffer l = none := by
    obtain ⟨-, -, -, howing, -⟩ := State.tagReady_iff hready
    exact howing
  have hends : (s.due []).runTask (.advance e) = t.due [.wake (setOf l), .start e] := by
    rw [State.runTask_running (s := s.due []) hrun]
    dsimp only
    rw [State.advance_plan (s := s.due []) hx.phase hx.rebuild hx.owed, hstep,
      State.settlePhase_handsOver (s := s.due []) hx ((State.memOp_congr (s := s) (t := s.due []) rfl rfl e).trans hmem),
      State.complete_handsOver (s := s.due []) hx hkind hdeferred hrun (by rw [State.due_entry, hline]; exact howing),
      State.due_entry, hline]
    rfl
  have hte : t.entry e = Entry.ofRequest q u rest := State.setEntry_entry_same s e _
  have hye : y.entry e = { x with phase := .recalling } := State.setEntry_entry_same s e _
  have hstart : (t.due []).runTask (.start e) = y.due [.advance e] := by
    rw [State.runTask_running (s := t.due []) hrun]
    dsimp only
    rw [State.start_sharedRead (s := t.due []) (q := q) (rest := rest) (u := u) (i := i) (w := w) (r := r) hrun hte hqkind
      (by rw [hqline]; exact hcalm) (by rw [hqline]; exact hrec) hr (by rw [hqline]; exact hregion)
      (by rw [hqline]; exact hready), hqline, State.due_setEntry, State.setEntry_setEntry]
    rfl
  have hymem : y.memOp e = some false := State.sent_memOp (s.setEntry e _) m i c hmem rfl
  have hread : (y.due []).runTask (.advance e) = z.due [] := by
    rw [State.runTask_running (s := y.due []) hrun]
    dsimp only
    rw [State.advance_reading (s := y.due []) (by rw [State.due_entry, hye]; rfl) (by rw [State.due_entry, hye]; rfl)
      (by rw [State.due_entry, hye]; rfl)
      (State.stepPlan_dataless (k := .readShared) (by rw [State.due_entry, hye, ← hqkind]; rfl) (by decide)
        (by rw [State.due_entry, hye]; rfl) (by rw [State.due_entry, hye]; exact fun hsaves => absurd hsaves Bool.false_ne_true))
      ((State.memOp_congr rfl rfl e).trans hymem), State.due_entry, hye, State.due_setEntry, State.sent_setEntry,
      State.setEntry_setEntry]
  have hawait : t.noneAwaiting (setOf l) := State.noneAwaiting_setEntry hnone (State.not_awaiting hnone (by rw [hline])) _
  exact .step hends hdry (.pass (s := t.due [.wake (setOf l), .start e]) rfl hawait (by simp) hdry
    (.step hstart hdry (.step hread hdry (.ended (s := z) hwork))))

end

/-- Settles O15: the head waits on the list, and takes the entry over when its turn comes. -/
theorem deferredRequestsWaitAndAreHandedOver : Obligations.DeferredRequestsWaitAndAreHandedOver := by
  refine ⟨fun a q rest e s h hrun hon hreq hagent hhead hguard hbusy hout hplace hothers => ?_,
    fun i q rest e l w h left s hrest hrun hheads hlawful hop hbefore hothers hq hbuffers hentry hkind hqkind hcalm hnone hrec
      hregion => ?_⟩
  · let p : Port := { s.port a with requests := rest, head := .fresh }
    have hf : s.admissionExamine a =
        ((s.setPort a p).setEntry e { s.entry e with deferred := (s.entry e).deferred ++ [q] }).push .admission := by
      unfold State.admissionExamine
      rw [if_neg (by simpa using hhead),
        State.examine_defers hrun hon hreq hguard hbusy (by rw [hagent]; exact hout) hplace]
    have hidle : ((s.setPort a p).setEntry e { s.entry e with deferred := (s.entry e).deferred ++ [q] }).noHeadWaits :=
      State.noHeadWaits_congr (s := s.setPort a p) rfl (State.noHeadWaits_setPort hothers rfl)
    rw [exec_admissionExamine]
    exact State.event_push (State.atRest_resetPin h) hf
      (State.atRest_setPort (s := s.setEntry e _) h (Port.drained_state (by simp [hon]))) (State.idles_admission hidle) (by simp)
  · let v : State := s.freeTag i
    have hline : (s.entry e).line = l := congrArg Entry.line hentry
    have hdeferred : (s.entry e).deferred = q :: rest := congrArg Entry.deferred hentry
    have hreply : (s.entry e).reply = .placed := congrArg Entry.reply hentry
    have hnotretire : (s.entry e).kind ≠ .retire := by rcases hkind with hk | hk <;> rw [hk] <;> decide
    have hqline : q.line = l := by
      obtain ⟨-, hentries, -⟩ := hlawful
      obtain ⟨⟨-, hlines, -⟩, -⟩ := hentries e
      exact (hlines q (by rw [hdeferred]; exact List.mem_cons_self)).trans hline
    have hf : s.memDoneArrives (BitVec.ofNat 8 i.val) (s.tag i).use 0 = v.due [.advance e] := by
      have htaken : v.memDoneTaken { claimant := .entry e, write := true, line := l } 0 = v.push (.advance e) :=
        State.writeGood_plain (s := v) (State.owingBuffer_free (s := v) hbuffers _) hrun (congrArg Entry.rebuild hentry)
          (hkind.imp_right .inl)
      rw [State.memDoneArrives_taken hrun hop rfl rfl 0 (by rw [htaken]; exact hq), htaken, State.push_eq_due,
        show v.work = [] from State.atRest_work hrest]
      rfl
    have hfin : (v.entry e).handsOver :=
      { phase := (congrArg (fun x : Entry => x.phase.inFlight) hentry : (s.entry e).phase.inFlight = true)
        pending := Entry.noPending_of (congrArg Entry.pending hentry)
        reply := fun hwaiting : (s.entry e).reply = .waiting => by rw [hreply] at hwaiting; cases hwaiting
        breaking := congrArg Entry.breaking hentry
        owed := congrArg Entry.poisonOwed hentry
        rebuild := congrArg Entry.rebuild hentry
        answered := .inr (.inl hreply)
        dependent := .inr hnotretire
        recheck := congrArg Entry.recheck hentry
        deferred := rfl }
    have hdry : s.undrained := State.atRest_undrained hrest
    have hworks := State.works_handsOver (s := v) (i := i) (w := w) (r := { state := .shared, holders := h, pin := none }) hfin hline
      hnotretire hdeferred
      (fun k => State.stepPlan_replied (s := v.due k) hreply (congrArg Entry.orphaned hentry) (congrArg Entry.saves hentry))
      (State.memOp_freeTag hq hothers) hrun hdry (State.atRest_work (s := s) hrest) hnone hqkind hqline hcalm hrec rfl hregion
      (State.tagReady_freeTag hq hbefore hbuffers l)
    rw [exec_memDone, Works.event (State.atRest_resetPin hrest) (by rw [hf]; exact hworks) (by rw [hf]; exact hdry),
      State.setEntry_freeTag, State.sent_freeTag, State.freeTag_use]
    unfold Entry.sharedReader Entry.ofRequest
    rw [hqkind, hqline]
    rfl

end Sys2Proof.Machine
end

section
/-! SUPPORT. A way given to a member of an awaiting list: its memory read is out, and it leaves the list (R130, R131). -/

namespace Sys2Proof.Machine

/-- The state in which a member of the awaiting list has been given a way, the rest of the list being `left`. -/
def State.wayGiven (s : State) (left : List Awaiting) (d : EntryNo) (w : WayNo) (i : MemTagNo) : State :=
  (({ s with awaiting := left } : State).setEntry d { s.entry d with reserved := some w, phase := .readingMemory }).sent
    (.read i ((s.tag i).use + 1) (s.entry d).line) i { claimant := .entry d, write := false, line := (s.entry d).line }

section
variable {s : State} (left : List Awaiting) {d : EntryNo} (w : WayNo) (i : MemTagNo)

theorem State.wayGiven_entry_same : (s.wayGiven left d w i).entry d =
    { s.entry d with reserved := some w, phase := .readingMemory } :=
  State.setEntry_entry_same { s with awaiting := left } d _

theorem State.wayGiven_entry_ne {f : EntryNo} (h : f ≠ d) : (s.wayGiven left d w i).entry f = s.entry f :=
  State.setEntry_entry_ne { s with awaiting := left } _ fun hdf => h hdf.symm

theorem State.wayGiven_due (l : List Task) : (s.due l).wayGiven left d w i = (s.wayGiven left d w i).due l := rfl

theorem State.wayGiven_tag_same : (s.wayGiven left d w i).tag i =
    s.grantedTag i { claimant := .entry d, write := false, line := (s.entry d).line } := State.setTag_tag_same _ i _

theorem State.wayGiven_tag_ne {j : MemTagNo} (h : j ≠ i) : (s.wayGiven left d w i).tag j = s.tag j :=
  State.setTag_tag_ne _ _ fun hij => h hij.symm

/-- A member of the list with no data takes the way, and its read is issued. -/
theorem State.giveWay_reads {left : List Awaiting} {w : WayNo} {i : MemTagNo}
    (hleft : s.awaiting.filter (fun m => m.entry != d) = left) (hactive : (s.entry d).phase ≠ .free)
    (hdata : (s.entry d).data = .none) (hready : s.tagReady (s.entry d).line i = true) :
    s.giveWay d w = (s.wayGiven left d w i).push (.advance d) := by
  let x : Entry := { s.entry d with reserved := some w, phase := .readingMemory }
  let u : State := { s with awaiting := left }
  have hu : s.leaveAwaiting d = u := by unfold State.leaveAwaiting; rw [hleft]
  have hx : (u.setEntry d x).entry d = x := State.setEntry_entry_same u d x
  have hready' : (u.setEntry d x).tagReady x.line i = true := (State.tagReady_congr rfl rfl rfl _ _).trans hready
  have hgave : u.modEntry d (fun y => { y with reserved := some w, phase := .readingMemory }) = u.setEntry d x :=
    State.modEntry_active (s := u) hactive _
  unfold State.giveWay State.goOn
  rw [hu, hgave, if_pos (by rw [hx]; exact beq_iff_eq.2 hdata), State.claimRead, hx,
    State.claimMem_ready (c := { claimant := .entry d, write := false, line := x.line }) hready']
  rfl

/-- With its read out, the member waits for it. -/
theorem State.wayGiven_waits {k : ReqKind} (hkind : (s.entry d).kind = .req k) (hk : k ≠ .upgrade) (hmem : s.memOp d = none)
    (hdata : (s.entry d).data = .none) (hrebuild : (s.entry d).rebuild = false) (howed : (s.entry d).poisonOwed = false) :
    (s.wayGiven left d w i).waits d :=
  State.waits_reading (by rw [State.wayGiven_entry_same]; exact hkind) hk
    (State.sent_memOp (State.setEntry { s with awaiting := left } d _) _ i _ hmem rfl)
    (by rw [State.wayGiven_entry_same]) (by rw [State.wayGiven_entry_same]; exact hdata)
    (by rw [State.wayGiven_entry_same]; exact hrebuild) (by rw [State.wayGiven_entry_same]; exact howed)

/-- A search that finds a free way gives it. -/
theorem State.searchWay_gives {w : WayNo} (hsound : s.soundSet (setOf (s.entry d).line)) (hrun : s.running = true)
    (hfree : s.freeSearch (setOf (s.entry d).line) = some w) : s.searchWay d = s.giveWay d w := by
  unfold State.searchWay
  dsimp only
  rw [State.claimTags_sound hsound, if_neg (by simp [hrun]), hfree]

/-- The wake of a set whose one member waits with or without a claim, at a free way (R131). -/
theorem State.wakeSet_one {n : SetNo} {w : WayNo} {stand : Stand} (hsound : s.soundSet n) (hrun : s.running = true)
    (hawait : s.awaiting = [{ entry := d, stand := stand }]) (hline : setOf (s.entry d).line = n)
    (hstand : stand = .noClaim ∨ ∃ l v, stand = .claimWaiting l v) (hfree : s.freeSearch n = some w) :
    s.wakeSet n = s.giveWay d w := by
  have hmembers : s.members n = [d] := by
    unfold State.members
    rw [hawait, List.map_singleton, List.filter_cons_of_pos (by simp [hline])]
    rfl
  have hfind : s.awaiting.find? (fun m => m.entry == d) = some { entry := d, stand := stand } := by
    rw [hawait]; exact List.find?_cons_of_pos (by simp)
  unfold State.wakeSet
  rw [hmembers]
  show s.wakeMember d = _
  unfold State.wakeMember
  rw [hfind]
  rcases hstand with rfl | ⟨l, v, rfl⟩
  · exact State.searchWay_gives (by rw [hline]; exact hsound) hrun (by rw [hline]; exact hfree)
  · dsimp only
    rw [hline, State.claimTags_sound hsound, if_neg (by simp [hrun]), hfree]

end

/-- The free way search after a way's marks are cleared, where that way was disabled and nothing else was free (R127). -/
theorem State.freeSearch_enabled {s : State} (h : s.arrayLawful) {n : SetNo} {w : WayNo} (hdis : (s.mark n w).disable = true)
    (hres : s.isReserved n w = false) (hfull : s.freeSearch n = none) {m : Marks} (hm : m.disable = false) :
    (s.putMark n w m).freeSearch n = some w := by
  obtain ⟨hsets, hempty, -, hwf⟩ := h
  have hmark : ∀ v, (s.putMark n w m).mark n v = if w = v then m else s.mark n v := fun v => by
    rw [State.putMark_mark hwf]
    by_cases hv : w = v
    · rw [if_pos hv, if_pos ⟨rfl, hv⟩]
    · rw [if_neg hv, if_neg (fun hc => hv hc.2)]
  refine State.freeSearch_iff.2 ⟨State.available_iff.2 ⟨?_, ?_, hres⟩, fun v hv => ?_⟩
  · rw [hmark, if_pos rfl]; exact hm
  · have htag : (s.aset n).ways[w].tag = none := (Way.tag_lawful ((hsets n).1 w)).trans (hempty n w hdis)
    unfold State.wayTag
    rw [show (s.putMark n w m).aset n = s.aset n from rfl, htag, ite_self]
  · have hne : w ≠ v := Fin.ne_of_gt hv
    have hold : s.available n v = false := by simpa using List.find?_eq_none.1 hfull v (mem_ways v)
    have hwas : (s.putMark n w m).available n v = s.available n v := by
      unfold State.available State.wayTag State.enabled
      rw [hmark, if_neg hne]
      rfl
    rw [hwas, hold]

end Sys2Proof.Machine
end

section
/-! The ways that retirements and wakes give, settled. -/

namespace Sys2Proof.Machine

theorem findSome?_middle {α β : Type} {f : α → Option β} {before after : List α} {x : α} {y : β}
    (hbefore : ∀ z ∈ before, f z = none) (hx : f x = some y) : (before ++ x :: after).findSome? f = some y := by
  rw [List.findSome?_append, List.findSome?_eq_none_iff.2 hbefore, List.findSome?_cons, hx]
  rfl

/-- The RETIRE claim that is taken is the first on the list (R67). -/
theorem State.retireClaim_first {s : State} {d : EntryNo} {l : Line} {w : WayNo} {before after : List Awaiting}
    (hawait : s.awaiting = before ++ { entry := d, stand := .claimWaiting l w } :: after)
    (hbefore : ∀ m ∈ before, ∀ k v, m.stand ≠ .claimWaiting k v) : s.retireClaim = some (d, l, w) := by
  unfold State.retireClaim
  rw [hawait]
  refine findSome?_middle (fun m hm => ?_) rfl
  cases hstand : m.stand with
  | claimWaiting k v => exact absurd hstand (hbefore m hm k v)
  | noClaim => rfl
  | retireActive g => rfl

/-- A member of the awaiting list changes its stand. -/
theorem State.setStand_member {s : State} {d : EntryNo} {before after : List Awaiting} {m : Awaiting}
    (hawait : s.awaiting = before ++ m :: after) (hm : m.entry = d) (hothers : ∀ x ∈ before ++ after, x.entry ≠ d)
    (hphase : (s.entry d).phase = .awaitingWay) (st : Stand) :
    s.setStand d st = { s with awaiting := before ++ { m with stand := st } :: after } := by
  have hsame : ∀ k : List Awaiting, (∀ x ∈ k, x.entry ≠ d) →
      k.map (fun x => if x.entry == d then { x with stand := st } else x) = k := fun k hk => by
    conv_rhs => rw [← List.map_id k]
    exact List.map_congr_left fun x hx => if_neg (by simpa using hk x hx)
  have hany : s.awaiting.any (fun x => x.entry == d) = true := by
    rw [hawait]
    exact List.any_eq_true.2 ⟨m, by simp, by simp [hm]⟩
  unfold State.setStand
  dsimp only
  rw [hany, if_pos rfl, hawait, List.map_append, List.map_cons, if_pos (by simp [hm]),
    hsame before fun x hx => hothers x (List.mem_append_left _ hx), hsame after fun x hx => hothers x (List.mem_append_right _ hx)]
  exact State.modEntry_fixed (s := { s with awaiting := before ++ { m with stand := st } :: after })
    (by rw [← hphase]; rfl)

/-- An internal claim's row where a RETIRE claim waits on an idle line and no REBUILD claim does. -/
theorem State.grantInternal_retire {s : State} {e d : EntryNo} {l : Line} {w : WayNo} {before after : List Awaiting}
    (hrun : s.running = true) (hclaims : s.rebuildClaims = []) (hfree : s.freeEntry internalPool = some e)
    (hphase : (s.entry d).phase = .awaitingWay)
    (hawait : s.awaiting = before ++ { entry := d, stand := .claimWaiting l w } :: after)
    (hbefore : ∀ m ∈ before, ∀ k v, m.stand ≠ .claimWaiting k v) (hothers : ∀ m ∈ before ++ after, m.entry ≠ d)
    (hidle : s.busy l = none) : s.grantInternal = { s with
      entries := s.entries.set e { Entry.free ((s.entry e).use + 1) with
        kind := .retire, line := l, phase := .starting, dependent := some d, victim := some w }
      awaiting := before ++ { entry := d, stand := .retireActive e } :: after
      work := s.work ++ [.start e] ++ [.admission] } := by
  have hne : e ≠ d := fun hed => by
    have hefree := State.freeEntry_free hfree
    rw [hed, hphase] at hefree
    cases hefree
  have hrow : s.grantInternal = s.grantRetire e d l w := by
    unfold State.grantInternal
    rw [if_neg (by simp [hrun]), hfree, hclaims]
    dsimp only
    rw [State.retireClaim_first hawait hbefore]
  rw [hrow]
  unfold State.grantRetire
  rw [hidle, if_neg (by simp)]
  exact State.setStand_member (s := s.allocInternal e .retire l (some d) (some w)) (m := { entry := d, stand := .claimWaiting l w })
    hawait rfl hothers ((congrArg Entry.phase (State.setEntry_entry_ne s _ hne)).trans hphase) (.retireActive e)

/-- A completing RETIRE that holds a way gives it to its dependent and is FREE (R56, R136). -/
theorem State.complete_passes {s : State} {e d : EntryNo} {w : WayNo} {i : MemTagNo} {left : List Awaiting}
    (hactive : (s.entry e).phase ≠ .free) (hkind : (s.entry e).kind = .retire) (hdependent : (s.entry e).dependent = some d)
    (hreserved : (s.entry e).reserved = some w) (hrecheck : (s.entry e).recheck = false) (hdeferred : (s.entry e).deferred = [])
    (hrun : s.running = true) (howing : s.owingBuffer (s.entry e).line = none)
    (hwaits : (s.entry d).phase = .awaitingWay) (hne : e ≠ d) (hdata : (s.entry d).data = .none)
    (hleft : s.awaiting.filter (fun m => m.entry != d) = left) (hready : s.tagReady (s.entry d).line i = true) :
    s.complete e = ((((s.wayGiven left d w i).setEntry e (Entry.free (s.entry e).use)).push (.advance d)).push
      (.wake (setOf (s.entry e).line))).push .admission := by
  let x : Entry := { s.entry e with reserved := none }
  let u : State := s.setEntry e x
  have hu : u.entry d = s.entry d := State.setEntry_entry_ne s x hne
  have hue : u.entry e = x := State.setEntry_entry_same s e x
  have hswap : u.wayGiven left d w i = (s.wayGiven left d w i).setEntry e x := by
    unfold State.wayGiven
    rw [hu]
    exact congrArg (fun t => State.sent t _ i _) (State.setEntry_comm (s := { s with awaiting := left }) hne _ _)
  let v : State := ((s.wayGiven left d w i).setEntry e x).push (.advance d)
  have hve : v.entry e = x := State.setEntry_entry_same (s.wayGiven left d w i) e x
  have hpass : s.passWay e = v := by
    unfold State.passWay
    dsimp only
    rw [hdependent]
    dsimp only
    rw [if_neg (by simp [hwaits]), hreserved]
    dsimp only
    rw [State.modEntry_active hactive, State.giveWay_reads (s := u) (i := i) hleft (by rw [hu, hwaits]; decide)
      (by rw [hu]; exact hdata) (by rw [hu]; exact (State.tagReady_congr (s := s) rfl rfl rfl _ _).trans hready), hswap]
  have hkeep : v.modEntry e (fun y => { y with reserved := none }) = v := State.modEntry_fixed (by rw [hve])
  have howed : v.owedPoison e = v := State.owedPoison_none (by rw [hve]; exact howing)
  unfold State.complete
  dsimp only
  rw [hkind, if_pos (show (Kind.retire == Kind.retire) = true from rfl), hpass, if_neg (by rw [show v.running = true from hrun]; decide), hkeep, howed,
    if_neg (by rw [show v.running = true from hrun]; decide), State.recheckStep,
    show (v.push (.wake (setOf (v.entry e).line))).entry e = x from hve, if_pos (by rw [show x.recheck = false from hrecheck]; rfl),
    State.handOver, show (v.push (.wake (setOf (v.entry e).line))).entry e = x from hve, show x.deferred = [] from hdeferred, hve]
  exact congrArg (fun t => State.push (State.push (State.push t _) _) _) (State.setEntry_setEntry (s.wayGiven left d w i) e x _)

end Sys2Proof.Machine
end

section
/-! The ways that retirements and wakes give, settled. -/

namespace Sys2Proof.Machine

/-- The row of the RETIRE claim, with what remains to be done. -/
theorem exec_internalPoolGrant_retire {s : State} {e d : EntryNo} {l : Line} {w : WayNo} {before after : List Awaiting}
    (h : s.atRest) (hrun : s.running = true) (hclaims : s.rebuildClaims = []) (hfree : s.freeEntry internalPool = some e)
    (hphase : (s.entry d).phase = .awaitingWay)
    (hawait : s.awaiting = before ++ { entry := d, stand := .claimWaiting l w } :: after)
    (hbefore : ∀ m ∈ before, ∀ k v, m.stand ≠ .claimWaiting k v) (hothers : ∀ m ∈ before ++ after, m.entry ≠ d)
    (hidle : s.busy l = none) : exec .internalPoolGrant s = .next (State.finish { s with
      entries := s.entries.set e { Entry.free ((s.entry e).use + 1) with
        kind := .retire, line := l, phase := .starting, dependent := some d, victim := some w }
      awaiting := before ++ { entry := d, stand := .retireActive e } :: after
      work := [.start e, .admission] }) := by
  rw [exec_internalPoolGrant, State.event_eq (State.atRest_resetPin h),
    State.grantInternal_retire hrun hclaims hfree hphase hawait hbefore hothers hidle, State.atRest_work h]
  rfl

/-- A RETIRE whose write is done, with a way in hand for its dependent (R56, R136). -/
theorem exec_memDone_passes {s : State} {i : MemTagNo} {e d : EntryNo} {w : WayNo} {k : ReqKind} {o : TagOp}
    (h : s.atRest) (hrun : s.running = true) (hheads : s.noHeadWaits) (hop : (s.tag i).op = some o) (hissued : o.issued = true)
    (hclaim : o.claim = { claimant := .entry e, write := true, line := (s.entry e).line })
    (hbefore : ∀ j, j < i → (s.tag j).op ≠ none)
    (hothers : ∀ j o, j ≠ i → (s.tag j).op = some o → o.claim.claimant ≠ .entry e ∧ o.claim.claimant ≠ .entry d)
    (hq : s.claimQueue = []) (hbuffers : ∀ b, (s.buffer b).state = .free)
    (hx : Entry.finished { s.entry e with dependent := none }) (hkind : (s.entry e).kind = .retire)
    (hdependent : (s.entry e).dependent = some d) (hreserved : (s.entry e).reserved = some w)
    (hawait : s.awaiting = [{ entry := d, stand := .retireActive e }]) (hwaits : (s.entry d).phase = .awaitingWay)
    (hdata : (s.entry d).data = .none) (hdkind : (s.entry d).kind = .req k) (hk : k ≠ .upgrade)
    (hdrebuild : (s.entry d).rebuild = false) (hdowed : (s.entry d).poisonOwed = false) (hne : e ≠ d) :
    exec (.memDone (BitVec.ofNat 8 i.val) (s.tag i).use 0) s =
      .next ((s.wayGiven [] d w i).setEntry e (Entry.free (s.entry e).use)) := by
  obtain ⟨c, issued, left⟩ := o
  dsimp only at hissued hclaim
  subst hissued hclaim
  let v : State := s.freeTag i
  let t : State := (v.wayGiven [] d w i).setEntry e (Entry.free (s.entry e).use)
  have hf : s.memDoneArrives (BitVec.ofNat 8 i.val) (s.tag i).use 0 = v.due [.advance e] := by
    have htaken : v.memDoneTaken { claimant := .entry e, write := true, line := (s.entry e).line } 0 = v.push (.advance e) :=
      State.writeGood_plain (s := v) (State.owingBuffer_free (s := v) hbuffers _) hrun hx.rebuild (.inr (.inr hkind))
    rw [State.memDoneArrives_taken hrun hop rfl rfl 0 (by rw [htaken]; exact hq), htaken, State.push_eq_due,
      show v.work = [] from State.atRest_work h]
    rfl
  have hready : v.tagReady (s.entry d).line i = true := State.tagReady_freeTag hq hbefore hbuffers _
  have hfly : (s.entry e).phase.inFlight = true := hx.phase
  have hmem : v.memOp e = none := State.memOp_freeTag hq fun j p hj hp => by
    obtain ⟨hpe, -⟩ := hothers j p hj hp
    exact hpe
  have hdmem : v.memOp d = none := State.memOp_freeTag hq fun j p hj hp => by
    obtain ⟨-, hpd⟩ := hothers j p hj hp
    exact hpd
  have hsettle : (v.due []).settlePhase e = (v.due []).complete e := by
    rw [State.settlePhase_inFlight (s := v.due []) hfly, (State.memOp_congr (s := v) (t := v.due []) rfl rfl e).trans hmem]
    dsimp only
    rw [State.due_entry, show v.entry e = s.entry e from rfl, show (s.entry e).noPending = true from hx.pending,
      show (s.entry e).breaking = false from hx.breaking, show (s.entry e).poisonOwed = false from hx.owed,
      show (s.entry e).rebuild = false from hx.rebuild, hkind, if_neg (by decide),
      if_neg (by simpa using show (s.entry e).reply ≠ .waiting from hx.reply), if_neg (by decide), if_pos (by rfl)]
  have hstep : (v.due []).runTask (.advance e) = t.due [.advance d, .wake (setOf (s.entry e).line), .admission] := by
    rw [State.runTask_running (s := v.due []) hrun]
    dsimp only
    rw [State.advance_plan (s := v.due []) hfly hx.rebuild hx.owed,
      State.stepPlan_internal (s := v.due []) (by rw [State.due_entry, show v.entry e = s.entry e from rfl, hkind]; rfl), hsettle,
      State.complete_passes (s := v.due []) (left := []) (i := i) (Phase.inFlight_active hfly) hkind hdependent hreserved hx.recheck hx.deferred
        hrun (State.owingBuffer_free (s := v.due []) hbuffers _) hwaits hne hdata
        (by rw [State.due_awaiting, show v.awaiting = _ from hawait, List.filter_cons_of_neg (by simp)]; rfl)
        ((State.tagReady_congr (s := v) rfl rfl rfl _ _).trans hready)]
    rfl
  have hdry : s.undrained := State.atRest_undrained h
  have htd : t.entry d = (v.wayGiven [] d w i).entry d := State.setEntry_entry_ne _ _ hne
  have hgiven := State.wayGiven_waits (s := v) [] w i hdkind hk hdmem hdata hdrebuild hdowed
  have htmem : t.memOp d = some false :=
    State.sent_memOp (State.setEntry { v with awaiting := [] } d _) _ i _ hdmem rfl
  have hentryd := State.wayGiven_entry_same (s := v) (d := d) [] w i
  have hwait : t.waits d := State.waits_reading (by rw [htd, hentryd]; exact hdkind) hk htmem (by rw [htd, hentryd])
    (by rw [htd, hentryd]; exact hdata) (by rw [htd, hentryd]; exact hdrebuild) (by rw [htd, hentryd]; exact hdowed)
  have htrun : t.running = true := hrun
  have htdry : t.undrained := State.undrained_congr (s := s) rfl hdry
  have htnone : t.noneAwaiting (setOf (s.entry e).line) := State.noneAwaiting_empty (s := t) rfl _
  have htheads : t.noHeadWaits := State.noHeadWaits_congr (s := s) rfl hheads
  have htwork : t.work = [] := State.atRest_work (s := s) h
  have hworks : Works 4 (v.due [.advance e]) t :=
    .step hstep htdry (.waits hwait htrun htdry (.pass (s := t.due [.wake (setOf (s.entry e).line), .admission]) rfl
      htnone (by simp) htdry (.pass (s := t.due [.admission]) rfl (State.idles_admission htheads) (by simp) htdry (.ended htwork))))
  rw [exec_memDone, Works.event (State.atRest_resetPin h) (by rw [hf]; exact hworks) (by rw [hf]; exact hdry)]
  have hview : v.wayGiven [] d w i = s.wayGiven [] d w i := by
    unfold State.wayGiven
    rw [State.freeTag_use]
    exact State.sent_freeTag (State.setEntry { s with awaiting := [] } d _) _ i _
  rw [show t = (v.wayGiven [] d w i).setEntry e (Entry.free (s.entry e).use) from rfl, hview]

/-- A way enabled with one member waiting for it (R131, R194). -/
theorem exec_wayEnable_given {set : BitVec 16} {way : Byte} {n : SetNo} {w : WayNo} {d : EntryNo} {stand : Stand}
    {i : MemTagNo} {k : ReqKind} {s : State} (h : s.frameReady) (hrun : s.running = true) (hset : set.toNat = n.toNat)
    (hway : way.toNat = w.val) (hsound : s.soundSet n) (harray : s.arrayLawful) (hdis : (s.mark n w).disable = true)
    (hres : s.isReserved n w = false) (hfull : s.freeSearch n = none) (hawait : s.awaiting = [{ entry := d, stand := stand }])
    (hstand : stand = .noClaim ∨ ∃ l v, stand = .claimWaiting l v) (hline : setOf (s.entry d).line = n)
    (hphase : (s.entry d).phase = .awaitingWay) (hdata : (s.entry d).data = .none) (hkind : (s.entry d).kind = .req k)
    (hk : k ≠ .upgrade) (hrebuild : (s.entry d).rebuild = false) (howed : (s.entry d).poisonOwed = false)
    (hmem : s.memOp d = none) (hready : s.tagReady (s.entry d).line i = true) :
    exec (.wayEnable set way) s = .next (State.answered
      ((s.putMark n w { s.mark n w with strike := false, disable := false }).wayGiven [] d w i)
      .wayEnable { status := .ok, data := [] }) := by
  let m : Marks := { s.mark n w with strike := false, disable := false }
  let v : State := s.putMark n w m
  let t : State := v.wayGiven [] d w i
  have hrest := State.frameReady_atRest h
  have hdry : s.undrained := State.atRest_undrained hrest
  have hfree : s.wayTag n w = none := by
    unfold State.wayTag State.enabled
    rw [hdis]
    exact if_neg (by decide)
  have hf : s.wayEnable set way = (v.due [.wake n], .only .ok) := by
    rw [State.wayEnable_sound hrun hset hway hsound, if_neg (by simp [hfree, hres])]
    unfold State.clearMarks
    rw [if_pos (by simp [hdis]), State.push_eq_due, State.putMark_work, State.atRest_work hrest]
    rfl
  have hwake : (v.due []).runTask (.wake n) = t.due [.advance d] := by
    rw [State.runTask_running (s := v.due []) hrun]
    dsimp only
    rw [State.wakeSet_one (s := v.due []) (w := w) hsound hrun hawait hline hstand
        ((State.freeSearch_congr (s := v) rfl rfl fun _ => rfl).trans (State.freeSearch_enabled harray hdis hres hfull rfl)),
      State.giveWay_reads (s := v.due []) (left := []) (i := i)
        (by rw [State.due_awaiting, show v.awaiting = _ from hawait, List.filter_cons_of_neg (by simp)]; rfl)
        (by rw [State.due_entry, show (v.entry d).phase = _ from hphase]; decide) hdata
        ((State.tagReady_congr (s := s) rfl rfl rfl _ _).trans hready)]
    rfl
  have hwait : t.waits d := State.wayGiven_waits (s := v) [] w i hkind hk ((State.memOp_congr (s := s) rfl rfl d).trans hmem)
    hdata hrebuild howed
  have hworks : Works 2 (v.due [.wake n]) t :=
    .step hwake hdry (.waits hwait hrun hdry (.ended (s := t) (State.atRest_work (s := s) hrest)))
  rw [exec_wayEnable]
  exact State.frame_command_works h hf hdry hworks

/-- Settles O21: the first RETIRE claim is served, and the member takes the way that a wake or a RETIRE gives. -/
theorem retirementsAndWakesGiveAWay : Obligations.RetirementsAndWakesGiveAWay := by
  refine ⟨fun e d l w before after s h hrun hclaims hfree hphase hawait hbefore hothers hidle =>
      exec_internalPoolGrant_retire h hrun hclaims hfree hphase hawait hbefore hothers hidle,
    fun set way n w d stand i k s h hrun hset hway hsound harray hdis hres hfull hawait hstand hline hentry hk hmem hready => ?_,
    fun i e d w v k data left s h hrun hheads hop hbefore hothers hq hbuffers hx hawait hline hentry hk => ?_⟩
  · have hkind : (s.entry d).kind = .req k := congrArg Entry.kind hentry
    let m : Marks := { s.mark n w with strike := false, disable := false }
    let u : State := s.putMark n w m
    have hview := fun j v => State.putMark_mark harray.2.2.2 n j w v m
    refine ⟨_, exec_wayEnable_given h hrun hset hway hsound harray hdis hres hfull hawait hstand hline
      (congrArg Entry.phase hentry) (congrArg Entry.data hentry) hkind (by rcases hk with rfl | rfl | rfl <;> decide)
      (congrArg Entry.rebuild hentry) (congrArg Entry.poisonOwed hentry) hmem hready, ?_, fun j v hne => ?_,
      State.wayGiven_entry_same (s := u) [] w i, fun f hf => State.wayGiven_entry_ne (s := u) [] w i hf,
      State.wayGiven_tag_same (s := u) [] w i, fun j hj => State.wayGiven_tag_ne (s := u) [] w i hj, rfl⟩
    · exact (hview n w).trans (if_pos ⟨rfl, rfl⟩)
    · refine (hview j v).trans (if_neg ?_)
      rintro ⟨rfl, rfl⟩
      exact hne rfl
  · have hkind : (s.entry d).kind = .req k := congrArg Entry.kind hentry
    have hphase : (s.entry d).phase = .awaitingWay := congrArg Entry.phase hentry
    have hephase : (s.entry e).phase = .writingMemory := congrArg Entry.phase hx
    have hne : e ≠ d := fun hed => by
      rw [hed, hphase] at hephase
      cases hephase
    have hfin : Entry.finished { s.entry e with dependent := none } :=
      { phase := (congrArg (fun x : Entry => x.phase.inFlight) hx : (s.entry e).phase.inFlight = true)
        pending := Entry.noPending_of (x := s.entry e) (congrArg Entry.pending hx)
        reply := fun hwaiting : (s.entry e).reply = .waiting => by
          have hreply : (s.entry e).reply = .none := congrArg Entry.reply hx
          rw [hreply] at hwaiting
          cases hwaiting
        breaking := congrArg Entry.breaking hx
        owed := congrArg Entry.poisonOwed hx
        rebuild := congrArg Entry.rebuild hx
        answered := .inl (congrArg (fun x : Entry => x.kind.isAgent) hx : (s.entry e).kind.isAgent = false)
        dependent := .inl rfl
        recheck := congrArg Entry.recheck hx
        deferred := congrArg Entry.deferred hx }
    have hexec := exec_memDone_passes h hrun hheads hop rfl rfl hbefore hothers hq hbuffers hfin (congrArg Entry.kind hx)
      (congrArg Entry.dependent hx) (congrArg Entry.reserved hx) hawait hphase (congrArg Entry.data hentry) hkind
      (by rcases hk with rfl | rfl | rfl <;> decide) (congrArg Entry.rebuild hentry) (congrArg Entry.poisonOwed hentry) hne
    let u : State := s.wayGiven [] d w i
    refine ⟨_, hexec, State.setEntry_entry_same u e _, ?_, fun f hfe hfd => ?_, State.wayGiven_tag_same (s := s) [] w i,
      fun j hj => State.wayGiven_tag_ne (s := s) [] w i hj, rfl⟩
    · exact (State.setEntry_entry_ne u _ hne).trans (State.wayGiven_entry_same (s := s) [] w i)
    · exact (State.setEntry_entry_ne u _ fun hef => hfe hef.symm).trans (State.wayGiven_entry_ne (s := s) [] w i hfd)

end Sys2Proof.Machine
end

section
/-! SUPPORT. Recalls placed at ports that are ready, and holding counts that fall, for a list of agents at a time. -/

namespace Sys2Proof.Machine

/-! ### Recalls (R38, R75) -/

theorem Port.ready_iff {p : Port} : p.ready = true ↔ p.attached = true ∧ p.hasPlace = true := by
  rw [Port.ready, Bool.and_eq_true]

/-- A recall at a port that is ready: the message, the recall's record, and the mark on the entry. -/
theorem State.addRecall_ready {s : State} {k : RecallKind} {e : EntryNo} {a : Agent} (hactive : (s.entry e).phase ≠ .free)
    (hready : (s.port a).ready = true) : s.addRecall k e a = (s.setEntry e { s.entry e with
      pending := (s.entry e).pending.set a (some { kind := k, placed := true }) }).setPort a
        (s.recalled a (s.entry e).line k e (s.entry e).use) := by
  obtain ⟨hattached, hplace⟩ := Port.ready_iff.1 hready
  let x : Entry := { s.entry e with pending := (s.entry e).pending.set a (some { kind := k, placed := false }) }
  let u : State := s.setEntry e x
  have hu : u.entry e = x := State.setEntry_entry_same s e x
  unfold State.addRecall
  dsimp only
  rw [State.modEntry_active hactive, State.setEntry_port, if_pos hattached, if_pos hplace]
  unfold State.placeRecall State.place
  dsimp only
  rw [State.modPort_eq, State.modPort_eq, State.setPort_port_same, State.setPort_setPort,
    State.modEntry_active (by rw [State.setPort_entry]; exact (show (u.entry e).phase ≠ .free by rw [hu]; exact hactive)),
    State.setPort_entry, hu]
  have hpending : (x.pending.set a (x.pending[a].map fun r => { r with placed := true })) =
      (s.entry e).pending.set a (some { kind := k, placed := true }) := by
    show ((s.entry e).pending.set a _).set a _ = _
    rw [show x.pending[a] = some { kind := k, placed := false } from Vector.getElem_set_self _, Vector.set_set]
    rfl
  rw [hpending]
  exact congrArg (fun t => State.setPort t a _) (State.setEntry_setEntry s e x _)

/-- What the recalls of a list of agents change: their ports, and the marks on the entry. -/
structure State.Asks (s t : State) (e : EntryNo) (ps : List (Agent × RecallKind)) : Prop where
  port_asked : ∀ c k, (c, k) ∈ ps → t.port c = s.recalled c (s.entry e).line k e (s.entry e).use
  port_other : ∀ c, (∀ k, (c, k) ∉ ps) → t.port c = s.port c
  pending_asked : ∀ c k, (c, k) ∈ ps → (t.entry e).pending[c] = some { kind := k, placed := true }
  pending_other : ∀ c, (∀ k, (c, k) ∉ ps) → (t.entry e).pending[c] = (s.entry e).pending[c]
  entry : t.entry e = { s.entry e with pending := (t.entry e).pending }
  others : ∀ f, f ≠ e → t.entry f = s.entry f
  rest : t = { s with ports := t.ports, entries := t.entries }

theorem State.asks_recalls {ps : List (Agent × RecallKind)} {s : State} {e : EntryNo} (hactive : (s.entry e).phase ≠ .free)
    (hnodup : (ps.map Prod.fst).Nodup) (hready : ∀ c k, (c, k) ∈ ps → (s.port c).ready = true) :
    s.Asks (ps.foldl (fun s p => s.addRecall p.2 e p.1) s) e ps := by
  induction ps generalizing s with
  | nil => exact ⟨by simp, by simp, by simp, by simp, rfl, by simp, rfl⟩
  | cons p ps ih =>
    obtain ⟨a, k⟩ := p
    obtain ⟨hout, hnodup'⟩ := List.nodup_cons.1 (show (a :: ps.map Prod.fst).Nodup from hnodup)
    have hne : ∀ c j, (c, j) ∈ ps → a ≠ c := fun c j hc hac =>
      hout (by rw [hac]; exact List.mem_map.2 ⟨(c, j), hc, rfl⟩)
    let x : Entry := { s.entry e with pending := (s.entry e).pending.set a (some { kind := k, placed := true }) }
    let u : State := (s.setEntry e x).setPort a (s.recalled a (s.entry e).line k e (s.entry e).use)
    have hu : s.addRecall k e a = u := State.addRecall_ready hactive (hready a k List.mem_cons_self)
    have hue : u.entry e = x := State.setEntry_entry_same s e x
    have huport : ∀ c, a ≠ c → u.port c = s.port c := fun c hc => State.setPort_port_ne (s.setEntry e x) _ hc
    obtain ⟨hasked, hother, hmark, hunmark, hentry, hothers, hrest⟩ := ih (s := u) (by rw [hue]; exact hactive) hnodup'
      fun c j hc => by
        rw [huport c (hne c j hc)]
        exact hready c j (List.mem_cons_of_mem _ hc)
    rw [List.foldl_cons, hu]
    generalize ps.foldl (fun s p => s.addRecall p.2 e p.1) u = t at hasked hother hmark hunmark hentry hothers hrest
    rw [hue] at hasked hunmark hentry
    have hnotin : ∀ c, (∀ j, (c, j) ∉ (a, k) :: ps) → a ≠ c ∧ ∀ j, (c, j) ∉ ps := fun c hc =>
      ⟨fun hac => hc k (by rw [← hac]; exact List.mem_cons_self), fun j hj => hc j (List.mem_cons_of_mem _ hj)⟩
    have hahead : ∀ j, (a, j) ∉ ps := fun j hj => hne a j hj rfl
    refine ⟨fun c j hc => ?_, fun c hc => ?_, fun c j hc => ?_, fun c hc => ?_, hentry, fun f hf => ?_, ?_⟩
    · rcases List.mem_cons.1 hc with heq | hmem
      · cases heq
        rw [hother a hahead]
        exact State.setPort_port_same (s.setEntry e x) a _
      · rw [hasked c j hmem]
        unfold State.recalled
        rw [huport c (hne c j hmem)]
        rfl
    · obtain ⟨hac, hps⟩ := hnotin c hc
      rw [hother c hps, huport c hac]
    · rcases List.mem_cons.1 hc with heq | hmem
      · cases heq
        rw [hunmark a hahead]
        exact Vector.getElem_set_self _
      · exact hmark c j hmem
    · obtain ⟨hac, hps⟩ := hnotin c hc
      rw [hunmark c hps]
      exact Vector.getElem_set_ne a.isLt c.isLt fun hval => hac (Fin.ext hval)
    · rw [hothers f hf]
      exact State.setEntry_entry_ne s x fun hef => hf hef.symm
    · exact hrest

section
variable {s t : State} {e : EntryNo} {ps : List (Agent × RecallKind)} (h : s.Asks t e ps)
include h

theorem State.Asks.undrained (hdry : s.undrained) : t.undrained := fun c => by
  by_cases hc : ∃ k, (c, k) ∈ ps
  · obtain ⟨k, hk⟩ := hc
    rw [h.port_asked c k hk]
    exact Port.drained_recalls (by simp [State.recalled])
  · rw [h.port_other c fun k hk => hc ⟨k, hk⟩]
    exact hdry c

theorem State.Asks.noHeadWaits (hheads : s.noHeadWaits) : t.noHeadWaits := State.noHeadWaits_iff.2 fun c => by
  by_cases hc : ∃ k, (c, k) ∈ ps
  · obtain ⟨k, hk⟩ := hc
    rw [h.port_asked c k hk]
    exact State.noHeadWaits_iff.1 hheads c
  · rw [h.port_other c fun k hk => hc ⟨k, hk⟩]
    exact State.noHeadWaits_iff.1 hheads c

theorem State.Asks.claimQueue : t.claimQueue = s.claimQueue := by rw [h.rest]
theorem State.Asks.tags : t.tags = s.tags := by rw [h.rest]
theorem State.Asks.unitState : t.unitState = s.unitState := by rw [h.rest]
theorem State.Asks.sets : t.sets = s.sets := by rw [h.rest]
theorem State.Asks.marks : t.marks = s.marks := by rw [h.rest]
theorem State.Asks.work : t.work = s.work := by rw [h.rest]
theorem State.Asks.awaiting : t.awaiting = s.awaiting := by rw [h.rest]
theorem State.Asks.sweep : t.sweep = s.sweep := by rw [h.rest]

theorem State.Asks.running : t.running = s.running := by
  unfold State.running
  rw [h.unitState]

theorem State.Asks.memOp (f : EntryNo) : t.memOp f = s.memOp f := State.memOp_congr h.claimQueue h.tags f

theorem State.Asks.phase : (t.entry e).phase = (s.entry e).phase := by rw [h.entry]

theorem State.Asks.pending (hps : ps ≠ []) : (t.entry e).noPending = false := by
  obtain ⟨⟨c, k⟩, hc⟩ := List.exists_mem_of_ne_nil _ hps
  exact Entry.pending_of (h.pending_asked c k hc)

end

/-- No recall, no change. -/
theorem State.Asks.nil {s t : State} {e : EntryNo} (h : s.Asks t e []) : t = s := by
  have hports : t.ports = s.ports := Vector.ext fun i hi => h.port_other ⟨i, hi⟩ (by simp)
  have hpending : (t.entry e).pending = (s.entry e).pending := Vector.ext fun i hi => h.pending_other ⟨i, hi⟩ (by simp)
  have hentries : t.entries = s.entries := Vector.ext fun i hi => by
    by_cases hie : (⟨i, hi⟩ : EntryNo) = e
    · subst hie
      exact h.entry.trans (congrArg (fun p => { s.entry ⟨i, hi⟩ with pending := p }) hpending)
    · exact h.others ⟨i, hi⟩ hie
  rw [h.rest, hports, hentries]

/-! ### Holding counts (R11) -/

/-- The counts of a list of agents fall by one each, where none of their ports is draining. -/
theorem State.subHolds_ports {l : List Agent} {s : State} (hnodup : l.Nodup) (hstate : ∀ c ∈ l, (s.port c).state ≠ .draining) :
    (∀ c, (l.foldl State.subHold s).port c =
      { s.port c with holding := (s.port c).holding - (if c ∈ l then 1 else 0) }) ∧
    l.foldl State.subHold s = { s with ports := (l.foldl State.subHold s).ports } := by
  induction l generalizing s with
  | nil => exact ⟨fun c => by rw [if_neg (by simp)]; rfl, rfl⟩
  | cons a l ih =>
    obtain ⟨hout, hnodup'⟩ := List.nodup_cons.1 hnodup
    let u : State := s.setPort a { s.port a with holding := (s.port a).holding - 1 }
    have hu : s.subHold a = u := State.subHold_eq (hstate a List.mem_cons_self)
    have huport : ∀ c, a ≠ c → u.port c = s.port c := fun c hc => State.setPort_port_ne s _ hc
    obtain ⟨hports, hrest⟩ := ih (s := u) hnodup' fun c hc => by
      rw [huport c fun hac => hout (hac ▸ hc)]
      exact hstate c (List.mem_cons_of_mem _ hc)
    rw [List.foldl_cons, hu]
    generalize l.foldl State.subHold u = t at hports hrest
    refine ⟨fun c => ?_, hrest⟩
    rw [hports c]
    by_cases hac : a = c
    · subst hac
      rw [if_neg hout, if_pos List.mem_cons_self, show u.port a = _ from State.setPort_port_same s a _]
      rfl
    · rw [huport c hac]
      have hmem : c ∈ a :: l ↔ c ∈ l := by simp [Ne.symm hac]
      simp only [hmem]

end Sys2Proof.Machine
end

section
/-! SUPPORT. The sweep engine at one way, and the removal of a failed agent from a record (R164, R171). -/

namespace Sys2Proof.Machine

/-! ### The sweep read (R164) -/

theorem State.sweepNext_on {s : State} (h : s.sweep.way ≠ 7) : s.sweepNext =
    { s with sweep := { s.sweep with way := s.sweep.way + 1, state := .processing } } := by
  unfold State.sweepNext
  exact if_neg (by simpa using h)

section
variable {s : State} {n : SetNo} {w : WayNo} (hrun : s.running = true) (hproc : s.sweep.state = .processing)
  (hsound : s.soundSet s.sweep.cursor) (hlost : s.noLost s.sweep.cursor)
include hrun hproc hsound hlost

theorem State.sweepWay_free (hline : s.wayLine s.sweep.cursor s.sweep.way = none) : s.sweepWay = s.sweepNext := by
  unfold State.sweepWay
  dsimp only
  rw [if_neg (by simp [hrun, hproc]), State.claimAll_sound hsound, if_neg (by simp [hrun]), State.claimRebuilds_none hlost, hline]

theorem State.sweepWay_busy {l : Line} {e : EntryNo} (hline : s.wayLine s.sweep.cursor s.sweep.way = some l)
    (hbusy : s.busy l = some e) : s.sweepWay = (s.setEntry e { s.entry e with recheck := true }).sweepNext := by
  obtain ⟨hactive, -⟩ := State.busy_some hbusy
  unfold State.sweepWay
  dsimp only
  rw [if_neg (by simp [hrun, hproc]), State.claimAll_sound hsound, if_neg (by simp [hrun]), State.claimRebuilds_none hlost, hline]
  dsimp only
  rw [hbusy]
  dsimp only
  rw [State.setRecheck, State.modEntry_active hactive]

theorem State.sweepWay_idle {l : Line} (hline : s.wayLine s.sweep.cursor s.sweep.way = some l) (hidle : s.busy l = none) :
    s.sweepWay = s.sweepIdleLine l := by
  unfold State.sweepWay
  dsimp only
  rw [if_neg (by simp [hrun, hproc]), State.claimAll_sound hsound, if_neg (by simp [hrun]), State.claimRebuilds_none hlost, hline]
  dsimp only
  rw [hidle]
  exact if_neg (by rw [State.noLost_iff.1 hlost]; decide)

end

theorem State.sweepIdleLine_conforms {s t : State} {l : Line} (hstrip : s.stripFailed l none = t) (hjudge : t.judgeLine l = []) :
    s.sweepIdleLine l = t.sweepNext := by
  unfold State.sweepIdleLine
  dsimp only
  rw [hstrip, hjudge]

theorem State.sweepIdleLine_claims {s : State} {l : Line} (hstrip : s.stripFailed l none = s) (hjudge : s.judgeLine l ≠ []) :
    s.sweepIdleLine l =
      { s with sweep := { s.sweep with state := .claiming, claim := some { line := l, recalls := s.judgeLine l } } } := by
  unfold State.sweepIdleLine
  dsimp only
  rw [hstrip]
  cases hj : s.judgeLine l with
  | nil => exact absurd hj hjudge
  | cons p ps => rfl

theorem State.judgeLine_listed {s : State} {l : Line} {w : WayNo} {r : Rec} (h : s.lineRec l = some (w, r)) :
    s.judgeLine l = s.judge l r := by
  unfold State.judgeLine State.judgeLineBy
  rw [h]
  rfl

theorem State.judgeLine_absent {s : State} {l : Line} (h : s.lineRec l = none) : s.judgeLine l = [] := by
  unfold State.judgeLine State.judgeLineBy
  rw [h]

theorem State.judge_unheld {s : State} {l : Line} {r : Rec} (h : r.holders = 0) : s.judge l r = [] := by
  unfold State.judge State.judgeBy
  rw [h, AgentSet.list_zero]
  rfl

/-- A record's judgement depends on the criteria and the settings. -/
theorem State.judge_congr {s t : State} (hset : t.settings = s.settings) (hcrit : t.sweep.criteria = s.sweep.criteria) (l : Line)
    (r : Rec) : t.judge l r = s.judge l r := by
  have hhas : ∀ k, t.hasCriterion k = s.hasCriterion k := fun k => by unfold State.hasCriterion; rw [hcrit]
  have hagent : t.judgeAgent = s.judgeAgent := by
    unfold State.judgeAgent
    simp only [hhas, hset]
  unfold State.judge State.judgeBy
  rw [hhas, hagent]

/-! ### Agents of failed ports (R171) -/

theorem AgentSet.filter_failed {a : Agent} {p : Agent → Bool} (ha : p a = true) (hothers : ∀ c, c ≠ a → p c = false) :
    agents.filter p = [a] := by
  have hp : p = fun c => decide (c = a) := funext fun c => by
    by_cases hc : c = a
    · rw [hc, ha]; simp
    · rw [hothers c hc]; simp [hc]
  rw [hp]
  clear ha hothers hp
  revert a
  decide

section
variable {s : State} (harray : s.arrayLawful) {l : Line} {w : WayNo} {a : Agent}

/-- One failed agent among those that a record lists leaves it. -/
theorem State.stripFailed_one {r : Rec} (hlost : s.noLost (setOf l)) (hrec : s.lineRec l = some (w, r))
    (hfailed : (s.port a).state = .failed) (hhas : AgentSet.has r.holders a = true)
    (hothers : ∀ c, c ≠ a → AgentSet.has r.holders c = true → (s.port c).state ≠ .failed) :
    s.stripFailed l none = s.removeFrom l a true false := by
  have hlisted : s.failedListed l none = [a] := by
    unfold State.failedListed
    refine AgentSet.filter_failed (by rw [State.listed_of_lineRec hrec, hhas, hfailed]; rfl) fun c hc => ?_
    rw [State.listed_of_lineRec hrec]
    cases hhc : AgentSet.has r.holders c with
    | false => rfl
    | true => simp [hothers c hc hhc]
  unfold State.stripFailed
  rw [State.lineLost_calm hlost, if_neg (by decide), hlisted]
  rfl

include harray

/-- REMOVE-HOLDER of the only sharer (R9). -/
theorem State.removeFrom_onlySharer (hrec : s.lineRec l = some (w, { state := .shared, holders := AgentSet.only a, pin := none }))
    (hstate : (s.port a).state ≠ .draining) (loss touch : Bool) : s.removeFrom l a loss touch =
      (((s.putSet (setOf l) ((s.aset (setOf l)).freed w)).changeBusy l (fun x => { x with
        copy := none, reserved := if x.keepsFreed then some w else x.reserved })).setPort a
          { s.port a with holding := (s.port a).holding - 1 }).push (.wake (setOf l)) := by
  obtain ⟨hl, hr⟩ := State.lineRec_some hrec
  unfold State.removeFrom
  rw [hl]
  dsimp only
  unfold State.removeHolder
  dsimp only
  rw [← hr, AgentSet.has_only, if_neg (by simp)]
  dsimp only
  unfold State.rewrite
  dsimp only
  rw [if_neg (by simp), if_pos (by rw [AgentSet.remove, AgentSet.only]; simp), State.freeRec_only harray rfl hstate]

/-- REMOVE-HOLDER of the exclusive holder with its data lost (R9, R171). -/
theorem State.removeFrom_lost {p : Option Agent}
    (hrec : s.lineRec l = some (w, { state := .exclusive, holders := AgentSet.only a, pin := p }))
    (hstate : (s.port a).state ≠ .draining) (touch : Bool) : s.removeFrom l a true touch =
      ((s.putSet (setOf l) ((s.aset (setOf l)).edited w Rec.poisoned false)).changeBusy l (fun x => { x with
        copy := some Rec.poisoned })).setPort a { s.port a with holding := (s.port a).holding - 1 } := by
  obtain ⟨hl, hr⟩ := State.lineRec_some hrec
  unfold State.removeFrom
  rw [hl]
  dsimp only
  unfold State.removeHolder
  dsimp only
  rw [← hr, AgentSet.has_only, if_neg (by simp)]
  dsimp only
  unfold State.poisonRec
  dsimp only
  rw [if_pos rfl, if_neg (by simp), AgentSet.list_only, State.editState_eq harray, List.foldl_cons, List.foldl_nil,
    State.subHold_eq (by rw [State.changeBusy_port]; exact hstate), State.changeBusy_port]
  rfl

end

/-- The shape of a record by its law (R8). -/
theorem Rec.shared_of {r : Rec} (h : r.lawful = true) (hs : r.state = .shared) :
    r = { state := .shared, holders := r.holders, pin := none } ∧ r.holders ≠ 0 := by
  obtain ⟨st, hd, p⟩ := r
  cases hs
  simp only [Rec.lawful, Bool.and_eq_true, bne_iff_ne, beq_iff_eq] at h
  obtain ⟨hne, rfl⟩ := h
  exact ⟨rfl, hne⟩

theorem Rec.exclusive_of {r : Rec} {a : Agent} (h : r.lawful = true) (hs : r.state = .exclusive)
    (ha : AgentSet.has r.holders a = true) : r = { state := .exclusive, holders := AgentSet.only a, pin := r.pin } := by
  obtain ⟨st, hd, p⟩ := r
  cases hs
  unfold Rec.lawful at h
  obtain ⟨b, -, hb⟩ := List.any_eq_true.1 h
  obtain ⟨hhd, -⟩ := Bool.and_eq_true_iff.1 hb
  obtain rfl : hd = AgentSet.only b := beq_iff_eq.1 hhd
  obtain rfl : b = a := by simpa [AgentSet.has_only] using ha
  rfl

end Sys2Proof.Machine
end

section
/-! SUPPORT. The grant of a SWEEP-RECALL claim: the opening work of its entry (R167, R168). -/

namespace Sys2Proof.Machine

/-- The lookup of a calm set: the entry takes its copy of the record and makes its plan. -/
theorem State.lookupStep_calm {s : State} {e : EntryNo} (hrun : s.running = true) (hactive : (s.entry e).phase ≠ .free)
    (hcalm : s.calm (setOf (s.entry e).line)) : s.lookupStep e =
      (s.setEntry e { s.entry e with copy := (s.lineRec (s.entry e).line).map Prod.snd }).plan e := by
  unfold State.lookupStep
  dsimp only
  rw [State.claimEntry_calm hcalm, if_neg (by simp [hrun]), State.lineLost_calm (State.calm_iff.1 hcalm).2.1,
    if_neg (by decide)]
  unfold State.takeCopy
  rw [State.modEntry_active hactive]

/-- The STARTING of an internal entry whose opening work leaves it in STARTING (R51). -/
theorem State.start_internal {s t : State} {e : EntryNo} (hphase : (s.entry e).phase = .starting)
    (hkind : (s.entry e).kind.isAgent = false) (ht : s.lookupStep e = t) (hrun : t.running = true)
    (hkept : (t.entry e).phase = .starting) :
    s.start e = (t.setEntry e { t.entry e with phase := .recalling }).push (.advance e) := by
  unfold State.start
  dsimp only
  rw [if_neg (by simp [hphase])]
  cases hk : (s.entry e).kind with
  | req k => rw [hk] at hkind; cases hkind
  | retire | rebuild | sweepRecall =>
    dsimp only
    rw [ht, if_neg (by simp [hrun]), if_pos (by simp [hkept]), State.modEntry_active (by rw [hkept]; decide)]

theorem State.plan_sweepRecall {s : State} {e : EntryNo} (hkind : (s.entry e).kind = .sweepRecall) :
    s.plan e = (s.judgeLine (s.entry e).line).foldl (fun s p => s.addRecall p.2 e p.1) s := by
  unfold State.plan
  dsimp only
  rw [hkind]
  rfl

theorem State.judgeLine_congr {s t : State} (hset : t.settings = s.settings) (hcrit : t.sweep.criteria = s.sweep.criteria)
    (hsets : t.sets = s.sets) (hmarks : t.marks = s.marks) (l : Line) : t.judgeLine l = s.judgeLine l := by
  cases hrec : s.lineRec l with
  | none => rw [State.judgeLine_absent hrec, State.judgeLine_absent ((State.lineRec_congr hsets hmarks l).trans hrec)]
  | some wr =>
    obtain ⟨w, r⟩ := wr
    rw [State.judgeLine_listed hrec, State.judgeLine_listed ((State.lineRec_congr hsets hmarks l).trans hrec),
      State.judge_congr hset hcrit]

/-- No agent is recalled twice. -/
theorem State.judge_nodup (s : State) (l : Line) (r : Rec) : ((s.judge l r).map Prod.fst).Nodup := by
  unfold State.judge State.judgeBy
  refine List.pairwise_map.2 (List.pairwise_filterMap.2 ((AgentSet.list_nodup r.holders).imp fun hne p hp q hq => ?_))
  obtain ⟨k, -, rfl⟩ := Option.map_eq_some_iff.1 hp
  obtain ⟨j, -, rfl⟩ := Option.map_eq_some_iff.1 hq
  exact hne

/-- The entry that a SWEEP-RECALL claim is granted, in this phase and with this copy of its record. -/
def Entry.sweeper (u : UseNo) (l : Line) (p : Phase) (c : Option Rec) : Entry :=
  { Entry.free u with kind := .sweepRecall, line := l, phase := p, copy := c }

/-- The sweep that goes on from the next way once its claim is granted. -/
def Sweep.granted (w : Sweep) : Sweep := { w with state := .processing, way := w.way + 1, claim := none }

section
variable {s : State} {e : EntryNo} {l : Line} {js : List (Agent × RecallKind)}

theorem State.grantInternal_sweep (hrun : s.running = true) (hclaims : s.rebuildClaims = [])
    (hretire : ∀ m ∈ s.awaiting, ∀ k v, m.stand ≠ .claimWaiting k v)
    (hclaim : s.sweep.claim = some { line := l, recalls := js }) (hfree : s.freeEntry internalPool = some e) :
    s.grantInternal = s.grantSweep e { line := l, recalls := js } := by
  have hnone : s.retireClaim = none := List.findSome?_eq_none_iff.2 fun m hm => by
    cases hstand : m.stand with
    | claimWaiting k v => exact absurd hstand (hretire m hm k v)
    | noClaim => rfl
    | retireActive g => rfl
  unfold State.grantInternal
  rw [if_neg (by simp [hrun]), hfree, hclaims]
  dsimp only
  rw [hnone]
  dsimp only
  rw [hclaim]

/-- A claim for a busy line is withdrawn, with recheck set on its entry (R167). -/
theorem State.grantSweep_busy {b : EntryNo} (hbusy : s.busy l = some b) (hway : s.sweep.way ≠ 7) :
    s.grantSweep e { line := l, recalls := js } =
      { s with sweep := s.sweep.granted }.setEntry b { s.entry b with recheck := true } := by
  obtain ⟨hactive, -⟩ := State.busy_some hbusy
  let v : State := { s with sweep := { s.sweep with claim := none } }
  have hbusy' : v.busy l = some b := hbusy
  have hset : v.setRecheck b = v.setEntry b { s.entry b with recheck := true } := State.modEntry_active (s := v) hactive _
  unfold State.grantSweep
  dsimp only
  rw [hbusy']
  dsimp only
  rw [hset, State.sweepNext_on (s := v.setEntry b _) hway]
  rfl

/-- A claim for an idle line is granted: the entry's recalls go out, and the engine goes on at once (R168). -/
theorem State.grantSweep_idle (hrun : s.running = true) (hidle : s.busy l = none) (hcalm : s.calm (setOf l))
    (hway : s.sweep.way ≠ 7) (hwork : s.work = []) (hready : ∀ c k, (c, k) ∈ s.judgeLine l → (s.port c).ready = true) :
    ∃ t, ({ s with sweep := { s.sweep with claim := none } }.setEntry e
        (Entry.sweeper ((s.entry e).use + 1) l .starting ((s.lineRec l).map Prod.snd))).Asks t e (s.judgeLine l) ∧
      s.grantSweep e { line := l, recalls := js } =
        ({ t with sweep := s.sweep.granted }.setEntry e { t.entry e with phase := .recalling }).due [.advance e, .admission] := by
  let v : State := { s with sweep := { s.sweep with claim := none } }
  let u : UseNo := (s.entry e).use + 1
  let x : Entry := Entry.sweeper u l .starting none
  let y : Entry := Entry.sweeper u l .starting ((s.lineRec l).map Prod.snd)
  let t : State := (s.judgeLine l).foldl (fun s p => s.addRecall p.2 e p.1) (v.setEntry e y)
  have hx : (v.setEntry e x).entry e = x := State.setEntry_entry_same v e x
  have hy : (v.setEntry e y).entry e = y := State.setEntry_entry_same v e y
  have hnodup : ((s.judgeLine l).map Prod.fst).Nodup := by
    cases hrec : s.lineRec l with
    | none => rw [State.judgeLine_absent hrec]; exact List.nodup_nil
    | some wr => rw [State.judgeLine_listed hrec]; exact State.judge_nodup s l _
  have hasks : (v.setEntry e y).Asks t e (s.judgeLine l) :=
    State.asks_recalls (by rw [hy]; exact Phase.noConfusion) hnodup hready
  have hlookup : (v.setEntry e x).lookupStep e = t := by
    rw [State.lookupStep_calm (s := v.setEntry e x) hrun (by rw [hx]; exact Phase.noConfusion) (by rw [hx]; exact hcalm), hx,
      State.setEntry_setEntry]
    show (v.setEntry e y).plan e = t
    rw [State.plan_sweepRecall (by rw [hy]; rfl), hy]
    rw [State.judgeLine_congr (s := s) (t := v.setEntry e y) rfl rfl rfl rfl, show y.line = l from rfl]
  have htrun : t.running = true := hasks.running.trans hrun
  have hstart := State.start_internal (s := v.setEntry e x) (by rw [hx]; rfl) (by rw [hx]; rfl) hlookup htrun
    (by rw [hasks.phase, hy]; rfl)
  have hsweep : { t.sweep with way := t.sweep.way + 1, state := .processing } = s.sweep.granted := by
    rw [hasks.sweep]
    rfl
  refine ⟨t, hasks, ?_⟩
  have hgrant : s.grantSweep e { line := l, recalls := js } =
      (((t.setEntry e { t.entry e with phase := .recalling }).push (.advance e)).push .admission).sweepNext := by
    have hidle' : v.busy l = none := hidle
    unfold State.grantSweep
    dsimp only
    rw [hidle']
    dsimp only
    rw [show v.setInternal e .sweepRecall l none none = v.setEntry e x from rfl, hstart]
    exact if_pos htrun
  have hway' : t.sweep.way ≠ 7 := by rw [hasks.sweep]; exact hway
  rw [hgrant, State.sweepNext_on (s := ((t.setEntry e { t.entry e with phase := .recalling }).push (.advance e)).push .admission) hway']
  rw [← hsweep, State.push_eq_due, State.push_eq_due, State.due_work, State.setEntry_work, hasks.work,
    show (v.setEntry e y).work = [] from hwork]
  rfl

end

end Sys2Proof.Machine
end

section
/-! The sweep read and the SWEEP-RECALL claim, settled. -/

namespace Sys2Proof.Machine

/-- A sweep read of a way before the last, in a calm set. -/
theorem exec_sweepRead_calm {s : State} (h : s.atRest) (hrun : s.running = true) (hproc : s.sweep.state = .processing)
    (hcalm : s.calm s.sweep.cursor) (hway : s.sweep.way ≠ 7) :
    let moved := { s with sweep := { s.sweep with way := s.sweep.way + 1 } }
    (s.wayLine s.sweep.cursor s.sweep.way = none → exec .sweepRead s = .next moved) ∧
    (∀ l e, s.wayLine s.sweep.cursor s.sweep.way = some l → s.busy l = some e →
      exec .sweepRead s = .next (moved.setEntry e { s.entry e with recheck := true })) ∧
    (∀ l, s.wayLine s.sweep.cursor s.sweep.way = some l → s.busy l = none → s.judgeLine l = [] →
      exec .sweepRead s = .next moved) ∧
    (∀ l, s.wayLine s.sweep.cursor s.sweep.way = some l → s.busy l = none → s.judgeLine l ≠ [] →
      exec .sweepRead s = .next { s with sweep := { s.sweep with
        state := .claiming, claim := some { line := l, recalls := s.judgeLine l } } }) := by
  intro moved
  obtain ⟨hsound, hlost, hfail⟩ := State.calm_iff.1 hcalm
  have hnext : s.sweepNext = moved := by rw [State.sweepNext_on hway, ← hproc]
  have hreset := State.atRest_resetPin h
  rw [exec_sweepRead]
  refine ⟨fun hline => ?_, fun l e hline hbusy => ?_, fun l hline hidle hjudge => ?_, fun l hline hidle hjudge => ?_⟩
  · exact State.event_atRest hreset ((State.sweepWay_free hrun hproc hsound hlost hline).trans hnext) h
  · refine State.event_atRest (t := moved.setEntry e { s.entry e with recheck := true }) hreset ?_ h
    rw [State.sweepWay_busy hrun hproc hsound hlost hline hbusy, State.sweepNext_on (s := s.setEntry e _) hway]
    exact congrArg (fun p => State.setEntry { s with sweep := { s.sweep with way := s.sweep.way + 1, state := p } } e
      { s.entry e with recheck := true }) hproc.symm
  · refine State.event_atRest hreset ?_ h
    rw [State.sweepWay_idle hrun hproc hsound hlost hline hidle,
      State.sweepIdleLine_conforms (State.stripFailed_none hfail l none) hjudge, hnext]
  · refine State.event_atRest (t := { s with sweep := { s.sweep with
        state := .claiming, claim := some { line := l, recalls := s.judgeLine l } } }) hreset ?_ h
    rw [State.sweepWay_idle hrun hproc hsound hlost hline hidle,
      State.sweepIdleLine_claims (State.stripFailed_none hfail l none) hjudge]

theorem AgentSet.remove_ne_zero {h : AgentSet} {a : Agent} (ha : AgentSet.has h a = true) (hne : h ≠ AgentSet.only a) :
    AgentSet.remove h a ≠ 0 := by
  revert h a; decide

/-- The state of a set written and an agent's holding count lowered, as a sweep read goes on to the next way. -/
def State.stripped (s : State) (y : ASet) (a : Agent) : State :=
  { (s.putSet s.sweep.cursor y).setPort a { s.port a with holding := (s.port a).holding - 1 } with
    sweep := { s.sweep with way := s.sweep.way + 1 } }

section
variable {s : State} {a : Agent} (y : ASet)

theorem State.stripped_port_same : (s.stripped y a).port a = { s.port a with holding := (s.port a).holding - 1 } :=
  State.setPort_port_same (s.putSet s.sweep.cursor y) a _

theorem State.stripped_port_ne {c : Agent} (h : c ≠ a) : (s.stripped y a).port c = s.port c :=
  State.setPort_port_ne (s.putSet s.sweep.cursor y) _ fun hac => h hac.symm

theorem State.stripped_aset_same (h : s.arrayLawful) : (s.stripped y a).aset s.sweep.cursor = y :=
  State.putSet_aset_same h s.sweep.cursor y

theorem State.stripped_aset_ne (h : s.arrayLawful) {k : SetNo} (hk : k ≠ s.sweep.cursor) : (s.stripped y a).aset k = s.aset k :=
  State.putSet_aset_ne h s.sweep.cursor y hk

theorem State.stripped_atRest (h : s.atRest) (hfailed : (s.port a).state = .failed) : (s.stripped y a).atRest :=
  State.atRest_setPort (s := { s.putSet s.sweep.cursor y with sweep := { s.sweep with way := s.sweep.way + 1 } }) h
    (Port.drained_state (by simp [hfailed]))

/-- A sweep read that takes a failed agent off a record, where what is left of the record conforms. -/
theorem State.sweepIdleLine_stripped {l : Line} {k : List Task} (hproc : s.sweep.state = .processing) (hway : s.sweep.way ≠ 7)
    (hstrip : s.stripFailed l none =
      ((s.putSet s.sweep.cursor y).setPort a { s.port a with holding := (s.port a).holding - 1 }).due k)
    (hjudge : (s.putSet s.sweep.cursor y).judgeLine l = []) :
    s.sweepIdleLine l = (s.stripped y a).due k := by
  let u : State := (s.putSet s.sweep.cursor y).setPort a { s.port a with holding := (s.port a).holding - 1 }
  have hjudge' : (u.due k).judgeLine l = [] :=
    (State.judgeLine_congr (s := s.putSet s.sweep.cursor y) (t := u.due k) rfl rfl rfl rfl l).trans hjudge
  rw [State.sweepIdleLine_conforms hstrip hjudge', State.sweepNext_on (s := u.due k) hway]
  unfold State.stripped
  rw [← hproc]
  rfl

end

/-- A sweep read of a record with one failed agent listed (R164, R171). -/
theorem exec_sweepRead_strips {a : Agent} {l : Line} {s : State} (h : s.atRest) (hrun : s.running = true)
    (hlawful : s.recordsLawful) (hproc : s.sweep.state = .processing) (hsound : s.soundSet s.sweep.cursor)
    (hlost : s.noLost s.sweep.cursor) (hway : s.sweep.way ≠ 7) (hnone : s.noneAwaiting s.sweep.cursor)
    (hline : s.wayLine s.sweep.cursor s.sweep.way = some l) (hidle : s.busy l = none) (hfailed : (s.port a).state = .failed)
    (hhas : AgentSet.has (s.recAt s.sweep.cursor s.sweep.way).holders a = true)
    (hothers : ∀ c, c ≠ a → AgentSet.has (s.recAt s.sweep.cursor s.sweep.way).holders c = true → (s.port c).state ≠ .failed) :
    let n := s.sweep.cursor
    let w := s.sweep.way
    let x := s.aset n
    let left : Rec := { state := .shared, holders := AgentSet.remove (s.recAt n w).holders a, pin := none }
    ((s.recAt n w).state = .shared → (s.recAt n w).holders ≠ AgentSet.only a → s.judge l left = [] →
      exec .sweepRead s = .next (s.stripped (x.edited w left false) a)) ∧
    ((s.recAt n w).state = .shared → (s.recAt n w).holders = AgentSet.only a →
      exec .sweepRead s = .next (s.stripped (x.freed w) a)) ∧
    ((s.recAt n w).state = .exclusive → exec .sweepRead s = .next (s.stripped (x.edited w Rec.poisoned false) a)) := by
  intro n w x left
  have harray := hlawful.1
  have hset : setOf l = n := State.setOf_wayLine hline
  have hlook : s.lookup l = some w := State.lookup_wayLine harray hline
  have hrec : s.lineRec l = some (w, s.recAt n w) := State.lineRec_of hlook (by rw [hset])
  have hgood : (s.recAt n w).lawful = true := State.recAt_lawful harray (by rw [State.wayTag_wayLine hline]; rfl)
  have hstate : (s.port a).state ≠ .draining := by rw [hfailed]; decide
  have hstrip := State.stripFailed_one (by rw [hset]; exact hlost) hrec hfailed hhas hothers
  have hwork := State.atRest_work h
  have hidle' : ∀ y, (s.putSet n y).busy l = none := fun y => hidle
  have hnil : ∀ y, (s.putSet n y).setPort a { s.port a with holding := (s.port a).holding - 1 } =
      ((s.putSet n y).setPort a { s.port a with holding := (s.port a).holding - 1 }).due [] := fun y =>
    (State.due_self (s := (s.putSet n y).setPort a { s.port a with holding := (s.port a).holding - 1 }) hwork).symm
  have hends : ∀ y k, k = [] ∨ k = [.wake n] → s.stripFailed l none =
      ((s.putSet n y).setPort a { s.port a with holding := (s.port a).holding - 1 }).due k →
      (s.putSet n y).judgeLine l = [] → exec .sweepRead s = .next (s.stripped y a) := fun y k hk heq hjudge => by
    refine State.event_idle (l := k) (State.atRest_resetPin h) ?_ (State.stripped_atRest y h hfailed) (fun j hj => ?_) ?_
    · rw [State.sweepWay_idle hrun hproc hsound hlost hline hidle]
      exact State.sweepIdleLine_stripped y hproc hway heq hjudge
    · rcases hk with rfl | rfl
      · cases hj
      · rw [List.mem_singleton.1 hj]
        exact ⟨hnone, by simp⟩
    · rcases hk with rfl | rfl <;> simp [Config.workBound]
  refine ⟨fun hs hseveral hconf => ?_, fun hs honly => ?_, fun hs => ?_⟩
  · obtain ⟨hshape, -⟩ := Rec.shared_of hgood hs
    have hleft : AgentSet.remove (s.recAt n w).holders a ≠ 0 := AgentSet.remove_ne_zero hhas hseveral
    have hrec' := State.lineRec_edited harray hlook left false
    rw [hset] at hrec'
    refine hends _ [] (.inl rfl) ?_ ?_
    · rw [hstrip, State.removeFrom_sharer harray (hrec.trans (by rw [← hshape])) hhas hleft hstate, hset, State.changeBusy_none (hidle' _)]
      exact hnil _
    · rw [State.judgeLine_listed hrec', State.judge_congr (s := s) (t := s.putSet n _) rfl rfl]
      exact hconf
  · obtain ⟨hshape, -⟩ := Rec.shared_of hgood hs
    have hgone := State.lookup_freed harray hlook
    rw [hset] at hgone
    refine hends _ [.wake n] (.inr rfl) ?_ (State.judgeLine_absent (State.lineRec_of_absent hgone))
    rw [hstrip, State.removeFrom_onlySharer harray (hrec.trans (by rw [← honly, ← hshape])) hstate, hset, State.changeBusy_none (hidle' _),
      State.push_eq_due, State.setPort_work, State.putSet_work, hwork]
    rfl
  · have hshape := Rec.exclusive_of hgood hs hhas
    have hrec' := State.lineRec_edited harray hlook Rec.poisoned false
    rw [hset] at hrec'
    refine hends _ [] (.inl rfl) ?_ ((State.judgeLine_listed hrec').trans (State.judge_unheld rfl))
    rw [hstrip, State.removeFrom_lost (p := (s.recAt n w).pin) harray (hrec.trans (by rw [← hshape])) hstate, hset,
      State.changeBusy_none (hidle' _)]
    exact hnil _

/-- The row of a SWEEP-RECALL claim for an idle line (R67, R168). -/
theorem exec_internalPoolGrant_sweep {e : EntryNo} {l : Line} {js : List (Agent × RecallKind)} {s : State} (h : s.atRest)
    (hrun : s.running = true) (hheads : s.noHeadWaits) (hclaims : s.rebuildClaims = [])
    (hretire : ∀ m ∈ s.awaiting, ∀ k v, m.stand ≠ .claimWaiting k v) (hclaim : s.sweep.claim = some { line := l, recalls := js })
    (hway : s.sweep.way ≠ 7) (hfree : s.freeEntry internalPool = some e) (hidle : s.busy l = none) (hcalm : s.calm (setOf l))
    (hmem : s.memOp e = none) (hready : ∀ c k, (c, k) ∈ s.judgeLine l → (s.port c).ready = true) :
    let x := Entry.sweeper ((s.entry e).use + 1) l .starting ((s.lineRec l).map Prod.snd)
    ∃ t, ({ s with sweep := { s.sweep with claim := none } }.setEntry e x).Asks t e (s.judgeLine l) ∧
      (s.judgeLine l ≠ [] → exec .internalPoolGrant s =
        .next ({ t with sweep := s.sweep.granted }.setEntry e { t.entry e with phase := .recalling })) ∧
      (s.judgeLine l = [] → (∀ m ∈ s.awaiting, m.entry ≠ e) → s.noneAwaiting (setOf l) → s.owingBuffer l = none →
        exec .internalPoolGrant s = .next ({ s with sweep := s.sweep.granted }.setEntry e (Entry.free ((s.entry e).use + 1)))) := by
  intro x
  let v : State := { s with sweep := { s.sweep with claim := none } }
  obtain ⟨t, hasks, hgrant⟩ := State.grantSweep_idle (e := e) (js := js) hrun hidle hcalm hway (State.atRest_work h) hready
  have hx : (v.setEntry e x).entry e = x := State.setEntry_entry_same v e x
  let z : State := { t with sweep := s.sweep.granted }.setEntry e { t.entry e with phase := .recalling }
  have hf : s.grantInternal = z.due [.advance e, .admission] := by
    rw [State.grantInternal_sweep hrun hclaims hretire hclaim hfree, hgrant]
  have hze : z.entry e = { t.entry e with phase := .recalling } := State.setEntry_entry_same { t with sweep := s.sweep.granted } e _
  have hte : t.entry e = { x with pending := (t.entry e).pending } := by rw [← hx]; exact hasks.entry
  have hzrun : z.running = true := hasks.running.trans hrun
  have hzdry : z.undrained := State.undrained_congr (s := t) rfl (hasks.undrained (State.atRest_undrained h))
  have hzheads : z.noHeadWaits := State.noHeadWaits_congr (s := t) rfl (hasks.noHeadWaits (State.noHeadWaits_congr (s := s) rfl hheads))
  have hzmem : z.memOp e = none := (State.memOp_congr (s := t) rfl rfl e).trans ((hasks.memOp e).trans hmem)
  have hzwork : z.work = [] := hasks.work.trans (State.atRest_work h)
  have hinternal : ∀ k, (z.due k).stepPlan e = z.due k := fun k =>
    State.stepPlan_internal (by rw [State.due_entry, hze, hte]; rfl)
  refine ⟨t, hasks, fun hne => ?_, fun hnil hout hnone howing => ?_⟩
  · have hwaits : z.waits e := State.waits_recalling (by rw [hze]) hzmem (by rw [hze]; exact hasks.pending hne)
      (by rw [hze, hte]; rfl) (by rw [hze, hte]; rfl) hinternal
    have hworks : Works 2 (z.due [.advance e, .admission]) z := .waits hwaits hzrun hzdry
      (.pass (s := z.due [.admission]) rfl (State.idles_admission hzheads) (by simp) hzdry (.ended hzwork))
    rw [exec_internalPoolGrant, Works.event (State.atRest_resetPin h) (by rw [hf]; exact hworks) (by rw [hf]; exact hzdry)]
  · rw [hnil] at hasks
    obtain rfl := hasks.nil
    let y : Entry := { x with phase := .recalling }
    have hz : z = { s with sweep := s.sweep.granted }.setEntry e y := by
      show ({ v.setEntry e x with sweep := s.sweep.granted } : State).setEntry e _ = _
      rw [hx]
      exact State.setEntry_setEntry { s with sweep := s.sweep.granted } e x y
    have hzy : z.entry e = y := by rw [hze, hx]
    have hfin : (z.entry e).finished := by
      rw [hzy]
      exact { phase := rfl, pending := Entry.noPending_of rfl, reply := by simp [y, x, Entry.sweeper, Entry.free]
              breaking := rfl, owed := rfl, rebuild := rfl, answered := .inl rfl, dependent := .inl rfl, recheck := rfl, deferred := rfl }
    have hworks := State.works_frees (s := z) (l := [.admission]) hfin hinternal hzmem hzrun
      (by rw [hzy]; exact (State.owingBuffer_congr (s := s) rfl l).trans howing)
      (by rw [hzy, hz]; exact State.noneAwaiting_setEntry (s := { s with sweep := s.sweep.granted }) hnone hout y) hzheads hzdry
      (fun k hk => by
        rw [List.mem_singleton.1 hk]
        exact ⟨State.idles_admission (State.noHeadWaits_congr (s := z) rfl hzheads), by simp⟩)
    rw [exec_internalPoolGrant, Works.event (State.atRest_resetPin h) (by rw [hf]; exact hworks) (by rw [hf]; exact hzdry),
      State.due_self (s := z.setEntry e _) hzwork, hzy, hz, State.setEntry_setEntry]
    rfl

/-- Settles O36: each finding of a sweep read, and of the claim it makes. -/
theorem sweepReadsAWayAndGapEnds : Obligations.SweepReadsAWayAndGapEnds := by
  refine ⟨fun s h hrun hproc hcalm hway => exec_sweepRead_calm h hrun hproc hcalm hway, ?_, ?_, fun s h hrun hgap => ?_⟩
  · intro a l hd s h hrun hlawful hproc hsound hlost hway hnone hline hidle hfailed hholders hhas hothers n w left stripped
    subst hholders
    have harray := hlawful.1
    have hset : setOf l = n := State.setOf_wayLine hline
    have hlook : s.lookup l = some w := State.lookup_wayLine harray hline
    have hstripped : ∀ y : ASet, (∀ v, v ≠ w → y.ways[v] = (s.aset n).ways[v]) → stripped (s.stripped y a) := fun y hy =>
      ⟨fun v hv => (congrArg (fun g : ASet => g.ways[v]) (s.stripped_aset_same y harray)).trans (hy v hv),
        fun k hk => s.stripped_aset_ne y harray hk, s.stripped_port_same y, fun c hc => s.stripped_port_ne y hc, rfl⟩
    have hedited : ∀ r, (s.stripped ((s.aset n).edited w r false) a).lineRec l = some (w, r) := fun r => by
      have hrec := State.lineRec_edited harray hlook r false
      rw [hset] at hrec
      exact hrec
    obtain ⟨hsharer, honly, hexclusive⟩ :=
      exec_sweepRead_strips h hrun hlawful hproc hsound hlost hway hnone hline hidle hfailed hhas hothers
    refine ⟨fun hs hne hconf => ⟨_, hsharer hs hne hconf, hstripped _ fun v hv => ASet.edited_ways_ne _ _ _ hv, hedited left, ?_⟩,
      fun hs heq => ⟨_, honly hs heq, hstripped _ fun v hv => ASet.freed_ways_ne _ hv, ?_, ?_⟩,
      fun hs => ⟨_, hexclusive hs, hstripped _ fun v hv => ASet.edited_ways_ne _ _ _ hv, hedited Rec.poisoned, ?_⟩⟩
    · rw [s.stripped_aset_same _ harray, ASet.edited_order]
    · have hgone := State.lookup_freed harray hlook
      rw [hset] at hgone
      exact hgone
    · rw [s.stripped_aset_same _ harray]
      rfl
    · rw [s.stripped_aset_same _ harray, ASet.edited_order]
  · intro e l js s h hrun hheads hclaims hretire hclaim hway hfree hout moved u
    have hsweep : s.sweep.granted = moved.sweep := rfl
    refine ⟨fun b hbusy => ?_, fun hidle hcalm hconf hmem hnone howing => ?_, fun w r hidle hcalm hrec hjudge hmem hready => ?_⟩
    · rw [exec_internalPoolGrant]
      refine State.event_atRest (t := moved.setEntry b { s.entry b with recheck := true }) (State.atRest_resetPin h) ?_ h
      rw [State.grantInternal_sweep hrun hclaims hretire hclaim hfree, State.grantSweep_busy hbusy hway, hsweep]
    · obtain ⟨t, -, -, hends⟩ := exec_internalPoolGrant_sweep h hrun hheads hclaims hretire hclaim hway hfree hidle hcalm hmem
        (by rw [hconf]; simp)
      exact hends hconf hout hnone howing
    · have hline := State.judgeLine_listed hrec
      obtain ⟨t, hasks, hgoes, -⟩ := exec_internalPoolGrant_sweep h hrun hheads hclaims hretire hclaim hway hfree hidle hcalm hmem
        (by rw [hline]; exact hready)
      let v : State := { s with sweep := { s.sweep with claim := none } }
      let x : Entry := Entry.sweeper u l .starting ((s.lineRec l).map Prod.snd)
      let b : State := { t with sweep := s.sweep.granted }
      have hx : (v.setEntry e x).entry e = x := State.setEntry_entry_same v e x
      have hx' : x = Entry.sweeper u l .starting ((s.lineRec l).map Prod.snd) := rfl
      let z : State := b.setEntry e { t.entry e with phase := .recalling }
      have hbe : z.entry e = { t.entry e with phase := .recalling } :=
        State.setEntry_entry_same b e _
      have hte : t.entry e = { x with pending := (t.entry e).pending } := by rw [← hx]; exact hasks.entry
      rw [hline] at hasks hgoes
      refine ⟨z, hgoes hjudge, fun c k hc => ⟨?_, ?_⟩, fun c hc => ⟨?_, ?_⟩, ?_, fun f hf => ?_, ?_⟩
      · have hport := hasks.port_asked c k hc
        rw [hx] at hport
        exact hport
      · rw [hbe]
        exact hasks.pending_asked c k hc
      · exact hasks.port_other c hc
      · rw [hbe]
        have hpending := hasks.pending_other c hc
        rw [hx] at hpending
        exact hpending.trans (Vector.getElem_replicate _)
      · have hpending : (z.entry e).pending = (t.entry e).pending := by rw [hbe]
        rw [hrec] at hx'
        rw [hpending, hbe]
        exact congrArg (fun y : Entry => { y with phase := .recalling }) (hte.trans (by rw [hx']))
      · exact (State.setEntry_entry_ne b _ fun hef => hf hef.symm).trans
          ((hasks.others f hf).trans (State.setEntry_entry_ne v x fun hef => hf hef.symm))
      · exact congrArg (fun q : State => { q with
          sweep := s.sweep.granted, entries := z.entries }) hasks.rest
  · rw [exec_sweepGapExpiry]
    refine State.event_atRest (State.atRest_resetPin h) ?_ h
    exact if_pos (by simp [hrun, hgap])

end Sys2Proof.Machine
end

section
/-! The judgement of a record, and the end of a set, settled. -/

namespace Sys2Proof.Machine

/-! ### The judgement (R165) -/

theorem State.mem_judge {s : State} {l : Line} {r : Rec} {y : Agent} {k : RecallKind} : (y, k) ∈ s.judge l r ↔
    AgentSet.has r.holders y = true ∧ s.judgeAgent (s.hasCriterion .region) l (r.state == .exclusive) y = some k := by
  unfold State.judge State.judgeBy
  rw [List.mem_filterMap]
  constructor
  · rintro ⟨z, hz, hmap⟩
    obtain ⟨j, hj, heq⟩ := Option.map_eq_some_iff.1 hmap
    cases heq
    exact ⟨(AgentSet.mem_list _ _).1 hz, hj⟩
  · rintro ⟨hhas, hk⟩
    exact ⟨y, (AgentSet.mem_list _ _).2 hhas, by rw [hk]; rfl⟩

/-- An agent is thrown out by the region table or by its DRAIN. -/
def State.thrown (s : State) (l : Line) (y : Agent) : Prop :=
  (s.hasCriterion .region = true ∧ (inRange s.settings l = false ∨ cacheable s.settings l = false ∨
    readRight s.settings y l = false)) ∨ s.hasCriterion (.drain y) = true

theorem State.judgeAgent_thrown {s : State} {l : Line} {y : Agent} (h : s.thrown l y) (excl : Bool) :
    s.judgeAgent (s.hasCriterion .region) l excl y = some (if excl then .return else .invalidate) := by
  unfold State.judgeAgent
  dsimp only
  rcases h with ⟨hregion, hout⟩ | hdrain
  · rw [if_pos (by rw [hregion]; rcases hout with ho | ho | ho <;> simp [ho])]
  · rw [hdrain, if_pos rfl, ite_self]

theorem State.judgeAgent_kept {s : State} {l : Line} {y : Agent} (h : ¬ s.thrown l y) (excl : Bool) :
    s.judgeAgent (s.hasCriterion .region) l excl y =
      if s.hasCriterion .region = true ∧ excl = true ∧ writeRight s.settings y l = false then some .share else none := by
  have hdrain : s.hasCriterion (.drain y) = false := Bool.eq_false_iff.2 fun hd => h (.inr hd)
  unfold State.judgeAgent
  dsimp only
  rw [if_neg, hdrain, if_neg (by decide)]
  · simp only [Bool.and_eq_true, Bool.not_eq_true', and_assoc]
  · intro hout
    obtain ⟨hregion, hor⟩ := Bool.and_eq_true_iff.1 hout
    refine h (.inl ⟨hregion, ?_⟩)
    rcases Bool.or_eq_true_iff.1 hor with hor' | hread
    · rcases Bool.or_eq_true_iff.1 hor' with hrange | hcache
      · exact .inl ((Bool.not_eq_true' _).mp hrange)
      · exact .inr (.inl ((Bool.not_eq_true' _).mp hcache))
    · exact .inr (.inr ((Bool.not_eq_true' _).mp hread))

/-- The recall that the judgement calls for at a listed agent. -/
theorem State.judgeAgent_iff {s : State} {l : Line} {r : Rec} {y : Agent} {k : RecallKind} :
    s.judgeAgent (s.hasCriterion .region) l (r.state == .exclusive) y = some k ↔
      (s.thrown l y ∧ k = if r.state = .exclusive then .return else .invalidate) ∨
      (¬ s.thrown l y ∧ s.hasCriterion .region = true ∧ r.state = .exclusive ∧ writeRight s.settings y l = false ∧ k = .share) := by
  by_cases h : s.thrown l y
  · rw [State.judgeAgent_thrown h, Option.some_inj]
    simp only [beq_iff_eq]
    exact ⟨fun hk => .inl ⟨h, hk.symm⟩, fun hor => hor.elim (fun ⟨_, hk⟩ => hk.symm) fun ⟨hnot, _⟩ => absurd h hnot⟩
  · rw [State.judgeAgent_kept h]
    by_cases hc : s.hasCriterion .region = true ∧ (r.state == .exclusive) = true ∧ writeRight s.settings y l = false
    · obtain ⟨hregion, hexcl, hwrite⟩ := hc
      rw [if_pos ⟨hregion, hexcl, hwrite⟩, Option.some_inj]
      exact ⟨fun hk => .inr ⟨h, hregion, beq_iff_eq.1 hexcl, hwrite, hk.symm⟩,
        fun hor => hor.elim (fun ⟨ht, _⟩ => absurd ht h) fun ⟨_, _, _, _, hk⟩ => hk.symm⟩
    · rw [if_neg hc]
      simp only [beq_iff_eq] at hc
      simp only [h, false_and, not_false_eq_true, true_and, false_or, reduceCtorEq, false_iff]
      exact fun ⟨hregion, hexcl, hwrite, _⟩ => hc ⟨hregion, hexcl, hwrite⟩

/-! ### The end of a set (R166) -/

/-- A port whose completed STRIP has sent it OFFLINE. -/
def Port.stripEnded (p : Port) : Port := { p with state := .offline, autoOffline := false, holding := 0 }

/-- Completed STRIPs send their FAILED ports OFFLINE where that is pending, and change nothing else (R31, R173). -/
theorem State.reportStrips_ports (cs : List Criterion) (s : State) :
    (∀ a, (∃ c ∈ cs, c.kind = .strip a) → (s.port a).state = .failed → (s.port a).autoOffline = true →
      (cs.foldl State.reportStrip s).port a = (s.port a).stripEnded) ∧
    (∀ a, (∀ c ∈ cs, c.kind ≠ .strip a) ∨ (s.port a).state ≠ .failed ∨ (s.port a).autoOffline = false →
      (cs.foldl State.reportStrip s).port a = s.port a) ∧
    cs.foldl State.reportStrip s = { s with ports := (cs.foldl State.reportStrip s).ports } := by
  induction cs generalizing s with
  | nil => exact ⟨fun a h => by simp at h, fun a _ => rfl, rfl⟩
  | cons c cs ih =>
    rw [List.foldl_cons]
    obtain ⟨hends, hkeeps, hrest⟩ := ih (s.reportStrip c)
    by_cases hc : ∃ b, c.kind = .strip b ∧ (s.port b).state = .failed ∧ (s.port b).autoOffline = true
    · obtain ⟨b, hkind, hfailed, hauto⟩ := hc
      have hstep : s.reportStrip c = s.setPort b (s.port b).stripEnded := by
        unfold State.reportStrip
        rw [hkind]
        dsimp only
        rw [if_pos (by simp [hfailed, hauto]), State.goOffline, State.modPort_eq]
        rfl
      rw [hstep] at hends hkeeps hrest ⊢
      generalize cs.foldl State.reportStrip (s.setPort b (s.port b).stripEnded) = t at hends hkeeps hrest
      have hb : t.port b = (s.port b).stripEnded := by
        rw [hkeeps b (.inr (.inl (by rw [State.setPort_port_same]; simp [Port.stripEnded]))), State.setPort_port_same]
      have hother : ∀ a, b ≠ a → (s.setPort b (s.port b).stripEnded).port a = s.port a := fun a hba =>
        State.setPort_port_ne s _ hba
      refine ⟨fun a hex hf hau => ?_, fun a hno => ?_, hrest⟩
      · by_cases hba : b = a
        · rw [← hba, hb]
        · obtain ⟨d, hd, hdk⟩ := hex
          have hmem : d ∈ cs := (List.mem_cons.1 hd).resolve_left fun hdc => by
            rw [hdc, hkind] at hdk
            cases hdk
            exact hba rfl
          rw [hends a ⟨d, hmem, hdk⟩ (by rw [hother a hba]; exact hf) (by rw [hother a hba]; exact hau), hother a hba]
      · have hba : b ≠ a := fun hba => by
          rcases hno with hno | hno | hno
          · exact hno c List.mem_cons_self (by rw [hkind, hba])
          · exact hno (by rw [← hba]; exact hfailed)
          · rw [← hba, hauto] at hno
            cases hno
        rw [hkeeps a (by rw [hother a hba]; exact hno.imp_left fun hno d hd => hno d (List.mem_cons_of_mem _ hd)), hother a hba]
    · have hstep : s.reportStrip c = s := by
        unfold State.reportStrip
        cases hkind : c.kind with
        | region => rfl
        | drain b => rfl
        | strip b =>
          refine if_neg fun hcond => hc ⟨b, hkind, ?_⟩
          simpa using hcond
      rw [hstep] at hends hkeeps hrest ⊢
      refine ⟨fun a hex hf hau => ?_, fun a hno => ?_, hrest⟩
      · obtain ⟨d, hd, hdk⟩ := hex
        rcases List.mem_cons.1 hd with rfl | hmem
        · exact absurd ⟨a, hdk, hf, hau⟩ hc
        · exact hends a ⟨d, hmem, hdk⟩ hf hau
      · exact hkeeps a (hno.imp_left fun hno d hd => hno d (List.mem_cons_of_mem _ hd))

/-! ### Criteria after a set (R166) -/

theorem Criterion.counted_kind (c : Criterion) : c.counted.kind = c.kind := by unfold Criterion.counted; split <;> rfl

theorem Criterion.counted_restart (c : Criterion) (next : SetNo) : c.counted.restart next = c.restart next := by
  unfold Criterion.counted Criterion.restart; split <;> rfl

section
variable {s : State} {next : SetNo} {c : Criterion}

theorem State.afterSet_counting (h : c.counted.remaining ≠ 0) : s.afterSet next c = some c.counted := by
  unfold State.afterSet
  exact if_pos (by simpa using h)

theorem State.afterSet_region (h : c.counted.remaining = 0) (hk : c.kind = .region) : s.afterSet next c = none := by
  unfold State.afterSet
  dsimp only
  rw [if_neg (by simp [h]), Criterion.counted_kind, hk]

theorem State.afterSet_drain (h : c.counted.remaining = 0) {a : Agent} (hk : c.kind = .drain a) : s.afterSet next c =
    if (s.port a).state = .draining ∧ (s.port a).holding ≠ 0 then some (c.restart next) else none := by
  unfold State.afterSet
  dsimp only
  rw [if_neg (by simp [h]), Criterion.counted_kind, hk, Criterion.counted_restart]
  simp

theorem State.afterSet_strip (h : c.counted.remaining = 0) {a : Agent} (hk : c.kind = .strip a) : s.afterSet next c =
    if (s.port a).holding = 0 then none else some (c.restart next) := by
  unfold State.afterSet
  dsimp only
  rw [if_neg (by simp [h]), Criterion.counted_kind, hk, Criterion.counted_restart]
  simp

end

/-- The reports of completed STRIPs leave the sweep alone. -/
theorem State.reportStrips_sweep (cs : List Criterion) (s : State) (w : Sweep) :
    cs.foldl State.reportStrip { s with sweep := w } = { cs.foldl State.reportStrip s with sweep := w } := by
  induction cs generalizing s with
  | nil => rfl
  | cons c cs ih =>
    have hstep : ({ s with sweep := w } : State).reportStrip c = { s.reportStrip c with sweep := w } := by
      unfold State.reportStrip
      cases c.kind with
      | region | drain b => rfl
      | strip b =>
        dsimp only
        by_cases hcond : ((s.port b).state == .failed && (s.port b).autoOffline) = true
        · rw [if_pos hcond]; exact if_pos hcond
        · rw [if_neg hcond]; exact if_neg hcond
    rw [List.foldl_cons, hstep, ih, List.foldl_cons]

/-- The sweep at the first way of the next set. -/
def Sweep.nextSweep (w : Sweep) (kept : List Criterion) : Sweep :=
  { w with cursor := nextSet w.cursor, way := 0, state := .processing, criteria := kept }

/-- The engine at the end of a set: at the next one, in GAP, or IDLE. -/
theorem State.finishSet_eq {s : State} {kept ended : List Criterion} {t : State}
    (hkept : s.sweep.criteria.filterMap (s.afterSet (nextSet s.sweep.cursor)) = kept)
    (hended : s.sweep.criteria.filter (fun c => (s.afterSet (nextSet s.sweep.cursor) c).isNone) = ended)
    (ht : ended.foldl State.reportStrip s = t) (hsettings : t.settings = s.settings) :
    s.finishSet = if kept = [] then ({ t with sweep := s.sweep.nextSweep [] } : State).sweepIdle
      else if s.sweep.cursor.toNat % 64 = 63 ∧ s.settings.sweepGap ≠ 0 then
        { t with sweep := { s.sweep.nextSweep kept with state := .gap, gapLeft := some s.settings.sweepGap.toNat } }
      else { t with sweep := s.sweep.nextSweep kept } := by
  unfold State.finishSet
  dsimp only
  rw [hkept, hended, State.reportStrips_sweep, ht]
  cases kept with
  | nil => rfl
  | cons c cs =>
    rw [if_neg (by simp), if_neg (by simp)]
    unfold State.enterGap
    rw [← hsettings]
    simp only [Bool.and_eq_true, beq_iff_eq, bne_iff_ne, ne_eq]
    rfl

/-- A sweep read of the last way that finds nothing to do finishes the set (R164, R166). -/
theorem State.sweepWay_finishes {s : State} (hrun : s.running = true) (hproc : s.sweep.state = .processing) (hway : s.sweep.way = 7)
    (hsound : s.soundSet s.sweep.cursor) (hlost : s.noLost s.sweep.cursor)
    (hfinds : s.wayLine s.sweep.cursor 7 = none ∨ ∃ l, s.wayLine s.sweep.cursor 7 = some l ∧ s.busy l = none ∧
      s.judgeLine l = [] ∧ s.failedListed l none = []) : s.sweepWay = s.finishSet := by
  have hnext : s.sweepNext = s.finishSet := if_pos (by simp [hway])
  rw [← hway] at hfinds
  rcases hfinds with hnone | ⟨l, hline, hidle, hjudge, hfailed⟩
  · rw [State.sweepWay_free hrun hproc hsound hlost hnone, hnext]
  · have hstrip : s.stripFailed l none = s := by
      unfold State.stripFailed
      rw [hfailed]
      exact ite_self _
    rw [State.sweepWay_idle hrun hproc hsound hlost hline hidle, State.sweepIdleLine_conforms hstrip hjudge, hnext]

/-- The reports of completed STRIPs end no departure. -/
theorem State.reportStrips_undrained {s : State} (h : s.undrained) (cs : List Criterion) : (cs.foldl State.reportStrip s).undrained := by
  obtain ⟨hends, hkeeps, -⟩ := State.reportStrips_ports cs s
  intro a
  by_cases ha : (∀ c ∈ cs, c.kind ≠ .strip a) ∨ (s.port a).state ≠ .failed ∨ (s.port a).autoOffline = false
  · rw [hkeeps a ha]
    exact h a
  · obtain ⟨hno, hor⟩ := not_or.1 ha
    obtain ⟨hfailed, hauto⟩ := not_or.1 hor
    have hex : ∃ c ∈ cs, c.kind = .strip a := by
      by_contra hall
      exact hno fun c hc hk => hall ⟨c, hc, hk⟩
    rw [hends a hex (not_not.1 hfailed) (by simpa using hauto)]
    exact Port.drained_state (by simp [Port.stripEnded])

/-- Settles O37: the recalls that a record's judgement calls for, and what the end of a set does to criteria and ports. -/
theorem sweepJudgesRecordsAndFinishesSets : Obligations.SweepJudgesRecordsAndFinishesSets := by
  refine ⟨fun s l r y k => ?_, ?_⟩
  · intro out thrown
    refine ⟨?_, State.judgeLine_absent, fun w hrec => State.judgeLine_listed hrec⟩
    rw [State.mem_judge, State.judgeAgent_iff]
    rfl
  · intro s h hrun hproc hway hsound hlost hfinds next again after kept
    have hafter : after = s.afterSet next := funext fun c => by
      obtain ⟨kind, j, n, skip⟩ := c
      cases skip with
      | true =>
        by_cases hz : n = 0
        · refine (if_pos hz).trans ?_
          cases kind with
          | region => exact (State.afterSet_region (c := ⟨.region, j, n, true⟩) hz rfl).symm
          | drain a => exact (State.afterSet_drain (c := ⟨.drain a, j, n, true⟩) hz rfl).symm
          | strip a => exact (State.afterSet_strip (c := ⟨.strip a, j, n, true⟩) hz rfl).symm
        · exact (if_neg hz).trans (State.afterSet_counting (c := ⟨kind, j, n, true⟩) hz).symm
      | false =>
        by_cases hz : n - 1 = 0
        · refine (if_pos hz).trans ?_
          cases kind with
          | region => exact (State.afterSet_region (c := ⟨.region, j, n, false⟩) hz rfl).symm
          | drain a => exact (State.afterSet_drain (c := ⟨.drain a, j, n, false⟩) hz rfl).symm
          | strip a => exact (State.afterSet_strip (c := ⟨.strip a, j, n, false⟩) hz rfl).symm
        · exact (if_neg hz).trans (State.afterSet_counting (c := ⟨kind, j, n, false⟩) hz).symm
    let ended := s.sweep.criteria.filter (fun c => (s.afterSet next c).isNone)
    let t : State := ended.foldl State.reportStrip s
    obtain ⟨hends, hkeeps, hrest⟩ := State.reportStrips_ports ended s
    have hrest' : t = { s with ports := t.ports } := hrest
    have hmem : ∀ c, c ∈ ended ↔ c ∈ s.sweep.criteria ∧ after c = none := fun c => by
      rw [hafter, List.mem_filter, Option.isNone_iff_eq_none]
    have hkept : s.sweep.criteria.filterMap (s.afterSet (nextSet s.sweep.cursor)) = kept := by
      show _ = s.sweep.criteria.filterMap after
      rw [hafter]
      rfl
    have hfinish := State.finishSet_eq (s := s) (t := t) hkept rfl rfl (by rw [hrest'])
    have hfound := State.sweepWay_finishes hrun hproc hway hsound hlost hfinds
    have halert : t.alertPending = s.alertPending := by rw [hrest']
    have hshape : ∃ w al, s.finishSet = { t with sweep := w, alertPending := al } ∧
        (kept = [] → w = { state := .idle, cursor := next, way := 0, criteria := [], gapLeft := none, claim := none } ∧
          al = s.alertPending ||| (1#12 <<< 8)) ∧
        (kept ≠ [] → s.sweep.cursor.toNat % 64 = 63 → s.settings.sweepGap ≠ 0 → al = s.alertPending ∧
          w = { s.sweep with state := .gap, cursor := next, way := 0, criteria := kept
                             gapLeft := some s.settings.sweepGap.toNat }) ∧
        (kept ≠ [] → (s.sweep.cursor.toNat % 64 ≠ 63 ∨ s.settings.sweepGap = 0) → al = s.alertPending ∧
          w = { s.sweep with state := .processing, cursor := next, way := 0, criteria := kept }) := by
      by_cases hnil : kept = []
      · rw [hfinish, if_pos hnil]
        exact ⟨_, _, rfl, fun _ => ⟨rfl, congrArg (· ||| (1#12 <<< 8)) halert⟩, fun hne => absurd hnil hne, fun hne => absurd hnil hne⟩
      · by_cases hgap : s.sweep.cursor.toNat % 64 = 63 ∧ s.settings.sweepGap ≠ 0
        · obtain ⟨hlast, hset⟩ := hgap
          rw [hfinish, if_neg hnil, if_pos ⟨hlast, hset⟩]
          exact ⟨_, _, rfl, fun heq => absurd heq hnil, fun _ _ _ => ⟨halert, rfl⟩,
            fun _ hor => (hor.elim (fun hne => hne hlast) fun heq => hset heq).elim⟩
        · rw [hfinish, if_neg hnil, if_neg hgap]
          exact ⟨_, _, rfl, fun heq => absurd heq hnil, fun _ hlast hset => absurd ⟨hlast, hset⟩ hgap, fun _ _ => ⟨halert, rfl⟩⟩
    obtain ⟨w, al, heq, hidle, hgap, hgoes⟩ := hshape
    have hdry : t.undrained := State.reportStrips_undrained (State.atRest_undrained h) ended
    have hatrest : State.atRest { t with sweep := w, alertPending := al } :=
      State.atRest_of_undrained h (State.undrained_congr (s := t) rfl hdry) (by rw [hrest']) (by rw [hrest'])
    refine ⟨{ t with sweep := w, alertPending := al }, ?_, fun a hex hf hau => ?_, fun a hno => ?_, hidle, fun hne hlast hset => ?_,
      fun hne hor => ?_, ?_⟩
    · rw [exec_sweepRead]
      exact State.event_atRest (State.atRest_resetPin h) (hfound.trans heq) hatrest
    · obtain ⟨c, hc, hk, hnone⟩ := hex
      exact hends a ⟨c, (hmem c).2 ⟨hc, hnone⟩, hk⟩ hf hau
    · refine hkeeps a (hno.imp_left fun hall c hc hk => ?_)
      obtain ⟨hin, hnone⟩ := (hmem c).1 hc
      exact hall c hin hk hnone
    · exact hgap hne hlast hset
    · exact hgoes hne hor
    · exact congrArg (fun q : State => { q with sweep := w, alertPending := al }) hrest'

end Sys2Proof.Machine
end

section
/-! SUPPORT. Verification word by word, and what a scrub read makes of it (R174 to R183). -/

namespace Sys2Proof.Machine

/-! ### One word among many -/

/-- A fold that one element of the list changes, and no other before or after it. -/
theorem foldl_one {α β : Type} {f : β → α → β} {s t : β} {l : List α} {w : α} (hnodup : l.Nodup) (hw : w ∈ l)
    (hbefore : ∀ v ∈ l, v ≠ w → f s v = s) (hstep : f s w = t) (hafter : ∀ v ∈ l, v ≠ w → f t v = t) : l.foldl f s = t := by
  induction l with
  | nil => cases hw
  | cons a l ih =>
    obtain ⟨hout, hnodup'⟩ := List.nodup_cons.1 hnodup
    rw [List.foldl_cons]
    by_cases ha : a = w
    · subst ha
      rw [hstep]
      exact foldl_fixed l fun v hv => hafter v (List.mem_cons_of_mem _ hv) fun hva => hout (hva ▸ hv)
    · rw [hbefore a List.mem_cons_self ha]
      exact ih hnodup' ((List.mem_cons.1 hw).resolve_left fun hwa => ha hwa.symm)
        (fun v hv => hbefore v (List.mem_cons_of_mem _ hv)) fun v hv => hafter v (List.mem_cons_of_mem _ hv)

theorem ways_nodup : ways.Nodup := by decide

/-! ### Counters (R175, R177) -/

/-- The soft counter after one more soft fault. -/
def Counters.softNext (c : Counters) : Nat := if c.soft < 65535 then c.soft + 1 else 65535

/-- The hard counter after one more hard fault. -/
def Counters.hardNext (c : Counters) : Nat := if c.hard < 255 then c.hard + 1 else 255

theorem State.softFault_eq (s : State) : s.softFault = { s with
    counters := { s.counters with soft := s.counters.softNext }
    alertPending := if s.settings.softThreshold.toNat ≤ s.counters.softNext then s.alertPending ||| (1#12 <<< 10)
      else s.alertPending } := by
  have hnext : satInc Config.counterMax s.counters.soft = s.counters.softNext := rfl
  unfold State.softFault
  dsimp only
  rw [hnext]
  split <;> rfl

theorem State.countHard_eq (s : State) :
    s.countHard = { s with counters := { s.counters with hard := s.counters.hardNext } } := rfl

/-! ### Words and their verification (R174, R175) -/

section
variable {s : State} {n : SetNo} {w : WayNo}

theorem State.verifyTags_good (h1 : (s.aset n).ways[w].tag1.flips = 0) (h2 : (s.aset n).ways[w].tag2.flips = 0) :
    State.verifyTags n s w = s := by
  unfold State.verifyTags Way.tagFaults
  rw [Coded.cond_good h1, Coded.cond_good h2]
  exact if_neg (by simp [WordCond.count])

theorem State.verifyState_good (h : (s.aset n).ways[w].state.flips = 0) (by_ : Option EntryNo) :
    State.verifyState by_ n s w = s := by
  unfold State.verifyState
  rw [Coded.cond_good h]
  split
  · rfl
  · exact ite_self _

theorem State.verifyOrder_good (h : (s.aset n).order.flips = 0) : s.verifyOrder n = s := by
  unfold State.verifyOrder
  rw [Coded.cond_good h]

theorem State.tagLostWay_none (h : ∀ v : WayNo, (s.aset n).ways[v].tag1.flips = 0 ∨ (s.aset n).ways[v].tag2.flips = 0) :
    s.tagLostWay n = none := by
  refine List.find?_eq_none.2 fun v _ => ?_
  unfold Way.tagLost
  rcases h v with hv | hv <;> rw [Coded.cond_good hv] <;> simp

/-- Verification where no tag is lost: tag copies, then the header, then the state parts that the claim needs. -/
theorem State.verifySet_unlost (h : s.tagLostWay n = none) {t u : State} (htags : ways.foldl (State.verifyTags n) s = t)
    (horder : t.verifyOrder n = u) (by_ : Option EntryNo) :
    s.claimAll by_ n = (u.inUseWays n).foldl (State.verifyState by_ n) u := by
  unfold State.claimAll State.verifySet
  rw [h]
  dsimp only
  rw [htags, horder]

theorem State.inUseWays_iff : w ∈ s.inUseWays n ↔ (s.wayTag n w).isSome = true := by
  unfold State.inUseWays
  simp [mem_ways]

/-- Verification that meets one damaged state part. -/
theorem State.claimAll_oneState {t : State} {by_ : Option EntryNo} (htags : s.tagsSound n) (huse : (s.wayTag n w).isSome = true)
    (hothers : ∀ v : WayNo, v ≠ w → (s.aset n).ways[v].state.flips = 0) (hstep : State.verifyState by_ n s w = t)
    (hafter : ∀ v : WayNo, v ≠ w → (t.aset n).ways[v].state.flips = 0) : s.claimAll by_ n = t := by
  unfold State.claimAll
  rw [State.verifySet_tags htags]
  exact foldl_one (State.inUseWays_nodup s n) (State.inUseWays_iff.2 huse) (fun v _ hv => State.verifyState_good (hothers v hv) by_) hstep
    fun v _ hv => State.verifyState_good (hafter v hv) by_

end

/-! ### The scrubber (R183) -/

/-- The scrubber that has read a set. -/
def State.scrubMoved (s : State) : Scrub where
  cursor := s.scrub.cursor + 1
  passes := if s.scrub.cursor = 2047 then s.scrub.passes + 1 else s.scrub.passes
  timer := some s.settings.scrubInterval.toNat

theorem State.scrubReady_iff {s : State} (h : s.scrubReady) : s.atRest ∧ s.running = true ∧ s.scrub.timer ≠ none ∧
    s.settings.scrubEnable = true ∧ s.settings.scrubInterval ≠ 0 := by
  simp only [State.scrubReady, Bool.and_eq_true, bne_iff_ne, ne_eq, Option.isSome_iff_ne_none] at h
  obtain ⟨⟨⟨⟨hrest, hrun⟩, htimer⟩, hen⟩, hint⟩ := h
  exact ⟨hrest, hrun, htimer, hen, hint⟩

/-- A scrub read that leaves the unit RUNNING: what its claim and the REBUILD claims leave, and the scrubber moved on. -/
theorem exec_scrub_reads {s t u : State} (h : s.scrubReady) (hclaim : s.claimAll none s.scrub.cursor = t)
    (htrun : t.running = true) (hrebuild : t.claimRebuilds s.scrub.cursor = u)
    (hkeep : u = { s with
      sets := u.sets, marks := u.marks, rebuildClaims := u.rebuildClaims, counters := u.counters
      alertPending := u.alertPending, capture := u.capture }) :
    exec .scrubIntervalExpiry s = .next { u with scrub := s.scrubMoved } := by
  obtain ⟨hrest, hrun, htimer, hen, hint⟩ := State.scrubReady_iff h
  have hscrub : u.scrub = s.scrub := by rw [hkeep]
  have hset : u.settings = s.settings := by rw [hkeep]
  have hurun : u.running = true := by rw [hkeep]; exact hrun
  have hlast : (s.scrub.cursor == BitVec.allOnes 11) = decide (s.scrub.cursor = 2047) := rfl
  have hatrest : State.atRest { u with scrub := s.scrubMoved } :=
    State.atRest_of_undrained hrest (State.undrained_congr (s := s) (show u.ports = s.ports by rw [hkeep]) (State.atRest_undrained hrest))
      (show u.work = s.work by rw [hkeep]) (show u.resetPin = s.resetPin by rw [hkeep])
  rw [exec_scrubIntervalExpiry]
  refine State.event_atRest (State.atRest_resetPin hrest) ?_ hatrest
  unfold State.scrubExpires
  rw [if_neg (by simp [hrun, Option.isNone_iff_eq_none, htimer])]
  dsimp only
  rw [hclaim, if_neg (by simp [htrun]), hrebuild, hlast, hscrub]
  simp only [decide_eq_true_eq]
  have hruns := State.refreshScrub_runs (s := { u with scrub := { s.scrubMoved with timer := none } })
    ⟨hurun, (congrArg Settings.scrubEnable hset).trans hen, fun hz => hint (by rw [← hset]; exact hz)⟩
  refine hruns.trans ?_
  unfold State.scrubMoved
  rw [← hset]
  rfl

end Sys2Proof.Machine
end

section
/-! SUPPORT. What verification makes of each kind of damaged word (R175 to R180). -/

namespace Sys2Proof.Machine

/-- A set with one way rewritten. -/
def ASet.withWay (x : ASet) (w : WayNo) (y : Way) : ASet := { x with ways := x.ways.set w y }

theorem ASet.withWay_same (x : ASet) (w : WayNo) (y : Way) : (x.withWay w y).ways[w] = y :=
  (ways_set _ _ _ _).trans (if_pos rfl)

theorem ASet.withWay_ne (x : ASet) {w v : WayNo} (y : Way) (h : v ≠ w) : (x.withWay w y).ways[v] = x.ways[v] :=
  (ways_set _ _ _ _).trans (if_neg fun hwv => h hwv.symm)

/-- A way whose state part is rewritten as it was, and one whose tag copies are both rewritten from the first. -/
def Way.freshState (y : Way) : Way := { y with state := ⟨y.state.value, 0⟩ }
def Way.freshTags (y : Way) : Way := { y with tag1 := ⟨y.tag1.value, 0⟩, tag2 := ⟨y.tag1.value, 0⟩ }

section
variable {s : State} {n : SetNo} {w : WayNo}

theorem Way.sound_iff {y : Way} : y.sound = true ↔ y.tag1.flips = 0 ∧ y.tag2.flips = 0 ∧ y.state.flips = 0 := by
  simp only [Way.sound, Bool.and_eq_true, beq_iff_eq, and_assoc]

/-- A word that is not good counts as one fault. -/
theorem Coded.count_bad {α : Type} {k : Nat} {c : Coded α k} (h : c.flips ≠ 0) : c.cond.count = 1 := by
  unfold Coded.cond flipCond
  rw [if_neg h]
  split <;> rfl

/-! ### Soft faults (R175) -/

/-- A flipped bit of a state part: the word is rewritten as it was. -/
theorem State.claimAll_softState (h : s.arrayLawful) (htags : s.tagsSound n) (hlost : s.noLost n)
    (huse : (s.wayTag n w).isSome = true) (hflip : oneFlip (s.aset n).ways[w].state.flips)
    (hothers : ∀ v : WayNo, v ≠ w → (s.aset n).ways[v].state.flips = 0) : s.claimAll none n =
      (s.putSet n ((s.aset n).withWay w (s.aset n).ways[w].freshState)).softFault := by
  obtain ⟨t, ht⟩ := Option.isSome_iff_exists.1 huse
  refine State.claimAll_oneState htags huse hothers ?_ fun v hv => ?_
  · unfold State.verifyState State.wayLine
    rw [ht, Option.map_some]
    dsimp only
    rw [State.noLost_iff.1 hlost w, if_neg (by decide), Coded.cond, flipCond_oneFlip hflip]
    rfl
  · rw [State.softFault_eq]
    show (State.aset (s.putSet n _) n).ways[v].state.flips = 0
    rw [State.putSet_aset_same h, ASet.withWay_ne _ _ hv]
    exact hothers v hv

/-- One damaged tag copy: both copies are rewritten from the tag. -/
theorem State.claimAll_softTag (h : s.arrayLawful) (hen : (s.mark n w).disable = false)
    (hbad : ((s.aset n).ways[w].tag1.flips ≠ 0 ∧ (s.aset n).ways[w].tag2.flips = 0) ∨
      ((s.aset n).ways[w].tag1.flips = 0 ∧ (s.aset n).ways[w].tag2.flips ≠ 0))
    (hstate : (s.aset n).ways[w].state.flips = 0) (hothers : ∀ v : WayNo, v ≠ w → (s.aset n).ways[v].sound = true)
    (horder : (s.aset n).order.flips = 0) : s.claimAll none n =
      (s.putSet n ((s.aset n).withWay w (s.aset n).ways[w].freshTags)).softFault := by
  have hgood : ∀ v : WayNo, v ≠ w → (s.aset n).ways[v].tag1.flips = 0 ∧ (s.aset n).ways[v].tag2.flips = 0 ∧
      (s.aset n).ways[v].state.flips = 0 := fun v hv => Way.sound_iff.1 (hothers v hv)
  have htag : (s.aset n).ways[w].tag = (s.aset n).ways[w].tag1.value := Way.tag_lawful ((h.1 n).1 w)
  have hcount : (s.aset n).ways[w].tagFaults = 1 := by
    unfold Way.tagFaults
    rcases hbad with ⟨h1, h2⟩ | ⟨h1, h2⟩
    · rw [Coded.cond_good h2, Coded.count_bad h1]; rfl
    · rw [Coded.cond_good h1, Coded.count_bad h2]; rfl
  let x : ASet := (s.aset n).withWay w (s.aset n).ways[w].freshTags
  let t : State := (s.putSet n x).softFault
  have htaset : t.aset n = x := by
    show (s.putSet n x).softFault.aset n = x
    rw [State.softFault_eq]
    exact State.putSet_aset_same h n x
  have htway : ∀ v : WayNo, v ≠ w → (t.aset n).ways[v] = (s.aset n).ways[v] := fun v hv => by
    rw [htaset]
    exact ASet.withWay_ne _ _ hv
  have hnone : s.tagLostWay n = none := State.tagLostWay_none fun v => by
    by_cases hv : v = w
    · rw [hv]
      exact hbad.elim (fun hb => .inr hb.2) fun hb => .inl hb.1
    · exact .inl (hgood v hv).1
  have hstep : State.verifyTags n s w = t := by
    unfold State.verifyTags
    rw [hcount, State.enabled, hen, if_pos (by decide)]
    unfold State.modWay Way.repairTags
    dsimp only
    rw [htag]
    rfl
  have hfold : ways.foldl (State.verifyTags n) s = t := foldl_one ways_nodup (mem_ways w)
    (fun v _ hv => State.verifyTags_good (hgood v hv).1 (hgood v hv).2.1) hstep
    fun v _ hv => State.verifyTags_good (by rw [htway v hv]; exact (hgood v hv).1) (by rw [htway v hv]; exact (hgood v hv).2.1)
  rw [State.verifySet_unlost hnone hfold (State.verifyOrder_good (by rw [htaset]; exact horder))]
  refine foldl_fixed _ fun v _ => State.verifyState_good ?_ none
  by_cases hv : v = w
  · rw [hv, htaset]
    exact (congrArg (fun y : Way => y.state.flips) (ASet.withWay_same _ _ _)).trans hstate
  · rw [htway v hv]
    exact (hgood v hv).2.2

/-- A damaged header of a set whose ways are good. -/
theorem State.claimAll_order {y : ASet} {t : State} (hways : ∀ v : WayNo, (s.aset n).ways[v].sound = true)
    (horder : s.verifyOrder n = t) (htaset : t.aset n = y) (hy : y.ways = (s.aset n).ways) : s.claimAll none n = t := by
  have hgood : ∀ v : WayNo, (s.aset n).ways[v].tag1.flips = 0 ∧ (s.aset n).ways[v].tag2.flips = 0 ∧
      (s.aset n).ways[v].state.flips = 0 := fun v => Way.sound_iff.1 (hways v)
  have hfold : ways.foldl (State.verifyTags n) s = s := foldl_fixed _ fun v _ => State.verifyTags_good (hgood v).1 (hgood v).2.1
  rw [State.verifySet_unlost (State.tagLostWay_none fun v => .inl (hgood v).1) hfold horder]
  refine foldl_fixed _ fun v _ => State.verifyState_good ?_ none
  rw [htaset, hy]
  exact (hgood v).2.2

/-! ### Lost state parts (R177, R178) -/

/-- A state part of an idle line found lost. -/
theorem State.claimAll_lost {l : Line} (htags : s.tagsSound n) (hlost : s.noLost n) (hline : s.wayLine n w = some l)
    (hflips : manyFlips (s.aset n).ways[w].state.flips) (hothers : ∀ v : WayNo, v ≠ w → (s.aset n).ways[v].state.flips = 0)
    (hidle : s.busy l = none) : s.claimAll none n = s.loseState none n w l := by
  have hsets : (s.loseState none n w l).sets = s.sets := by
    obtain ⟨-, -, -, -, -, -, hsets, -⟩ := State.report_parts (s.putMark n w { s.mark n w with
      lost := true, strike := true, due := (s.mark n w).due || (s.mark n w).strike }).countHard
      { Report.blank .hardCheck s.unitTime with set := some n, way := some w, line := some l, entry := none }
    exact hsets
  refine State.claimAll_oneState htags (by rw [State.wayTag_wayLine hline]; rfl) hothers ?_ fun v hv => ?_
  · unfold State.verifyState
    rw [hline]
    dsimp only
    rw [State.noLost_iff.1 hlost w, if_neg (by decide), Coded.cond, flipCond_manyFlips hflips]
    dsimp only
    rw [hidle]
  · rw [State.aset_congr hsets]
    exact hothers v hv

/-- A state part of a busy line found lost, with a copy to write it from. -/
theorem State.claimAll_repaired {l : Line} {e : EntryNo} {r : Rec} (h : s.arrayLawful) (htags : s.tagsSound n) (hlost : s.noLost n)
    (hline : s.wayLine n w = some l) (hflips : manyFlips (s.aset n).ways[w].state.flips)
    (hothers : ∀ v : WayNo, v ≠ w → (s.aset n).ways[v].state.flips = 0) (hbusy : s.busy l = some e)
    (hphase : (s.entry e).phase ≠ .starting) (hrebuild : (s.entry e).rebuild = false) (hcopy : (s.entry e).copy = some r) :
    s.claimAll none n = (((s.putSet n ((s.aset n).withWay w { (s.aset n).ways[w] with state := ⟨r, 0⟩ })).putMark n w
      { s.mark n w with strike := true }).countHard).reportHard n w l (some e) := by
  let u : State := s.putSet n ((s.aset n).withWay w { (s.aset n).ways[w] with state := ⟨r, 0⟩ })
  let b : State := (u.putMark n w { s.mark n w with strike := true }).countHard
  have hsets : (b.reportHard n w l (some e)).sets = u.sets := by
    obtain ⟨-, -, -, -, -, -, hsets, -⟩ := State.report_parts b
      { Report.blank .hardCheck b.unitTime with set := some n, way := some w, line := some l, entry := some (entryByte e) }
    exact hsets
  refine State.claimAll_oneState htags (by rw [State.wayTag_wayLine hline]; rfl) hothers ?_ fun v hv => ?_
  · unfold State.verifyState
    rw [hline]
    dsimp only
    rw [State.noLost_iff.1 hlost w, if_neg (by decide), Coded.cond, flipCond_manyFlips hflips]
    dsimp only
    rw [hbusy]
    dsimp only
    rw [if_neg (by simp [hphase, hrebuild])]
    unfold State.repairState
    rw [hcopy]
    rfl
  · rw [State.aset_congr hsets, State.putSet_aset_same h, ASet.withWay_ne _ _ hv]
    exact hothers v hv

/-- A way's line depends on its disable mark alone of its marks. -/
theorem State.wayLine_putMark (h : s.arrayLawful) {m : Marks} (hm : m.disable = (s.mark n w).disable) (v : WayNo) :
    (s.putMark n w m).wayLine n v = s.wayLine n v := by
  obtain ⟨-, -, -, hwf⟩ := h
  have hen : (s.putMark n w m).enabled n v = s.enabled n v := by
    unfold State.enabled
    rw [State.putMark_mark hwf]
    split
    · next hv => rw [hm, hv.2]
    · rfl
  unfold State.wayLine State.wayTag
  rw [hen]
  rfl

/-- One way of a set is lost: its REBUILD claim is made. -/
theorem State.claimRebuilds_one {l : Line} (hline : s.wayLine n w = some l) (hlost : s.isLost n w = true)
    (hothers : ∀ v, v ≠ w → s.isLost n v = false) (hidle : s.busy l = none)
    (hnew : ∀ c ∈ s.rebuildClaims, ¬ (c.set = n ∧ c.way = w)) :
    s.claimRebuilds n = { s with rebuildClaims := s.rebuildClaims ++ [{ line := l, set := n, way := w }] } := by
  have hstep : s.claimRebuild l n w = { s with rebuildClaims := s.rebuildClaims ++ [{ line := l, set := n, way := w }] } :=
    if_neg fun hany => by
      obtain ⟨c, hc, hcw⟩ := List.any_eq_true.1 hany
      simp only [Bool.and_eq_true, beq_iff_eq] at hcw
      exact hnew c hc hcw
  have hrebuilding : s.rebuilding l = false := by
    unfold State.rebuilding
    rw [hidle]
  have hother : ∀ (t : State), t.marks = s.marks → ∀ v, v ≠ w → t.isLost n v = false := fun t ht v hv =>
    (congrArg Marks.lost (State.mark_congr ht n v)).trans (hothers v hv)
  unfold State.claimRebuilds
  refine foldl_one ways_nodup (mem_ways w) (fun v _ hv => ?_) ?_ fun v _ hv => ?_
  · rw [hother s rfl v hv]
    split <;> rfl
  · rw [hline, hlost]
    dsimp only
    rw [hrebuilding]
    exact hstep
  · rw [hother { s with rebuildClaims := s.rebuildClaims ++ [{ line := l, set := n, way := w }] } rfl v hv]
    split <;> rfl

/-- A lost tag is the first thing that a claim finds (R176). -/
theorem State.claimAll_tagLost (hen : (s.mark n w).disable = false) (h1 : manyFlips (s.aset n).ways[w].tag1.flips)
    (h2 : manyFlips (s.aset n).ways[w].tag2.flips) (hbefore : ∀ v : WayNo, v < w → ((s.aset n).ways[v]).sound = true) :
    s.claimAll none n = s.enterLost n w := by
  have hfind : s.tagLostWay n = some w := by
    refine (find?_eq_least (by decide) mem_ways w).2 ⟨?_, fun v hv => ?_⟩
    · unfold State.enabled Way.tagLost Coded.cond
      rw [hen, flipCond_manyFlips h1, flipCond_manyFlips h2]
      rfl
    · obtain ⟨hv1, -, -⟩ := Way.sound_iff.1 (hbefore v hv)
      unfold Way.tagLost
      rw [Coded.cond_good hv1]
      simp
  unfold State.claimAll State.verifySet
  rw [hfind]

end

end Sys2Proof.Machine
end

section
/-! Damaged words met by a scrub read, settled. -/

namespace Sys2Proof.Machine

/-- A report, with the scrubber and the REBUILD claims set after it or before it. -/
theorem State.report_scrub (s : State) (r : Report) (w : Scrub) (c : List RebuildClaim) :
    { s.report r with scrub := w, rebuildClaims := c } = ({ s with scrub := w, rebuildClaims := c } : State).report r := by
  unfold State.report
  cases s.capture <;> rfl

section
variable {s : State} (h : s.scrubReady) (harray : s.arrayLawful) (hlost : s.noLost s.scrub.cursor)
include h harray hlost

/-- A scrub read that ends in a soft fault, with one set rewritten. -/
theorem exec_scrub_soft {x : ASet} (hclaim : s.claimAll none s.scrub.cursor = (s.putSet s.scrub.cursor x).softFault) :
    ∃ t, exec .scrubIntervalExpiry s = .next t ∧ t.aset s.scrub.cursor = x ∧ (∀ k, k ≠ s.scrub.cursor → t.aset k = s.aset k) ∧
      t = { s with
        sets := t.sets, scrub := s.scrubMoved, counters := { s.counters with soft := s.counters.softNext }
        alertPending := if s.settings.softThreshold.toNat ≤ s.counters.softNext then s.alertPending ||| (1#12 <<< 10)
          else s.alertPending } := by
  obtain ⟨-, hrun, -⟩ := State.scrubReady_iff h
  rw [State.softFault_eq] at hclaim
  have hexec := exec_scrub_reads h hclaim hrun (State.claimRebuilds_none (by exact hlost)) rfl
  exact ⟨_, hexec, State.putSet_aset_same harray _ x, fun k hk => State.putSet_aset_ne harray _ x hk, rfl⟩

/-- A scrub read that ends in a hard fault of the set header. -/
theorem exec_scrub_order {x : ASet} (hclaim : s.claimAll none s.scrub.cursor = (s.putSet s.scrub.cursor x).countHard) :
    ∃ t, exec .scrubIntervalExpiry s = .next t ∧ t.aset s.scrub.cursor = x ∧ (∀ k, k ≠ s.scrub.cursor → t.aset k = s.aset k) ∧
      t = { s with
        sets := t.sets, scrub := s.scrubMoved, counters := { s.counters with hard := s.counters.hardNext } } := by
  obtain ⟨-, hrun, -⟩ := State.scrubReady_iff h
  have hexec := exec_scrub_reads h hclaim hrun (State.claimRebuilds_none (by exact hlost)) rfl
  exact ⟨_, hexec, State.putSet_aset_same harray _ x, fun k hk => State.putSet_aset_ne harray _ x hk, rfl⟩

/-- A scrub read that finds an idle line's state part lost. -/
theorem exec_scrub_loses {l : Line} {w : WayNo} (hclaim : s.claimAll none s.scrub.cursor = s.loseState none s.scrub.cursor w l)
    (hline : s.wayLine s.scrub.cursor w = some l) (hidle : s.busy l = none)
    (hnew : ∀ c ∈ s.rebuildClaims, ¬ (c.set = s.scrub.cursor ∧ c.way = w)) :
    ∃ t, exec .scrubIntervalExpiry s = .next t ∧
      t.mark s.scrub.cursor w = { strike := true, disable := (s.mark s.scrub.cursor w).disable, lost := true
                                  due := (s.mark s.scrub.cursor w).due || (s.mark s.scrub.cursor w).strike } ∧
      (∀ k v, (k, v) ≠ (s.scrub.cursor, w) → t.mark k v = s.mark k v) ∧
      t = ({ s with
        marks := t.marks, rebuildClaims := s.rebuildClaims ++ [{ line := l, set := s.scrub.cursor, way := w }]
        scrub := s.scrubMoved, counters := { s.counters with hard := s.counters.hardNext } } : State).report
          { kind := .hardCheck, sub := none, agent := none, line := some l, set := some s.scrub.cursor, way := some w
            entry := none, time := s.unitTime } := by
  obtain ⟨-, hrun, -⟩ := State.scrubReady_iff h
  let n := s.scrub.cursor
  let m : Marks := { s.mark n w with lost := true, strike := true, due := (s.mark n w).due || (s.mark n w).strike }
  let r : Report := { kind := .hardCheck, sub := none, agent := none, line := some l, set := some n, way := some w
                      entry := none, time := s.unitTime }
  let b : State := (s.putMark n w m).countHard
  let t : State := b.report r
  obtain ⟨c, v, u, hframe⟩ := b.report_frame r
  have hmark : ∀ k v, t.mark k v = if n = k ∧ w = v then m else s.mark k v := fun k v => by
    rw [show t = _ from hframe]
    exact State.putMark_mark harray.2.2.2 n k w v m
  have htline : t.wayLine n w = some l := by
    rw [show t = _ from hframe]
    exact (State.wayLine_putMark (m := m) harray rfl w).trans hline
  have hrebuild : t.claimRebuilds n = { t with rebuildClaims := s.rebuildClaims ++ [{ line := l, set := n, way := w }] } := by
    have hclaims : t.rebuildClaims = s.rebuildClaims := by rw [show t = _ from hframe]; rfl
    rw [← hclaims]
    refine State.claimRebuilds_one htline ?_ (fun v hv => ?_) ?_ (by rw [hclaims]; exact hnew)
    · exact congrArg Marks.lost ((hmark n w).trans (if_pos ⟨rfl, rfl⟩))
    · exact (congrArg Marks.lost ((hmark n v).trans (if_neg fun hnv => hv hnv.2.symm))).trans (State.noLost_iff.1 hlost v)
    · rw [State.busy_congr (s := s) (t := t) (by rw [show t = _ from hframe]; rfl)]
      exact hidle
  have hexec := exec_scrub_reads h hclaim ((State.report_running b r).trans hrun) hrebuild (by rw [show t = _ from hframe]; rfl)
  refine ⟨_, hexec, ?_, fun k v hkv => ?_, ?_⟩
  · exact (hmark n w).trans (if_pos ⟨rfl, rfl⟩)
  · refine (hmark k v).trans (if_neg ?_)
    rintro ⟨rfl, rfl⟩
    exact hkv rfl
  · have hmarks : t.marks = b.marks := by rw [show t = _ from hframe]
    refine (State.report_scrub b r s.scrubMoved _).trans ?_
    exact congrArg (fun q => State.report { s with
      marks := q, rebuildClaims := s.rebuildClaims ++ [{ line := l, set := n, way := w }]
      scrub := s.scrubMoved, counters := { s.counters with hard := s.counters.hardNext } } r) hmarks.symm

/-- A scrub read that writes a busy line's lost state part from its entry's copy. -/
theorem exec_scrub_repairs {x : ASet} {l : Line} {w : WayNo} {e : EntryNo} (hclaim : s.claimAll none s.scrub.cursor =
      (((s.putSet s.scrub.cursor x).putMark s.scrub.cursor w { s.mark s.scrub.cursor w with strike := true }).countHard).reportHard
        s.scrub.cursor w l (some e)) :
    ∃ t, exec .scrubIntervalExpiry s = .next t ∧ t.aset s.scrub.cursor = x ∧ (∀ k, k ≠ s.scrub.cursor → t.aset k = s.aset k) ∧
      t.mark s.scrub.cursor w = { s.mark s.scrub.cursor w with strike := true } ∧
      (∀ k v, (k, v) ≠ (s.scrub.cursor, w) → t.mark k v = s.mark k v) ∧
      t = ({ s with
        sets := t.sets, marks := t.marks, scrub := s.scrubMoved
        counters := { s.counters with hard := s.counters.hardNext } } : State).report
          { kind := .hardCheck, sub := none, agent := none, line := some l, set := some s.scrub.cursor, way := some w
            entry := some (entryByte e), time := s.unitTime } := by
  obtain ⟨-, hrun, -⟩ := State.scrubReady_iff h
  let n := s.scrub.cursor
  let m : Marks := { s.mark n w with strike := true }
  let r : Report := { kind := .hardCheck, sub := none, agent := none, line := some l, set := some n, way := some w
                      entry := some (entryByte e), time := s.unitTime }
  let b : State := ((s.putSet n x).putMark n w m).countHard
  let t : State := b.report r
  obtain ⟨c, v, u, hframe⟩ := b.report_frame r
  have hmark : ∀ k v, t.mark k v = if n = k ∧ w = v then m else s.mark k v := fun k v => by
    rw [show t = _ from hframe]
    exact State.putMark_mark harray.2.2.2 n k w v m
  have hnone : t.noLost n := State.noLost_iff.2 fun v => by
    refine (congrArg Marks.lost (hmark n v)).trans ?_
    split
    · next hv =>
      obtain ⟨-, rfl⟩ := hv
      exact State.noLost_iff.1 hlost w
    · exact State.noLost_iff.1 hlost v
  have hkeep : t = { s with
      sets := t.sets, marks := t.marks, rebuildClaims := t.rebuildClaims, counters := t.counters
      alertPending := t.alertPending, capture := t.capture } := by rw [show t = _ from hframe]; rfl
  have hexec := exec_scrub_reads (t := t) h hclaim ((State.report_running b r).trans hrun) (State.claimRebuilds_none hnone) hkeep
  have hsets : t.sets = b.sets := by rw [show t = _ from hframe]
  have hmarks : t.marks = b.marks := by rw [show t = _ from hframe]
  refine ⟨_, hexec, ?_, fun k hk => ?_, ?_, fun k v hkv => ?_, ?_⟩
  · exact (State.aset_congr (s := s.putSet n x) hsets n).trans (State.putSet_aset_same harray n x)
  · exact (State.aset_congr (s := s.putSet n x) hsets k).trans (State.putSet_aset_ne harray n x hk)
  · exact (hmark n w).trans (if_pos ⟨rfl, rfl⟩)
  · refine (hmark k v).trans (if_neg ?_)
    rintro ⟨rfl, rfl⟩
    exact hkv rfl
  · have hclaims : t.rebuildClaims = s.rebuildClaims := by rw [show t = _ from hframe]; rfl
    refine Eq.trans ?_ ((State.report_scrub b r s.scrubMoved s.rebuildClaims).trans ?_)
    · rw [← hclaims]
    · show ({ b with sets := b.sets, marks := b.marks, scrub := s.scrubMoved } : State).report r = _
      rw [← hsets, ← hmarks]
      rfl

end

/-- The reading of a set whose tags are lost puts the unit in LOST (R22, R176). -/
theorem exec_scrub_tagLost {s : State} {w : WayNo} (h : s.scrubReady)
    (hclaim : s.claimAll none s.scrub.cursor = s.enterLost s.scrub.cursor w) :
    exec .scrubIntervalExpiry s = .next (s.enterLost s.scrub.cursor w) := by
  obtain ⟨hrest, hrun, htimer, -⟩ := State.scrubReady_iff h
  let b : State := ({ s.dropAllWork with
    ports := s.ports.map (fun (p : Port) => if p.attached then p.close else p)
    unitState := .lost, scrub := { s.scrub with timer := none } } : State).raise alertLost
  have hdry : b.undrained := fun a => by
    rw [show b.port a = if (s.port a).attached then (s.port a).close else s.port a from Vector.getElem_map _ _]
    split
    · exact Port.drained_state (by simp [Port.close])
    · exact State.atRest_undrained hrest a
  have hatrest : b.atRest := State.atRest_iff.2 ⟨State.atRest_resetPin (s := s) hrest, rfl, hdry⟩
  rw [exec_scrubIntervalExpiry]
  refine State.event_atRest (State.atRest_resetPin hrest) ?_ (State.report_atRest (s := b) hatrest _)
  unfold State.scrubExpires
  rw [if_neg (by simp [hrun, Option.isNone_iff_eq_none, htimer])]
  dsimp only
  rw [hclaim]
  exact if_pos (by rw [show (s.enterLost s.scrub.cursor w).running = b.running from State.report_running b _]; rfl)

/-- Settles O38: each damaged word is rewritten, its record marked lost, or the unit put in LOST. -/
theorem damagedWordsAreRepairedOrLost : Obligations.DamagedWordsAreRepairedOrLost := by
  intro w s h hlawful hlost n y soft hard moved others softened checked
  have harray := hlawful.1
  have hgood : others → ∀ v : WayNo, v ≠ w → (s.aset n).ways[v].tag1.flips = 0 ∧ (s.aset n).ways[v].tag2.flips = 0 ∧
      (s.aset n).ways[v].state.flips = 0 := fun ho v hv => Way.sound_iff.1 (ho v hv)
  have htags : others → y.tag1.flips = 0 → y.tag2.flips = 0 → (s.aset n).order.flips = 0 → s.tagsSound n := fun ho h1 h2 horder =>
    State.tagsSound_iff.2 ⟨fun v => by
      by_cases hv : v = w
      · rw [hv]
        exact ⟨h1, h2⟩
      · exact ⟨(hgood ho v hv).1, (hgood ho v hv).2.1⟩, horder⟩
  have hstates : others → ∀ v : WayNo, v ≠ w → (s.aset n).ways[v].state.flips = 0 := fun ho v hv => (hgood ho v hv).2.2
  have hall : y.sound = true → others → ∀ v : WayNo, (s.aset n).ways[v].sound = true := fun hy ho v => by
    by_cases hv : v = w
    · rw [hv]
      exact hy
    · exact ho v hv
  refine ⟨fun hflip h1 h2 huse ho horder => ?_, fun hbad hstate hen ho horder => ?_, fun hy ho hflip => ?_, fun hy ho hflips => ?_,
    fun l hflips h1 h2 hline ho horder hidle hnew => ?_, fun l e r hflips h1 h2 hline ho horder hbusy hphase hrebuild hcopy => ?_,
    fun h1 h2 hen hbefore => ?_⟩
  · exact exec_scrub_soft h harray hlost (State.claimAll_softState harray (htags ho h1 h2 horder) hlost huse hflip (hstates ho))
  · exact exec_scrub_soft h harray hlost (State.claimAll_softTag harray hen hbad hstate ho horder)
  · let x : ASet := { s.aset n with order := ⟨(s.aset n).order.value, 0⟩ }
    refine exec_scrub_soft h harray hlost (x := x) (State.claimAll_order (y := x) (hall hy ho) ?_ ?_ rfl)
    · unfold State.verifyOrder Coded.cond
      rw [flipCond_oneFlip hflip]
      rfl
    · rw [State.softFault_eq]
      exact State.putSet_aset_same harray n x
  · let x : ASet := { s.aset n with order := ⟨s.inUseWays n, 0⟩ }
    refine exec_scrub_order h harray hlost (x := x) (State.claimAll_order (y := x) (hall hy ho) ?_ ?_ rfl)
    · unfold State.verifyOrder Coded.cond
      rw [flipCond_manyFlips hflips]
      rfl
    · exact State.putSet_aset_same harray n x
  · obtain ⟨t, hexec, hmark, hmarks, ht⟩ := exec_scrub_loses h harray hlost
      (State.claimAll_lost (htags ho h1 h2 horder) hlost hline hflips (hstates ho) hidle) hline hidle hnew
    exact ⟨t, hexec, hmark, hmarks, ht⟩
  · exact exec_scrub_repairs h harray hlost
      (State.claimAll_repaired harray (htags ho h1 h2 horder) hlost hline hflips (hstates ho) hbusy hphase hrebuild hcopy)
  · obtain ⟨hrest, -⟩ := State.scrubReady_iff h
    let b : State := ({ s.dropAllWork with
      ports := s.ports.map (fun (p : Port) => if p.attached then p.close else p)
      unitState := .lost, scrub := { s.scrub with timer := none } } : State).raise alertLost
    let r : Report := { kind := .tagLost, sub := none, agent := none, line := none, set := some n, way := some w, entry := none
                        time := s.unitTime }
    obtain ⟨c, v, u, hframe⟩ := b.report_frame r
    have hport : ∀ a, (b.report r).port a = if (s.port a).attached then (s.port a).close else s.port a := fun a => by
      rw [State.report_port]
      exact Vector.getElem_map _ _
    refine ⟨b.report r, exec_scrub_tagLost h (State.claimAll_tagLost hen h1 h2 hbefore), fun e => ?_, fun i => ?_, fun g => ?_,
      fun a ha => ?_, fun a ha => ?_, ?_⟩
    · rw [State.report_entry]
      exact Vector.getElem_map _ _
    · rw [hframe]
      exact Vector.getElem_map _ _
    · rw [hframe]
      exact Vector.getElem_replicate _
    · rw [hport, if_neg]
      rcases ha with ha | ha <;> simp [Port.attached, ha]
    · rw [hport, if_pos (Port.attached_iff.2 ha)]
      rfl
    · have hports : (b.report r).ports = b.ports := by rw [hframe]
      have hentries : (b.report r).entries = b.entries := by rw [hframe]
      have hbuffers : (b.report r).buffers = b.buffers := by rw [hframe]
      have htagv : (b.report r).tags = b.tags := by rw [hframe]
      rw [hports, hentries, hbuffers, htagv]
      exact congrArg (fun q => State.report { b with work := q } r) (State.atRest_work hrest).symm

end Sys2Proof.Machine
end

section
/-! SUPPORT. The failure of a port that one active entry serves or waits for (R29, R30). -/

namespace Sys2Proof.Machine

/-! ### The entry's own change (R30) -/

/-- An entry without the requests that a failed agent deferred on it. -/
def Entry.undeferred (x : Entry) (a : Agent) : Entry := { x with deferred := x.deferred.filter (fun q => q.agent != a) }

/-- An entry whose agent has failed: nobody is replied to. -/
def Entry.orphaning (x : Entry) (a : Agent) : Entry :=
  { x.undeferred a with orphaned := true, reply := .none, pinCounted := false }

/-- The waiting heads are looked at again where a deferred request left its list. -/
def Entry.readmits (x : Entry) (a : Agent) : List Task := if x.deferred.any (fun q => q.agent == a) then [.admission] else []

theorem Entry.mem_readmits {x : Entry} {a : Agent} {k : Task} (h : k ∈ x.readmits a) : k = .admission := by
  unfold Entry.readmits at h
  split at h
  · exact List.mem_singleton.1 h
  · cases h

section
variable {s : State} {e : EntryNo} {a : Agent}

theorem State.undefer_eq (hactive : (s.entry e).phase ≠ .free) :
    (if (s.entry e).deferred.any (fun q => q.agent == a) then s.undefer a e else s) =
      (s.setEntry e ((s.entry e).undeferred a)).due (s.work ++ (s.entry e).readmits a) := by
  by_cases hany : (s.entry e).deferred.any (fun q => q.agent == a) = true
  · rw [if_pos hany, State.undefer, State.modEntry_active hactive, State.push_eq_due, Entry.readmits, if_pos hany]
    rfl
  · have hkept : (s.entry e).undeferred a = s.entry e := by
      have hfilter : (s.entry e).deferred.filter (fun q => q.agent != a) = (s.entry e).deferred :=
        List.filter_eq_self.2 fun q hq => by
          simpa [bne] using fun hqa => hany (List.any_eq_true.2 ⟨q, hq, by simpa using hqa⟩)
      unfold Entry.undeferred
      rw [hfilter]
    rw [if_neg hany, Entry.readmits, if_neg hany, hkept, List.append_nil, State.setEntry_of_eq rfl, State.due_self rfl]

/-- A request of the failed agent, with no recall pending there: it goes on without its agent. -/
theorem State.failEntry_orphans {k : ReqKind} {label : Label} (hkind : (s.entry e).kind = .req k) (hk : k ≠ .upgrade)
    (horigin : (s.entry e).origin = some (a, label)) (hfly : (s.entry e).phase.inFlight = true)
    (hreply : (s.entry e).reply ≠ .placed) (hpending : (s.entry e).pending[a] = none) (hrun : s.running = true) :
    State.failEntry a s e =
      (s.setEntry e ((s.entry e).orphaning a)).due (s.work ++ (s.entry e).readmits a ++ [.advance e]) := by
  have hactive := Phase.inFlight_active hfly
  have hpinned : (s.entry e).phase ≠ .pinned := by intro h; rw [h] at hfly; cases hfly
  have hawaits : (s.entry e).phase ≠ .awaitingWay := by intro h; rw [h] at hfly; cases hfly
  let y : Entry := (s.entry e).undeferred a
  let t : State := (s.setEntry e y).due (s.work ++ (s.entry e).readmits a)
  have hte : t.entry e = y := State.setEntry_entry_same s e y
  have hown : (if t.originListed e then t else t.asReadOwn e) = t := by
    rw [State.asReadOwn, State.modEntry_fixed (s := t), ite_self]
    exact if_neg (by rw [hte, show y.kind = .req k from hkind]; simpa using hk)
  let u : State := t.setEntry e ((s.entry e).orphaning a)
  have hue : u.entry e = (s.entry e).orphaning a := State.setEntry_entry_same t e _
  have horphan : t.orphan e = u := by
    unfold State.orphan
    dsimp only
    rw [hown, State.modEntry_active (by rw [hte]; exact hactive), hte]
    exact if_neg (by
      rw [State.setEntry_entry_same, beq_iff_eq]
      exact hawaits)
  have happly : u.applyReply e a .failed = u := by
    unfold State.applyReply
    rw [hue, show ((s.entry e).orphaning a).pending[a] = none from hpending]
  have hkept : (y.kind.isAgent && y.isOf a && y.reply != .placed) = true := by
    simp [show y.kind = .req k from hkind, Kind.isAgent, Entry.isOf, show y.origin = _ from horigin,
      show y.reply = (s.entry e).reply from rfl, hreply]
  have hpin : ¬ (y.phase == .pinned && y.isOf a && u.running) = true := by
    simp [show y.phase = (s.entry e).phase from rfl, hpinned]
  unfold State.failEntry
  rw [if_neg (by simpa using hactive), State.undefer_eq hactive]
  dsimp only
  rw [show ((s.setEntry e ((s.entry e).undeferred a)).due (s.work ++ (s.entry e).readmits a)) = t from rfl, hte, if_pos hkept,
    horphan, happly, if_neg hpin, if_pos (show u.running = true from hrun)]
  show (((s.setEntry e y).setEntry e ((s.entry e).orphaning a)).due _) = _
  rw [State.setEntry_setEntry]
  rfl

/-- An entry that recalls the failed agent and is not its own: the recall ends by the failure. -/
theorem State.failEntry_recalls {t : State} {l : List Task} (hactive : (s.entry e).phase ≠ .free)
    (hother : (s.entry e).isOf a = false)
    (happly : ((s.setEntry e ((s.entry e).undeferred a)).due (s.work ++ (s.entry e).readmits a)).applyReply e a .failed = t.due l)
    (hrun : t.running = true) : State.failEntry a s e = t.due (l ++ [.advance e]) := by
  let y : Entry := (s.entry e).undeferred a
  have hgone : ¬ (y.kind.isAgent && y.isOf a && y.reply != .placed) = true := by simp [show y.isOf a = false from hother]
  have hpin : ¬ (y.phase == .pinned && y.isOf a && (t.due l).running) = true := by simp [show y.isOf a = false from hother]
  unfold State.failEntry
  rw [if_neg (by simpa using hactive), State.undefer_eq hactive]
  dsimp only
  rw [State.due_entry, State.setEntry_entry_same, if_neg hgone, happly, if_neg hpin, if_pos (show (t.due l).running = true from hrun)]
  rfl

end

/-! ### The port (R24, R29) -/

/-- The rest of a port's failure: the sweep engine's criteria, the alerts, and the report of LINK_DOWN. -/
def State.fell (s : State) (a : Agent) : State :=
  { s with
    sweep := s.sweep.stripped a
    alertPending := s.alertPending ||| (1#12 <<< (2 + a.val)) ||| 2#12
    capture := some { Report.blank .linkDown s.unitTime with agent := some a } }

section
variable {s t : State} {a : Agent} {e : EntryNo} {l : List Task}

/-- LINK_DOWN of an attached port where only one entry is active. -/
theorem State.linkFalls_one {w : State} (hrun : s.running = true)
    (hatt : (s.port a).state = .online ∨ (s.port a).state = .draining) (hbuffer : s.bufferWaiters = [])
    (hw : (s.port a).waiters.foldl State.endWait (s.setPort a (s.port a).fallen) = w)
    (hfree : ∀ f, f ≠ e → (w.entry f).phase = .free) (hfail : State.failEntry a w e = t.due l)
    (hfree' : ∀ f, f ≠ e → (t.entry f).phase = .free) (htrun : t.running = true) (hcap : t.capture = none)
    (htime : t.unitTime = s.unitTime) : s.linkFalls a = (t.fell a).due l := by
  have hport : (s.setPort a { s.port a with link := false }).port a = { s.port a with link := false } :=
    State.setPort_port_same s a _
  have hfold : entryNos.foldl (State.failEntry a) w = t.due l :=
    foldl_one entryNos_nodup (mem_entryNos e) (fun f _ hf => State.failEntry_free (hfree f hf) a) hfail
      (fun f _ hf => State.failEntry_free (s := t.due l) (hfree' f hf) a)
  rw [State.linkFalls_attached hrun hatt, State.failPort_down (s := s.setPort a _) (t := t.due l) (by rw [hport]) hbuffer
    (by rw [hport, State.setPort_setPort]; exact (congrArg (entryNos.foldl (State.failEntry a)) hw).trans hfold) htrun hcap,
    ← htime]
  rfl

/-- LINK_DOWN where only one entry is active: what it leaves once the work that follows is done. -/
theorem exec_linkDown_one {w v : State} {n : Nat} (hrest : s.atRest) (hrun : s.running = true)
    (hatt : (s.port a).state = .online ∨ (s.port a).state = .draining) (hbuffer : s.bufferWaiters = [])
    (hw : (s.port a).waiters.foldl State.endWait ((s.recordLink a false).setPort a (s.port a).fallen) = w)
    (hfree : ∀ f, f ≠ e → (w.entry f).phase = .free) (hfail : State.failEntry a w e = t.due l)
    (hfree' : ∀ f, f ≠ e → (t.entry f).phase = .free) (htrun : t.running = true) (hcap : t.capture = none)
    (htime : t.unitTime = s.unitTime) (hdry : t.undrained) (hworks : Works n ((t.fell a).due l) v)
    (hn : n ≤ Config.workBound := by decide) : exec (.linkDown a) s = .next v := by
  have hf := State.linkFalls_one (s := s.recordLink a false) hrun hatt hbuffer hw hfree hfail hfree' htrun hcap htime
  rw [exec_linkDown]
  exact Works.event (s := s.recordLink a false) (State.atRest_resetPin hrest) (by rw [hf]; exact hworks)
    (by rw [hf]; exact State.undrained_congr (s := t) rfl hdry) hn

end

end Sys2Proof.Machine
end

section
/-! The entries that a failed port leaves (R30, R51), settled. -/

namespace Sys2Proof.Machine

/-! ### The work that follows -/

theorem Entry.readmits_length (x : Entry) (a : Agent) : (x.readmits a).length ≤ 1 := by
  unfold Entry.readmits
  split <;> simp

/-- Looks at the waiting heads pass where no head waits. -/
theorem Works.passAdmissions {s t : State} {n : Nat} {l k : List Task} (hheads : s.noHeadWaits) (hdry : s.undrained)
    (hk : ∀ j ∈ k, j = .admission) (h : Works n (s.due l) t) : Works (k.length + n) (s.due (k ++ l)) t := by
  induction k with
  | nil => simpa using h
  | cons j k ih =>
    obtain ⟨rfl, hrest⟩ := List.forall_mem_cons.1 hk
    have hpass := Works.pass (s := s.due (Task.admission :: (k ++ l))) rfl (State.idles_admission hheads) (by simp) hdry (ih hrest)
    rw [show (Task.admission :: k).length + n = (k.length + n) + 1 by simp; omega]
    exact hpass

/-- What a port's failure leaves of an entry, once the entry's own steps are done. -/
theorem exec_linkDown_entry {s w t v : State} {a : Agent} {e : EntryNo} {x : Entry} {l : List Task} {n : Nat} (hrest : s.atRest)
    (hrun : s.running = true) (hatt : (s.port a).state = .online ∨ (s.port a).state = .draining) (hbuffer : s.bufferWaiters = [])
    (hw : (s.port a).waiters.foldl State.endWait ((s.recordLink a false).setPort a (s.port a).fallen) = w)
    (hfree : ∀ f, f ≠ e → (w.entry f).phase = .free) (hfail : State.failEntry a w e = t.due (x.readmits a ++ l))
    (hfree' : ∀ f, f ≠ e → (t.entry f).phase = .free) (htrun : t.running = true) (hcap : t.capture = none)
    (htime : t.unitTime = s.unitTime) (hdry : t.undrained) (hheads : t.noHeadWaits) (hworks : Works n ((t.fell a).due l) v)
    (hn : n ≤ 10) : exec (.linkDown a) s = .next v := by
  have hpassed := Works.passAdmissions (s := t.fell a) (State.noHeadWaits_congr (s := t) rfl hheads)
    (State.undrained_congr (s := t) rfl hdry) (fun _ => Entry.mem_readmits (x := x) (a := a)) hworks
  have hlen : (x.readmits a).length + n ≤ Config.workBound :=
    le_trans (Nat.add_le_add (x.readmits_length a) hn) (by decide)
  exact exec_linkDown_one hrest hrun hatt hbuffer hw hfree hfail hfree' htrun hcap htime hdry hpassed hlen

/-- A search that only one member of the list satisfies. -/
theorem find?_of_only {α : Type} {l : List α} {p : α → Bool} {x : α} (hx : x ∈ l) (hp : p x = true)
    (honly : ∀ y, p y = true → y = x) : l.find? p = some x := by
  cases hfind : l.find? p with
  | none => exact absurd hp (List.find?_eq_none.1 hfind x hx)
  | some y => rw [honly y (List.find?_some hfind)]

section
variable {s : State} {a : Agent} {e : EntryNo} {l : Line} {k : ReqKind} {label : Label}

theorem State.fallen_heads (hheads : ∀ b, b ≠ a → (s.port b).headWaits = false) {p : Port} (hp : p.head = .fresh) :
    (s.setPort a p).noHeadWaits := State.noHeadWaits_setPort hheads (by rw [Port.headWaits, hp]; rfl)

theorem State.stepPlan_orphan (hkind : (s.entry e).kind = .req k) (horigin : (s.entry e).origin = some (a, label))
    (horphaned : (s.entry e).orphaned = true) (howed : (s.entry e).poisonOwed = false) : s.stepPlan e = s.stepOrphan k e := by
  unfold State.stepPlan
  dsimp only
  rw [hkind, horigin]
  dsimp only
  rw [howed, horphaned, if_neg (by decide), if_pos rfl]

/-- An orphan with a holder's data in its buffer writes it to memory (R51, R79). -/
theorem State.stepOrphan_saves (hk : k = .readOwn ∨ k = .lockedRead) (hdata : (s.entry e).data = .fromHolder)
    (hmem : s.memOp e = none) (hline : (s.entry e).line = l) (hrec : s.lineRec l = none) : s.stepOrphan k e = s.claimWrite e := by
  have hother : s.otherExclusive e = false := by
    unfold State.otherExclusive
    rw [hline, hrec]
  unfold State.stepOrphan
  dsimp only
  rw [hdata, hmem, hother]
  rcases hk with rfl | rfl <;> rfl

/-- An orphan with its line's data from memory has nothing to save (R51). -/
theorem State.stepOrphan_read (hk : k = .readShared ∨ k = .readOwn) (hdata : (s.entry e).data = .fromMemory) :
    s.stepOrphan k e = s := by
  unfold State.stepOrphan
  rcases hk with rfl | rfl <;> simp [hdata]

/-- A claim that leaves a failed agent in place, on a set with no damage and no other port FAILED (R171). -/
theorem State.claimEntry_excepted {b : Agent} (hrun : s.running = true) (hsound : s.soundSet (setOf (s.entry e).line))
    (hlost : s.noLost (setOf (s.entry e).line)) (hothers : ∀ c, c ≠ b → (s.port c).state ≠ .failed) :
    s.claimEntry e (some b) = s := by
  have hlisted : s.failedListed (s.entry e).line (some b) = [] := by
    refine List.filter_eq_nil_iff.2 fun c _ => ?_
    by_cases hc : c = b
    · simp [hc]
    · simp [hothers c hc]
  unfold State.claimEntry
  dsimp only
  rw [State.claimLine_sound hsound, if_pos hrun, State.stripFailed, State.lineLost_calm hlost, if_neg (by decide), hlisted]
  rfl

theorem State.busy_one (hactive : (s.entry e).phase ≠ .free) (hfree : ∀ f, f ≠ e → (s.entry f).phase = .free) :
    s.busy (s.entry e).line = some e :=
  find?_of_only (mem_entryNos e) (by simp [hactive]) fun f hf => by
    by_contra hne
    simp [hfree f hne] at hf

end

/-! ### LINK_DOWN -/

section
variable {s : State} {a : Agent} {e : EntryNo} (hrest : s.atRest) (hrun : s.running = true)
  (hheads : ∀ b, b ≠ a → (s.port b).headWaits = false) (hatt : (s.port a).state = .online ∨ (s.port a).state = .draining)
  (hfree : ∀ f, f ≠ e → (s.entry f).phase = .free) (hbuffer : s.bufferWaiters = []) (hcap : s.capture = none)
include hrest hrun hheads hatt hfree hbuffer hcap

/-- The agent of a request that waits for its memory read fails. -/
theorem exec_linkDown_reading {k : ReqKind} {label : Label} (hkind : (s.entry e).kind = .req k) (hk : k ≠ .upgrade)
    (horigin : (s.entry e).origin = some (a, label)) (hphase : (s.entry e).phase = .readingMemory)
    (hpending : (s.entry e).pending[a] = none) (hdata : (s.entry e).data = .none) (hreply : (s.entry e).reply ≠ .placed)
    (hrebuild : (s.entry e).rebuild = false) (howed : (s.entry e).poisonOwed = false) (hwait : (s.port a).waiters = [])
    (hmem : s.memOp e = some false) : exec (.linkDown a) s =
      .next ((((s.recordLink a false).setPort a (s.port a).fallen).setEntry e ((s.entry e).orphaning a)).fell a) := by
  let x : Entry := (s.entry e).orphaning a
  let u : State := (s.recordLink a false).setPort a (s.port a).fallen
  let t : State := u.setEntry e x
  have hte : (t.fell a).entry e = x := State.setEntry_entry_same u e x
  have hfail : State.failEntry a u e = t.due ((s.entry e).readmits a ++ [.advance e]) := by
    rw [State.failEntry_orphans (s := u) hkind hk horigin (by rw [show (u.entry e).phase = _ from hphase]; rfl) hreply hpending hrun,
      show u.work = [] from State.atRest_work (s := s) hrest]
    rfl
  have hwaits : (t.fell a).waits e := State.waits_reading (s := t.fell a) (k := k) (by rw [hte]; exact hkind) hk
    ((State.memOp_congr (s := s) (t := t.fell a) rfl rfl e).trans hmem) (by rw [hte]; exact hphase) (by rw [hte]; exact hdata)
    (by rw [hte]; exact hrebuild) (by rw [hte]; exact howed)
  have hudry : u.undrained := State.undrained_setPort (s := s.recordLink a false) (State.atRest_undrained hrest)
    (s.port a).fallen_drained
  have htdry : t.undrained := State.undrained_congr (s := u) rfl hudry
  have hzdry : (t.fell a).undrained := State.undrained_congr (s := u) rfl hudry
  have hzwork : (t.fell a).work = [] := State.atRest_work (s := s) hrest
  have hworks : Works 1 ((t.fell a).due [.advance e]) (t.fell a) := .waits hwaits hrun hzdry (.ended hzwork)
  have htheads : t.noHeadWaits := State.noHeadWaits_congr (s := u) rfl (State.fallen_heads (s := s.recordLink a false) hheads rfl)
  exact exec_linkDown_entry (w := u) (t := t) (x := s.entry e) hrest hrun hatt hbuffer (by rw [hwait]; rfl) hfree hfail
    (fun f hf => by rw [State.setEntry_entry_ne u x fun h => hf h.symm]; exact hfree f hf) hrun hcap rfl htdry htheads hworks
    (by decide)

/-- The agent of a request whose reply waits for an output place fails, with a holder's data in the entry's buffer. -/
theorem exec_linkDown_replying {k : ReqKind} {label : Label} {l : Line} {m : OutMsg} {i : MemTagNo}
    (hkind : (s.entry e).kind = .req k) (hk : k = .readOwn ∨ k = .lockedRead)
    (horigin : (s.entry e).origin = some (a, label)) (hphase : (s.entry e).phase = .replying)
    (hpending : (s.entry e).pending[a] = none) (hdata : (s.entry e).data = .fromHolder) (hwrote : (s.entry e).wrote = false)
    (hrebuild : (s.entry e).rebuild = false) (howed : (s.entry e).poisonOwed = false) (hline : (s.entry e).line = l)
    (hwait : (s.port a).waiters = [{ producer := .reply e, msg := m }]) (hmem : s.memOp e = none) (hrec : s.lineRec l = none)
    (hready : s.tagReady l i) : exec (.linkDown a) s =
      .next (((((s.recordLink a false).setPort a (s.port a).fallen).setEntry e
        { (s.entry e).orphaning a with phase := .writingMemory, wrote := true }).sent
          (.write i ((s.tag i).use + 1) l (s.entry e).buffer) i { claimant := .entry e, write := true, line := l }).fell a) := by
  let y : Entry := { s.entry e with reply := .none }
  let x : Entry := (s.entry e).orphaning a
  let x' : Entry := { x with wrote := true }
  let u : State := (s.recordLink a false).setPort a (s.port a).fallen
  let w : State := u.setEntry e y
  let t : State := u.setEntry e x
  let c : MemClaim := { claimant := .entry e, write := true, line := l }
  let msg : MemMsg := .write i ((s.tag i).use + 1) l (s.entry e).buffer
  let z : State := (t.fell a).setEntry e { x with phase := .writingMemory, wrote := true } |>.sent msg i c
  have hactive : (u.entry e).phase ≠ .free := by rw [show (u.entry e).phase = _ from hphase]; decide
  have hwe : w.entry e = y := State.setEntry_entry_same u e y
  have hw : (s.port a).waiters.foldl State.endWait u = w := by
    rw [hwait]
    exact State.modEntry_active hactive _
  have hfail : State.failEntry a w e = t.due ((s.entry e).readmits a ++ [.advance e]) := by
    rw [State.failEntry_orphans (s := w) (k := k) (label := label) (by rw [hwe]; exact hkind)
      (by rcases hk with rfl | rfl <;> decide) (by rw [hwe]; exact horigin) (by rw [hwe, show y.phase = _ from hphase]; rfl)
      (by rw [hwe]; simp [y]) (by rw [hwe]; exact hpending) hrun, show w.work = [] from State.atRest_work (s := s) hrest, hwe,
      State.setEntry_setEntry]
    rfl
  have hte : (t.fell a).entry e = x := State.setEntry_entry_same u e x
  let q : State := ((t.fell a).setEntry e x').sent msg i c
  have hqe : q.entry e = x' := State.setEntry_entry_same (t.fell a) e x'
  have hzmem : (t.fell a).memOp e = none := (State.memOp_congr (s := s) (t := t.fell a) rfl rfl e).trans hmem
  have hqmem : q.memOp e = some true := State.sent_memOp ((t.fell a).setEntry e x') msg i c
    ((State.memOp_congr (s := t.fell a) rfl rfl e).trans hzmem) rfl
  have hfly : x.phase.inFlight = true := by rw [show x.phase = _ from hphase]; rfl
  have hrec' : (t.fell a).lineRec l = none := (State.lineRec_congr (s := s) rfl rfl l).trans hrec
  have hready' : (t.fell a).tagReady l i := (State.tagReady_congr (s := s) rfl rfl rfl l i).trans hready
  let b : State := (t.fell a).due []
  have hbe : b.entry e = x := hte
  have hplan : b.stepPlan e = q.due [] := by
    rw [State.stepPlan_orphan (s := b) (k := k) (a := a) (label := label) (by rw [hbe]; exact hkind) (by rw [hbe]; exact horigin)
        (by rw [hbe]; rfl) (by rw [hbe]; exact howed),
      State.stepOrphan_saves (s := b) (l := l) hk (by rw [hbe]; exact hdata) hzmem (by rw [hbe]; exact hline) hrec',
      State.claimWrite_ready (s := b) (l := l) (i := i) (by rw [hbe]; exact Phase.inFlight_active hfly) (by rw [hbe]; exact hline)
        (by rw [hbe]; exact hwrote) hready', hbe]
    rfl
  have hstep : b.runTask (.advance e) = z.due [] := by
    rw [State.runTask_running (s := b) hrun]
    dsimp only
    rw [State.advance_plan (s := b) (by rw [hbe]; exact hfly) (by rw [hbe]; exact hrebuild) (by rw [hbe]; exact howed), hplan,
      State.settlePhase_writing (s := q.due []) (by rw [State.due_entry, hqe]; exact hfly) hqmem, State.due_entry, hqe,
      State.due_setEntry, State.sent_setEntry, State.setEntry_setEntry]
  have hudry : u.undrained := State.undrained_setPort (s := s.recordLink a false) (State.atRest_undrained hrest)
    (s.port a).fallen_drained
  have htdry : t.undrained := State.undrained_congr (s := u) rfl hudry
  have hzdry : z.undrained := State.undrained_congr (s := u) rfl hudry
  have hzwork : z.work = [] := State.atRest_work (s := s) hrest
  have hworks : Works 1 ((t.fell a).due [.advance e]) z := .step hstep hzdry (.ended hzwork)
  have htheads : t.noHeadWaits := State.noHeadWaits_congr (s := u) rfl (State.fallen_heads (s := s.recordLink a false) hheads rfl)
  have hdone := exec_linkDown_entry (w := w) (t := t) (x := s.entry e) hrest hrun hatt hbuffer hw
    (fun f hf => by rw [State.setEntry_entry_ne u y fun h => hf h.symm]; exact hfree f hf) hfail
    (fun f hf => by rw [State.setEntry_entry_ne u x fun h => hf h.symm]; exact hfree f hf) hrun hcap rfl htdry htheads hworks
    (by decide)
  have hz : z = ((u.setEntry e { x with phase := .writingMemory, wrote := true }).sent msg i c).fell a := by
    show (((t.setEntry e _).sent msg i c).fell a) = _
    rw [State.setEntry_setEntry]
  rw [hdone, hz]

end

end Sys2Proof.Machine
end

section
/-! A failed agent leaves the record it was recalled from, an orphan ends on its data (R30, R51), settled. -/

namespace Sys2Proof.Machine

/-- What the recalled agent's failure leaves (R30, R89): it is out of the record and of the entry's pending recalls. -/
def State.recallFailed (s : State) (a : Agent) (e : EntryNo) (n : SetNo) (y : ASet) (left : Rec) : State :=
  (((s.recordLink a false).putSet n y).setEntry e
    { (s.entry e).undeferred a with pending := (s.entry e).pending.set a none, copy := some left }).setPort a
      { (s.port a).fallen with holding := (s.port a).holding - 1 }

section
variable {s : State} {a : Agent} {e : EntryNo}

theorem State.recallFailed_entry_same (n : SetNo) (y : ASet) (left : Rec) : (s.recallFailed a e n y left).entry e =
    { (s.entry e).undeferred a with pending := (s.entry e).pending.set a none, copy := some left } :=
  State.setEntry_entry_same ((s.recordLink a false).putSet n y) e _

theorem State.recallFailed_entry_ne (n : SetNo) (y : ASet) (left : Rec) {f : EntryNo} (h : f ≠ e) :
    (s.recallFailed a e n y left).entry f = s.entry f :=
  State.setEntry_entry_ne ((s.recordLink a false).putSet n y) _ fun hef => h hef.symm

theorem State.recallFailed_sets (n : SetNo) (y : ASet) (left : Rec) :
    (s.recallFailed a e n y left).sets = (s.putSet n y).sets := rfl

theorem State.recallFailed_aset_same (h : s.arrayLawful) (n : SetNo) (y : ASet) (left : Rec) :
    (s.recallFailed a e n y left).aset n = y := State.putSet_aset_same h n y

theorem State.recallFailed_aset_ne (h : s.arrayLawful) {n k : SetNo} (hk : k ≠ n) (y : ASet) (left : Rec) :
    (s.recallFailed a e n y left).aset k = s.aset k := State.putSet_aset_ne h n y hk

theorem Port.fallen_drained_holding (p : Port) (n : Nat) : Port.drained { p.fallen with holding := n } = false :=
  Port.drained_state (by simp [Port.fallen])

/-- The agent that an entry recalls for INVALIDATE fails, as one of several sharers. -/
theorem State.failEntry_sharer {w : WayNo} {h : AgentSet} (hrun : s.running = true) (hlawful : s.recordsLawful)
    (hcalm : s.calm (setOf (s.entry e).line)) (hfree : ∀ f, f ≠ e → (s.entry f).phase = .free)
    (hactive : (s.entry e).phase ≠ .free) (hother : (s.entry e).isOf a = false) (hwork : s.work = [])
    (hpending : (s.entry e).pending[a] = some { kind := .invalidate, placed := true })
    (howed : (s.entry e).poisonOwed = false) (hrebuild : (s.entry e).rebuild = false)
    (hrec : s.lineRec (s.entry e).line = some (w, { state := .shared, holders := h, pin := none }))
    (hhas : AgentSet.has h a = true) (hleft : AgentSet.remove h a ≠ 0) :
    State.failEntry a ((s.recordLink a false).setPort a (s.port a).fallen) e =
      (s.recallFailed a e (setOf (s.entry e).line) ((s.aset (setOf (s.entry e).line)).edited w
        { state := .shared, holders := AgentSet.remove h a, pin := none } (s.entry e).kind.isAgent)
        { state := .shared, holders := AgentSet.remove h a, pin := none }).due
          ((s.entry e).readmits a ++ [.advance e, .advance e]) := by
  obtain ⟨hsound, hlost, hnone⟩ := State.calm_iff.1 hcalm
  let x : Entry := (s.entry e).undeferred a
  let u : State := (s.recordLink a false).setPort a (s.port a).fallen
  let v : State := (u.setEntry e x).due ((s.entry e).readmits a)
  have hve : v.entry e = x := State.setEntry_entry_same u e x
  have hvfree : ∀ f, f ≠ e → (v.entry f).phase = .free := fun f hf => by
    rw [show v.entry f = s.entry f from State.setEntry_entry_ne u x fun hef => hf hef.symm]
    exact hfree f hf
  have hport : u.port a = (s.port a).fallen := State.setPort_port_same _ a _
  have hothers : ∀ c, c ≠ a → (u.port c).state ≠ .failed := fun c hc => by
    rw [show u.port c = s.port c from State.setPort_port_ne _ _ fun hac => hc hac.symm]
    exact State.noneFailed_iff.1 hnone c
  have hclaim : ∀ y : Entry, y.line = (v.entry e).line → (v.setEntry e y).claimEntry e (some a) = v.setEntry e y := fun y hy => by
    have hline : ((v.setEntry e y).entry e).line = (s.entry e).line := by
      rw [State.setEntry_entry_same, hy, hve]
      rfl
    exact State.claimEntry_excepted (s := v.setEntry e y) hrun (by rw [hline]; exact hsound) (by rw [hline]; exact hlost) hothers
  have happly := State.applyReply_sharer (s := v) (e := e) (b := a) (r := .failed) (w := w) (h := h) hlawful.1
    (by rw [hve]; exact hpending) (by rw [hve]; exact howed) (by rw [hve]; exact hrebuild) (by simp) hrun hclaim
    (State.busy_one (by rw [hve]; exact hactive) hvfree) (by rw [hve]; exact hrec) hhas hleft
    (by rw [show v.port a = _ from hport]; simp [Port.fallen])
  have happly' : v.applyReply e a .failed = (s.recallFailed a e (setOf (s.entry e).line) ((s.aset (setOf (s.entry e).line)).edited w
      { state := .shared, holders := AgentSet.remove h a, pin := none } (s.entry e).kind.isAgent)
      { state := .shared, holders := AgentSet.remove h a, pin := none }).due ((s.entry e).readmits a ++ [.advance e]) := by
    rw [happly, hve, show v.port a = _ from hport]
    simp only [v, u, State.due_putSet, State.due_setEntry, State.due_setPort, State.due_push, State.setPort_putSet,
      State.setEntry_putSet, State.setPort_setEntry, State.setEntry_setEntry, State.setPort_setPort]
    rfl
  have hfail := State.failEntry_recalls (s := u) (e := e) (a := a) (t := s.recallFailed a e _ _ _)
    (l := (s.entry e).readmits a ++ [.advance e]) hactive hother (by rw [show u.work = [] from hwork]; exact happly') hrun
  rw [hfail, List.append_assoc]
  rfl

end

/-- LINK_DOWN of a recalled sharer: its recall ends, and the entry waits on for its memory read. -/
theorem exec_linkDown_recalled {s : State} {a : Agent} {e : EntryNo} {w : WayNo} {h : AgentSet} {k : ReqKind} (hrest : s.atRest)
    (hrun : s.running = true) (hheads : ∀ b, b ≠ a → (s.port b).headWaits = false)
    (hatt : (s.port a).state = .online ∨ (s.port a).state = .draining) (hfree : ∀ f, f ≠ e → (s.entry f).phase = .free)
    (hbuffer : s.bufferWaiters = []) (hcap : s.capture = none) (hlawful : s.recordsLawful)
    (hcalm : s.calm (setOf (s.entry e).line)) (hkind : (s.entry e).kind = .req k) (hk : k ≠ .upgrade)
    (hother : (s.entry e).isOf a = false) (hphase : (s.entry e).phase = .readingMemory) (hdata : (s.entry e).data = .none)
    (hpending : (s.entry e).pending[a] = some { kind := .invalidate, placed := true })
    (howed : (s.entry e).poisonOwed = false) (hrebuild : (s.entry e).rebuild = false) (hwait : (s.port a).waiters = [])
    (hmem : s.memOp e = some false)
    (hrec : s.lineRec (s.entry e).line = some (w, { state := .shared, holders := h, pin := none }))
    (hhas : AgentSet.has h a = true) (hleft : AgentSet.remove h a ≠ 0) : exec (.linkDown a) s =
      .next ((s.recallFailed a e (setOf (s.entry e).line) ((s.aset (setOf (s.entry e).line)).edited w
        { state := .shared, holders := AgentSet.remove h a, pin := none } (s.entry e).kind.isAgent)
        { state := .shared, holders := AgentSet.remove h a, pin := none }).fell a) := by
  let left : Rec := { state := .shared, holders := AgentSet.remove h a, pin := none }
  let n : SetNo := setOf (s.entry e).line
  let y : ASet := (s.aset n).edited w left (s.entry e).kind.isAgent
  let u : State := (s.recordLink a false).setPort a (s.port a).fallen
  let t : State := s.recallFailed a e n y left
  let x : Entry := { (s.entry e).undeferred a with pending := (s.entry e).pending.set a none, copy := some left }
  have hte : (t.fell a).entry e = x := State.recallFailed_entry_same n y left
  have hfail := State.failEntry_sharer hrun hlawful hcalm hfree (by rw [hphase]; decide) hother (State.atRest_work hrest) hpending howed
    hrebuild hrec hhas hleft
  have hwaits : (t.fell a).waits e := State.waits_reading (s := t.fell a) (k := k) (by rw [hte]; exact hkind) hk
    ((State.memOp_congr (s := s) (t := t.fell a) rfl rfl e).trans hmem) (by rw [hte]; exact hphase) (by rw [hte]; exact hdata)
    (by rw [hte]; exact hrebuild) (by rw [hte]; exact howed)
  let p : Port := { (s.port a).fallen with holding := (s.port a).holding - 1 }
  have htdry : t.undrained := State.undrained_setPort (s := ((s.recordLink a false).putSet n y).setEntry e x) (p := p)
    (State.atRest_undrained hrest) ((s.port a).fallen_drained_holding _)
  have hzdry : (t.fell a).undrained := State.undrained_congr (s := t) rfl htdry
  have hzwork : (t.fell a).work = [] := State.atRest_work (s := s) hrest
  have hworks : Works 2 ((t.fell a).due [.advance e, .advance e]) (t.fell a) :=
    .waits hwaits hrun hzdry (.waits hwaits hrun hzdry (.ended hzwork))
  have htheads : t.noHeadWaits :=
    State.fallen_heads (s := ((s.recordLink a false).putSet n y).setEntry e x) (p := p) hheads rfl
  exact exec_linkDown_entry (w := u) (t := t) (x := s.entry e) hrest hrun hatt hbuffer (by rw [hwait]; rfl) hfree hfail
    (fun f hf => by rw [State.recallFailed_entry_ne n y left hf]; exact hfree f hf) hrun hcap rfl htdry htheads hworks (by decide)

/-- The data of an orphan's memory read ends its entry. -/
theorem exec_memData_orphan {s : State} {i : MemTagNo} {d : LineData} {e : EntryNo} {a : Agent} {label : Label} {l : Line}
    {o : TagOp} {k : ReqKind} (h : s.atRest) (hrun : s.running = true) (hheads : s.noHeadWaits)
    (hop : (s.tag i).op = some o) (hissued : o.issued = true) (hclaim : o.claim = { claimant := .entry e, write := false, line := l })
    (hkind : (s.entry e).kind = .req k) (hk : k = .readShared ∨ k = .readOwn)
    (horigin : (s.entry e).origin = some (a, label)) (hline : (s.entry e).line = l)
    (hphase : (s.entry e).phase = .readingMemory) (hpending : (s.entry e).pending = Vector.replicate 6 none)
    (hdata : (s.entry e).data = .none) (hdeferred : (s.entry e).deferred = []) (hrecheck : (s.entry e).recheck = false)
    (horphaned : (s.entry e).orphaned = true) (hreply : (s.entry e).reply = .none) (howed : (s.entry e).poisonOwed = false)
    (hrebuild : (s.entry e).rebuild = false) (hbreaking : (s.entry e).breaking = false)
    (hnone : s.noneAwaiting (setOf l)) (hq : s.claimQueue = []) (howing : s.owingBuffer l = none)
    (hothers : ∀ j o, j ≠ i → (s.tag j).op = some o → o.claim.claimant ≠ .entry e) :
    exec (.memData (BitVec.ofNat 8 i.val) (s.tag i).use 0 d) s =
      .next ((s.setTag i { s.tag i with op := none }).setEntry e (Entry.free (s.entry e).use)) := by
  let x : Entry := { s.entry e with buffer := mergeData (s.entry e).mask (s.entry e).buffer d, data := .fromMemory }
  let v : State := s.freeTag i
  let t : State := v.setEntry e x
  have hte : t.entry e = x := State.setEntry_entry_same v e x
  have hgood : v.readGood e d = t.push (.advance e) :=
    State.readGood_read (s := v) (by rw [show (v.entry e).phase = _ from hphase]; decide) hdata
      (by rw [show (v.entry e).kind = _ from hkind]; rcases hk with rfl | rfl <;> decide) d
  have hf : s.memDataArrives (BitVec.ofNat 8 i.val) (s.tag i).use 0 d = t.due [.advance e] := by
    have hdone := State.memDataTaken_entry v (c := o.claim) (e := e) (by rw [hclaim]) d
    have harrives := State.memDataArrives_taken hrun hop hissued (by rw [hclaim]) 0 d (by rw [hdone, hgood]; exact hq)
    rw [hdone, hgood, State.push_eq_due, show t.work = [] from State.atRest_work (s := s) h] at harrives
    exact harrives
  have hfin : (t.entry e).finished := by
    rw [hte]
    exact { phase := by rw [show x.phase = _ from hphase]; rfl
            pending := Entry.noPending_of hpending
            reply := by rw [show x.reply = _ from hreply]; decide
            breaking := hbreaking
            owed := howed
            rebuild := hrebuild
            answered := .inr (.inr horphaned)
            dependent := .inr (by rw [show x.kind = _ from hkind]; simp)
            recheck := hrecheck
            deferred := hdeferred }
  have hstep : ∀ j, State.stepPlan (t.due j) e = t.due j := fun j => by
    rw [State.stepPlan_orphan (s := t.due j) (k := k) (a := a) (label := label) (by rw [State.due_entry, hte]; exact hkind)
      (by rw [State.due_entry, hte]; exact horigin) (by rw [State.due_entry, hte]; exact horphaned)
      (by rw [State.due_entry, hte]; exact howed), State.stepOrphan_read hk (by rw [State.due_entry, hte])]
  have hdry : t.undrained := State.undrained_congr (s := s) rfl (State.atRest_undrained h)
  have hworks := State.works_frees (s := t) (l := []) hfin hstep
    ((State.memOp_congr (s := v) (t := t) rfl rfl e).trans (State.memOp_freeTag hq hothers)) hrun
    (by rw [hte, show x.line = l from hline]; exact (State.owingBuffer_congr (s := s) (t := t) rfl l).trans howing)
    (by
      rw [hte, show x.line = l from hline]
      exact State.noneAwaiting_setEntry (s := v) (State.noneAwaiting_congr (s := s) rfl rfl hnone)
        (State.not_awaiting hnone (congrArg setOf hline)) x)
    (State.noHeadWaits_congr (s := s) rfl hheads) hdry (by simp)
  rw [hte, State.setEntry_setEntry, State.due_self (s := v.setEntry e _) (l := []) (State.atRest_work (s := s) h)] at hworks
  rw [exec_memData]
  exact Works.event (State.atRest_resetPin h) (by rw [hf]; exact hworks)
    (by rw [hf]; exact State.undrained_congr (s := t) rfl hdry)

/-- Settles O8: an orphan waits for its read or saves a holder's data, a recalled sharer leaves the record, and an
orphan's read ends its entry. -/
theorem agentFailureOrphansEntries : Obligations.AgentFailureOrphansEntries := by
  refine ⟨fun a e l s hrest hrun hheads hatt hfree hbuffer hcap => ?_, fun i d e a label l w left s h hrun hheads hop hkind hentry
    hnone hq howing hothers => ?_⟩
  · intro x orphan port sweep fallen hplain
    have hline : (s.entry e).line = l := congrArg Entry.line hplain
    have howed : (s.entry e).poisonOwed = false := congrArg Entry.poisonOwed hplain
    have hrebuild : (s.entry e).rebuild = false := congrArg Entry.rebuild hplain
    have hnopending : (s.entry e).pending = Vector.replicate 6 none → (s.entry e).pending[a] = none := fun hp => by
      rw [hp]
      exact Vector.getElem_replicate _
    refine ⟨fun k label hentry hk hwait hmem => ?_, fun k label m i hentry hk hwait hmem hrec hready => ?_,
      fun c label w h hca hentry hpending hwait hmem hlawful hcalm hrec hhas hleft => ?_⟩
    · exact exec_linkDown_reading hrest hrun hheads hatt hfree hbuffer hcap (congrArg Entry.kind hentry) hk
        (congrArg Entry.origin hentry) (congrArg Entry.phase hentry) (hnopending (congrArg Entry.pending hentry))
        (congrArg Entry.data hentry) (by rw [show (s.entry e).reply = .none from congrArg Entry.reply hentry]; decide) hrebuild howed
        hwait hmem
    · exact exec_linkDown_replying hrest hrun hheads hatt hfree hbuffer hcap (congrArg Entry.kind hentry) hk
        (congrArg Entry.origin hentry) (congrArg Entry.phase hentry) (hnopending (congrArg Entry.pending hentry))
        (congrArg Entry.data hentry) (congrArg Entry.wrote hentry) hrebuild howed hline hwait hmem hrec hready
    · subst hline
      intro left
      have horigin : (s.entry e).origin = some (c, label) := congrArg Entry.origin hentry
      have hkind : (s.entry e).kind = .req .readOwn := congrArg Entry.kind hentry
      have hagent : (s.entry e).kind.isAgent = true := by rw [hkind]; rfl
      have hdone := exec_linkDown_recalled hrest hrun hheads hatt hfree hbuffer hcap hlawful hcalm hkind (by decide)
        (by rw [Entry.isOf, horigin]; simpa using hca) (congrArg Entry.phase hentry) (congrArg Entry.data hentry) hpending howed
        hrebuild hwait hmem hrec hhas hleft
      rw [hagent] at hdone
      obtain ⟨hlook, -⟩ := State.lineRec_some hrec
      let n : SetNo := setOf (s.entry e).line
      let y : ASet := (s.aset n).edited w left true
      have haset : ((s.recallFailed a e n y left).fell a).aset n = y :=
        State.recallFailed_aset_same (e := e) hlawful.1 n y left
      refine ⟨_, hdone, (State.lineRec_congr (s := s.putSet n y) rfl rfl _).trans (State.lineRec_edited hlawful.1 hlook left true),
        (congrArg (fun z : ASet => z.order.value) haset).trans (by rw [ASet.edited_front]), fun v hv => ?_,
        fun k hk => State.recallFailed_aset_ne (e := e) hlawful.1 hk y left, rfl⟩
      exact (congrArg (fun z : ASet => z.ways[v]) haset).trans (ASet.edited_ways_ne _ left true hv)
  · obtain ⟨k, hkind', hk⟩ : ∃ k, (s.entry e).kind = .req k ∧ (k = .readShared ∨ k = .readOwn) := by
      rcases hkind with h | h
      exacts [⟨_, h, .inl rfl⟩, ⟨_, h, .inr rfl⟩]
    exact exec_memData_orphan h hrun hheads hop rfl rfl hkind' hk (congrArg Entry.origin hentry) (congrArg Entry.line hentry)
      (congrArg Entry.phase hentry) (congrArg Entry.pending hentry) (congrArg Entry.data hentry) (congrArg Entry.deferred hentry)
      (congrArg Entry.recheck hentry) (congrArg Entry.orphaned hentry) (congrArg Entry.reply hentry)
      (congrArg Entry.poisonOwed hentry) (congrArg Entry.rebuild hentry) (congrArg Entry.breaking hentry) hnone hq howing hothers

end Sys2Proof.Machine
end

section
/-! SUPPORT. A memory write that fails: its report, its buffer, and the poison of a line that has no record (R148, R149). -/

namespace Sys2Proof.Machine

/-! ### Reports -/

/-- What a report writes. -/
def State.reported (s : State) (c : Option Report) (v : BitVec 12) (k : Counters) : State :=
  { s with capture := c, alertPending := v, counters := k }

/-- A report writes the same into every state that stands alike for it. -/
theorem State.report_alike (s : State) (r : Report) : ∃ c v k, ∀ t : State, t.capture = s.capture →
    t.alertPending = s.alertPending → t.counters = s.counters → t.report r = t.reported c v k := by
  cases hs : s.capture with
  | none =>
    refine ⟨some r, s.alertPending ||| 2#12, s.counters, fun t hcap halert hcount => ?_⟩
    rw [State.report_none hcap, halert, ← hcount]
    rfl
  | some q =>
    refine ⟨some q, s.alertPending, (s.report r).counters, fun t hcap halert hcount => ?_⟩
    rw [State.report_some hs, State.report_some hcap, hcount, State.reported, ← hcap, ← halert]

theorem State.report_setBuffer (s : State) (r : Report) (b : BufferNo) (x : WbBuffer) :
    (s.setBuffer b x).report r = (s.report r).setBuffer b x := by
  obtain ⟨c, v, k, halike⟩ := s.report_alike r
  rw [halike s rfl rfl rfl, halike (s.setBuffer b x) rfl rfl rfl]
  rfl

theorem State.report_setTag (s : State) (r : Report) (i : MemTagNo) (x : MemTag) :
    (s.setTag i x).report r = (s.report r).setTag i x := by
  obtain ⟨c, v, k, halike⟩ := s.report_alike r
  rw [halike s rfl rfl rfl, halike (s.setTag i x) rfl rfl rfl]
  rfl

theorem State.report_putSet (s : State) (r : Report) (n : SetNo) (x : ASet) :
    (s.putSet n x).report r = (s.report r).putSet n x := by
  obtain ⟨c, v, k, halike⟩ := s.report_alike r
  rw [halike s rfl rfl rfl, halike (s.putSet n x) rfl rfl rfl]
  rfl

theorem State.report_bufferWaiters (s : State) (r : Report) : (s.report r).bufferWaiters = s.bufferWaiters := by
  obtain ⟨c, v, u, hr⟩ := s.report_frame r
  rw [hr]

theorem State.report_settings (s : State) (r : Report) : (s.report r).settings = s.settings := by
  obtain ⟨c, v, u, hr⟩ := s.report_frame r
  rw [hr]

theorem State.report_unitTime (s : State) (r : Report) : (s.report r).unitTime = s.unitTime := by
  obtain ⟨c, v, u, hr⟩ := s.report_frame r
  rw [hr]

theorem State.arrayLawful_congr {s t : State} (hs : t.sets = s.sets) (hm : t.marks = s.marks) (h : s.arrayLawful) :
    t.arrayLawful := by
  unfold State.arrayLawful State.aset State.mark at *
  rw [hs, hm]
  exact h

theorem State.isReserved_congr {s t : State} (he : t.entries = s.entries) (n : SetNo) (w : WayNo) :
    t.isReserved n w = s.isReserved n w := by
  unfold State.isReserved State.entry
  rw [he]

/-! ### A failed write (R148) -/

/-- A MEM-DONE whose status is a failure, with its report and what its claimant does with it. -/
theorem exec_memDone_fails {s t u : State} {i : MemTagNo} {o : TagOp} {status : Byte} {n : Nat} (hrest : s.atRest)
    (hrun : s.running = true) (hstatus : status ≠ 0) (hop : (s.tag i).op = some o) (hissued : o.issued = true)
    (hwrite : o.claim.write = true)
    (hend : ((s.freeTag i).reportMemory .memoryWriteFault o.claim (s.lookup o.claim.line)).endWrite o.claim.claimant false = t)
    (hq : t.claimQueue = []) (hworks : Works n t u) (hdry : t.undrained) (hn : n ≤ Config.workBound := by decide) :
    exec (.memDone (BitVec.ofNat 8 i.val) (s.tag i).use status) s = .next u := by
  have htaken : (s.freeTag i).memDoneTaken o.claim status = t := by
    unfold State.memDoneTaken
    rw [if_neg (by simpa using hstatus)]
    exact hend
  have hf := State.memDoneArrives_taken hrun hop hissued hwrite status (by rw [htaken]; exact hq)
  rw [htaken] at hf
  rw [exec_memDone]
  exact Works.event (State.atRest_resetPin hrest) (by rw [hf]; exact hworks) (by rw [hf]; exact hdry) hn

/-! ### The buffer of a failed write (R149) -/

section
variable {s : State} {b : BufferNo} {l : Line}

theorem State.faultHeld_passes {j : MemTagNo} (h : ∀ o, (s.tag j).op = some o → o.issued = true ∨ o.claim.line ≠ l) :
    State.faultHeld l s j = s := by
  unfold State.faultHeld
  cases ho : (s.tag j).op with
  | none => rfl
  | some o => exact if_neg (by rcases h o ho with hi | hl <;> simp [*])

theorem State.faultHeld_none (h : ∀ j o, (s.tag j).op = some o → o.issued = true ∨ o.claim.line ≠ l) :
    memTags.foldl (State.faultHeld l) s = s := foldl_fixed _ fun j _ => State.faultHeld_passes (h j)

/-- The one read held behind the write of its line ends as a fault. -/
theorem State.faultHeld_read {j : MemTagNo} {e : EntryNo} {k : Nat}
    (hop : (s.tag j).op = some { claim := { claimant := .entry e, write := false, line := l }, issued := false, left := k })
    (hothers : ∀ m o, m ≠ j → (s.tag m).op = some o → o.issued = true ∨ o.claim.line ≠ l) :
    memTags.foldl (State.faultHeld l) s = (s.freeTag j).push (.readFault e (s.entry e).use) := by
  refine foldl_one (by decide) (mem_memTags j) (fun m _ hm => State.faultHeld_passes (hothers m · hm)) ?_ fun m _ hm =>
    State.faultHeld_passes fun o ho => ?_
  · unfold State.faultHeld
    rw [hop]
    dsimp only
    rw [if_pos (by simp)]
  · exact hothers m o hm ((congrArg MemTag.op (State.setTag_tag_ne s _ fun hjm => hm hjm.symm)).symm.trans ho)

/-- The acknowledgement of a buffer that owes its line's poison: the buffer stays. -/
theorem State.offerBufferAck_owing (hstate : (s.buffer b).state = .owing) (hlate : (s.buffer b).late = false)
    (hready : (s.port (s.buffer b).agent).ready) : s.offerBufferAck b =
      (s.setBuffer b { s.buffer b with ackDone := true }).setPort (s.buffer b).agent { s.port (s.buffer b).agent with
        output := (s.port (s.buffer b).agent).output ++ [.wbAck (s.buffer b).line] } := by
  obtain ⟨hatt, hplace⟩ := Port.ready_iff.1 hready
  have hmsg : ackMsg (s.buffer b).line (s.buffer b).late = .wbAck (s.buffer b).line := by rw [hlate]; rfl
  unfold State.offerBufferAck
  dsimp only
  rw [hatt, if_neg (by decide), if_pos hplace, hmsg, State.ackDone,
    show ((s.place (s.buffer b).agent _).buffer b).state = .owing from hstate]
  rfl

/-- The buffer of a failed write whose line is busy owes the line's poison and is acknowledged. -/
theorem State.bufferBad_busy {e : EntryNo} {t : State} (hbusy : s.busy (s.buffer b).line = some e)
    (hlate : (s.buffer b).late = false) (hready : (s.port (s.buffer b).agent).ready)
    (hheld : memTags.foldl (State.faultHeld (s.buffer b).line) (s.setBuffer b { s.buffer b with state := .owing }) = t)
    (hport : t.port (s.buffer b).agent = s.port (s.buffer b).agent)
    (hbuffer : t.buffer b = { s.buffer b with state := .owing }) : s.bufferBad b =
      (t.setBuffer b { s.buffer b with state := .owing, ackDone := true }).setPort (s.buffer b).agent
        { s.port (s.buffer b).agent with output := (s.port (s.buffer b).agent).output ++ [.wbAck (s.buffer b).line] } := by
  unfold State.bufferBad
  dsimp only
  rw [hbusy]
  dsimp only
  rw [hheld, State.offerBufferAck_owing (s := t) (by rw [hbuffer]) (by rw [hbuffer]; exact hlate)
    (by rw [hbuffer, hport]; exact hready), hbuffer, hport]

end

/-! ### Poison of a line with no record (R148) -/

section
variable {s : State} {e : EntryNo} {v : WayNo} {l : Line}

/-- The line's poison is installed in the way that the search finds. -/
theorem State.poisonLine_installs (harray : s.arrayLawful) (hlook : s.lookup l = none) (hfree : s.freeSearch (setOf l) = some v)
    (hbusy : s.busy l = some e) : s.poisonLine l =
      (s.putSet (setOf l) ((s.aset (setOf l)).installed v (tagOf l) Rec.poisoned)).setEntry e
        { s.entry e with copy := some Rec.poisoned } := by
  unfold State.poisonLine
  rw [State.lineRec_of_absent hlook]
  dsimp only
  rw [hfree]
  dsimp only
  have hbusy' : (s.putSet (setOf l) ((s.aset (setOf l)).installed v (tagOf l) Rec.poisoned)).busy l = some e :=
    (State.busy_congr (s := s) rfl l).trans hbusy
  rw [State.install_eq harray, State.changeBusy_some hbusy',
    show Rec.poisoned.holders = 0 from rfl, AgentSet.list_zero]
  rfl

/-- With no way to be had, the line's poison is lost, and that is reported. -/
theorem State.poisonLine_lost (hlook : s.lookup l = none) (hfree : s.freeSearch (setOf l) = none) :
    s.poisonLine l = s.report { kind := .memoryWriteFault, sub := none, agent := none, line := some l, set := some (setOf l)
                                way := none, entry := none, time := s.unitTime } := by
  unfold State.poisonLine
  rw [State.lineRec_of_absent hlook]
  dsimp only
  rw [hfree]
  rfl

/-- The array and the entries once the poison of an absent line is in and the entry busy with it is gone. -/
theorem State.poisonInstalled {s t : State} {e : EntryNo} {v : WayNo} {l : Line} (harray : s.arrayLawful)
    (hlook : s.lookup l = none) (hfree : s.freeSearch (setOf l) = some v)
    (hsets : t.sets = (s.putSet (setOf l) ((s.aset (setOf l)).installed v (tagOf l) Rec.poisoned)).sets)
    (hmarks : t.marks = s.marks) (hentries : t.entries = (s.setEntry e (Entry.free (s.entry e).use)).entries) :
    ((∀ u, u ≠ v → (t.aset (setOf l)).ways[u] = (s.aset (setOf l)).ways[u]) ∧ (∀ k, k ≠ setOf l → t.aset k = s.aset k) ∧
      t.entry e = Entry.free (s.entry e).use ∧ (∀ f, f ≠ e → t.entry f = s.entry f)) ∧
    t.lineRec l = some (v, { state := .poisoned, holders := 0, pin := none }) ∧
    (t.aset (setOf l)).order.value = v :: (s.aset (setOf l)).order.value.filter (fun u => u != v) := by
  obtain ⟨havail, -⟩ := State.freeSearch_iff.1 hfree
  have haset := (State.aset_congr hsets (setOf l)).trans (State.putSet_aset_same harray (setOf l) _)
  have hentry : ∀ f, t.entry f = (s.setEntry e (Entry.free (s.entry e).use)).entry f := fun f =>
    congrArg (fun x : Vector Entry 24 => x[f]) hentries
  refine ⟨⟨fun u hu => ?_, fun k hk => (State.aset_congr hsets k).trans (State.putSet_aset_ne harray _ _ hk),
    (hentry e).trans (State.setEntry_entry_same s e _),
    fun f hf => (hentry f).trans (State.setEntry_entry_ne s _ fun hef => hf hef.symm)⟩,
    (State.lineRec_congr hsets hmarks l).trans (State.lineRec_installed harray hlook ?_ _), by rw [haset]; rfl⟩
  · rw [haset, ASet.installed_ways_ne _ _ _ hu]
  · unfold State.available at havail
    simp only [Bool.and_eq_true] at havail
    exact havail.1.1

/-- A way that the search finds is found whatever else changes of an entry that reserves none. -/
theorem State.freeSearch_setEntry {s t : State} {e : EntryNo} {x : Entry} (n : SetNo) (hsets : t.sets = s.sets)
    (hmarks : t.marks = s.marks) (hentries : t.entries = (s.setEntry e x).entries) (hold : (s.entry e).reserved = none)
    (hnew : x.reserved = none) : t.freeSearch n = s.freeSearch n := by
  refine State.freeSearch_congr hsets hmarks fun w => ?_
  rw [← State.isReserved_setEntry (s := s) (e := e) (x := x) (.inr hold) (.inr hnew) n w]
  unfold State.isReserved State.entry
  rw [hentries]

end

end Sys2Proof.Machine
end

section
/-! SUPPORT. The entry of a line whose buffer owes its poison: its step installs the poison and ends it (R57, R149). -/

namespace Sys2Proof.Machine

section
variable {s : State} {e : EntryNo} {v : WayNo} {b : BufferNo} {l : Line}

/-- A completing entry with no recheck and no deferred request is FREE. -/
theorem State.recheckStep_frees (hrecheck : (s.entry e).recheck = false) (hdeferred : (s.entry e).deferred = []) :
    s.recheckStep e = (s.setEntry e (Entry.free (s.entry e).use)).push .admission := by
  unfold State.recheckStep State.handOver
  dsimp only
  rw [hrecheck, hdeferred]
  exact if_pos (by decide)

/-- Completion on a line whose buffer owes its poison: the poison is installed and the buffer is free (R57). -/
theorem State.complete_installs (hx : (s.entry e).finished) (hkind : (s.entry e).kind ≠ .retire)
    (hreserved : (s.entry e).reserved = none) (hline : (s.entry e).line = l) (hrun : s.running = true) (harray : s.arrayLawful)
    (hcalm : s.calm (setOf l)) (hlook : s.lookup l = none) (hfree : s.freeSearch (setOf l) = some v)
    (hbusy : s.busy l = some e) (howing : s.owingBuffer l = some b) (hdone : (s.buffer b).ackDone = true) : s.complete e =
      ((((s.putSet (setOf l) ((s.aset (setOf l)).installed v (tagOf l) Rec.poisoned)).setBuffer b WbBuffer.free).setEntry e
        (Entry.free (s.entry e).use)).due (s.work ++ [.serveBuffers, .wake (setOf l), .admission])) := by
  let y : ASet := (s.aset (setOf l)).installed v (tagOf l) Rec.poisoned
  let x : Entry := { s.entry e with copy := some Rec.poisoned }
  let u : State := (s.putSet (setOf l) y).setEntry e x
  have hkept : s.modEntry e (fun z => { z with reserved := none }) = s :=
    State.modEntry_fixed (congrArg (fun r => { s.entry e with reserved := r }) hreserved.symm)
  have hpoison : s.poisonLine l = u := State.poisonLine_installs harray hlook hfree hbusy
  have hpaid : s.owedPoison e = (u.setBuffer b WbBuffer.free).push .serveBuffers := by
    unfold State.owedPoison
    rw [hline]
    dsimp only
    rw [howing]
    dsimp only
    rw [State.claimEntry_calm (by rw [hline]; exact hcalm), if_pos hrun, hpoison, State.settleDebt,
      if_pos (show (u.buffer b).ackDone = true from hdone)]
    rfl
  let z : State := ((u.setBuffer b WbBuffer.free).push .serveBuffers).push (.wake (setOf l))
  have hze : z.entry e = x := State.setEntry_entry_same (s.putSet (setOf l) y) e x
  have hpass : (if (s.entry e).kind == .retire then s.passWay e else s) = s := if_neg (by simpa using hkind)
  unfold State.complete
  dsimp only
  rw [hpass, if_neg (by simp [hrun]), hkept, hpaid, if_neg (by
    rw [show ((u.setBuffer b WbBuffer.free).push .serveBuffers).running = true from hrun]; decide),
    show (((u.setBuffer b WbBuffer.free).push .serveBuffers).entry e).line = l from (congrArg Entry.line hze).trans hline,
    State.recheckStep_frees (s := z) (by rw [hze]; exact hx.recheck) (by rw [hze]; exact hx.deferred), hze]
  simp only [z, u, State.push_eq_due, State.due_setEntry, State.due_due, State.setEntry_setBuffer, State.setEntry_setEntry]
  simp
  rfl

/-- The step of a replied entry on such a line, and the work that it leaves. -/
theorem State.works_installs (hx : (s.entry e).finished) (hkind : (s.entry e).kind ≠ .retire)
    (hreserved : (s.entry e).reserved = none) (hline : (s.entry e).line = l) (hrun : s.running = true) (harray : s.arrayLawful)
    (hcalm : s.calm (setOf l)) (hlook : s.lookup l = none) (hfree : s.freeSearch (setOf l) = some v)
    (hbusy : s.busy l = some e) (howing : s.owingBuffer l = some b) (hdone : (s.buffer b).ackDone = true)
    (hstep : (s.due []).stepPlan e = s.due []) (hmem : s.memOp e = none) (hheads : s.noHeadWaits) (hdry : s.undrained)
    (hnone : s.noneAwaiting (setOf l)) (hwaiters : s.bufferWaiters = []) (hwork : s.work = []) :
    Works 4 (s.due [.advance e]) (((s.putSet (setOf l) ((s.aset (setOf l)).installed v (tagOf l) Rec.poisoned)).setBuffer b
      WbBuffer.free).setEntry e (Entry.free (s.entry e).use)) := by
  let p : State := (s.putSet (setOf l) ((s.aset (setOf l)).installed v (tagOf l) Rec.poisoned)).setBuffer b WbBuffer.free
  let t : State := p.setEntry e (Entry.free (s.entry e).use)
  have hrunTask : (s.due []).runTask (.advance e) = t.due [.serveBuffers, .wake (setOf l), .admission] := by
    rw [State.runTask_running (s := s.due []) hrun]
    dsimp only
    rw [State.advance_plan (s := s.due []) hx.phase hx.rebuild hx.owed, hstep,
      State.settlePhase_completes (s := s.due []) hx ((State.memOp_congr rfl rfl e).trans hmem),
      State.complete_installs (s := s.due []) (v := v) (b := b) hx hkind hreserved hline hrun harray hcalm hlook hfree hbusy howing
        hdone]
    rfl
  have htdry : t.undrained := State.undrained_congr (s := s) rfl hdry
  have htheads : t.noHeadWaits := State.noHeadWaits_congr (s := s) rfl hheads
  have htnone : t.noneAwaiting (setOf l) :=
    State.noneAwaiting_setEntry (s := p) (State.noneAwaiting_congr (s := s) rfl rfl hnone)
      (State.not_awaiting hnone (congrArg setOf hline)) _
  have htwork : t.work = [] := hwork
  exact .step hrunTask htdry
    (.pass (s := t.due [.serveBuffers, .wake (setOf l), .admission]) rfl (State.idles_serveBuffers hwaiters) (by simp) htdry
      (.pass (s := t.due [.wake (setOf l), .admission]) rfl htnone (by simp) htdry
        (.pass (s := t.due [.admission]) rfl (State.idles_admission htheads) (by simp) htdry (.ended htwork))))

end

end Sys2Proof.Machine
end

section
/-! SUPPORT. A failed write of a buffer, of a busy line (R149). -/

namespace Sys2Proof.Machine

/-- What a failed write reports of the buffer that made it. -/
def State.bufferFault (s : State) (b : BufferNo) (l : Line) : Report :=
  { kind := .memoryWriteFault, sub := none, agent := some (s.buffer b).agent, line := some l, set := some (setOf l)
    way := s.lookup l, entry := none, time := s.unitTime }

section
variable {s : State} {i : MemTagNo} {b : BufferNo} {status : Byte} {l : Line} {left : Nat} (hrest : s.atRest)
  (hrun : s.running = true) (hstatus : status ≠ 0) (hq : s.claimQueue = [])
  (hop : (s.tag i).op = some { claim := { claimant := .buffer b, write := true, line := l }, issued := true, left := left })
  (hline : (s.buffer b).line = l) (hlate : (s.buffer b).late = false) (hready : (s.port (s.buffer b).agent).ready)
include hrest hrun hstatus hq hop hline hlate hready

/-- What a failed write's buffer does, where its line is busy: it owes the poison, and the held reads end as faults. -/
theorem exec_memDone_owing {f : EntryNo} {u t w : State} {n : Nat} (hbusy : s.busy l = some f)
    (hu : (s.freeTag i).report (s.bufferFault b l) = u) (hkept : u.claimQueue = s.claimQueue ∧ u.entries = s.entries ∧
      u.buffers = s.buffers ∧ u.ports = s.ports)
    (hheld : memTags.foldl (State.faultHeld l) (u.setBuffer b { s.buffer b with state := .owing }) = t)
    (hqueue : t.claimQueue = u.claimQueue) (hports : t.ports = u.ports)
    (hbuffer : t.buffer b = { s.buffer b with state := .owing })
    (hworks : Works n ((t.setBuffer b { s.buffer b with state := .owing, ackDone := true }).setPort (s.buffer b).agent
      { s.port (s.buffer b).agent with output := (s.port (s.buffer b).agent).output ++ [.wbAck l] }) w)
    (hn : n ≤ Config.workBound := by decide) : exec (.memDone (BitVec.ofNat 8 i.val) (s.tag i).use status) s = .next w := by
  obtain ⟨huq, hue, hub, hup⟩ := hkept
  let a : Agent := (s.buffer b).agent
  let p : Port := { s.port a with output := (s.port a).output ++ [.wbAck l] }
  let z : State := (t.setBuffer b { s.buffer b with state := .owing, ackDone := true }).setPort a p
  have hbuf : u.buffer b = s.buffer b := congrArg (fun x : Vector WbBuffer _ => x[b]) hub
  have hport : u.port a = s.port a := congrArg (fun x : Vector Port _ => x[a]) hup
  have htport : t.port a = s.port a := (congrArg (fun x : Vector Port _ => x[a]) hports).trans hport
  have hbad : u.bufferBad b = z := by
    rw [State.bufferBad_busy (t := t) (e := f) (by rw [hbuf, hline]; exact (State.busy_congr hue l).trans hbusy)
      (by rw [hbuf]; exact hlate) (by rw [hbuf, hport]; exact hready) (by rw [hbuf, hline]; exact hheld)
      (by rw [hbuf, hport]; exact htport) (by rw [hbuf]; exact hbuffer), hbuf, hport, hline]
  have hend : ((s.freeTag i).reportMemory .memoryWriteFault { claimant := .buffer b, write := true, line := l }
      (s.lookup l)).endWrite (.buffer b) false = z := (congrArg (fun x : State => x.bufferBad b) hu).trans hbad
  have hdry : z.undrained := State.undrained_setPort
    (s := t.setBuffer b { s.buffer b with state := .owing, ackDone := true })
    (State.undrained_congr (s := s) (hports.trans hup) (State.atRest_undrained hrest))
    (Port.drained_output (State.atRest_undrained hrest a) _)
  exact exec_memDone_fails hrest hrun hstatus hop rfl rfl hend ((hqueue.trans huq).trans hq) hworks hdry hn

/-- With no operation held behind the write, the buffer's debt is all that stays. -/
theorem exec_memDone_owes {f : EntryNo} (hbusy : s.busy l = some f)
    (hheld : ∀ j o, (s.tag j).op = some o → o.issued = true ∨ o.claim.line ≠ l) :
    exec (.memDone (BitVec.ofNat 8 i.val) (s.tag i).use status) s = .next ((((s.setPort (s.buffer b).agent
      { s.port (s.buffer b).agent with output := (s.port (s.buffer b).agent).output ++ [.wbAck l] }).setBuffer b
        { s.buffer b with state := .owing, ackDone := true }).setTag i { s.tag i with op := none }).report
          (s.bufferFault b l)) := by
  obtain ⟨c, v, k, hrep⟩ := (s.freeTag i).report_alike (s.bufferFault b l)
  let u : State := (s.freeTag i).reported c v k
  have hu : (s.freeTag i).report (s.bufferFault b l) = u := hrep _ rfl rfl rfl
  let y : WbBuffer := { s.buffer b with state := .owing }
  let t : State := u.setBuffer b y
  have hpassed : memTags.foldl (State.faultHeld l) t = t := State.faultHeld_none fun j o ho => by
    by_cases hij : i = j
    · subst hij
      rw [show t.tag i = _ from State.setTag_tag_same s i _] at ho
      cases ho
    · rw [show t.tag j = _ from State.setTag_tag_ne s _ hij] at ho
      exact hheld j o ho
  have hwork : s.work = [] := State.atRest_work hrest
  refine Eq.trans ?_ (congrArg Host.Outcome.next (hrep _ (by rfl) (by rfl) (by rfl)).symm)
  refine exec_memDone_owing hrest hrun hstatus hq hop hline hlate hready (n := 0) hbusy hu ⟨rfl, rfl, rfl, rfl⟩ hpassed rfl rfl
    (State.setBuffer_buffer_same u b y) ?_
  rw [State.setBuffer_setBuffer]
  exact .none hwork

end

end Sys2Proof.Machine
end

section
/-! SUPPORT. A failed write of a buffer with a read of its line held behind it (R57, R111, R149). -/

namespace Sys2Proof.Machine

theorem mem_bufferNos (b : BufferNo) : b ∈ bufferNos := by revert b; decide

section
variable {s : State}

theorem State.setPort_state {a : Agent} {p : Port} (hp : p.state = (s.port a).state) (c : Agent) :
    ((s.setPort a p).port c).state = (s.port c).state := by
  rw [State.setPort_port]
  split
  · next hac => rw [hp, hac]
  · rfl

/-- The buffer that owes a line's poison, where no other does. -/
theorem State.owingBuffer_setBuffer {l : Line} {b : BufferNo} {x : WbBuffer} (h : s.owingBuffer l = none)
    (hstate : x.state = .owing) (hline : x.line = l) : (s.setBuffer b x).owingBuffer l = some b := by
  refine find?_of_only (mem_bufferNos b) (by rw [State.setBuffer_buffer_same, hstate, hline]; simp) fun d hd => ?_
  by_contra hdb
  have hne : (s.setBuffer b x).buffer d = s.buffer d := State.setBuffer_buffer_ne (s := s) x fun hbd => hdb hbd.symm
  rw [hne] at hd
  exact List.find?_eq_none.1 h d (mem_bufferNos d) hd

/-- A reply placed at an ONLINE port whose label it releases. -/
def Port.replied (p : Port) (label : Label) (m : OutMsg) : Port :=
  { p with labels := p.labels.filter (fun k => k != label), output := p.output ++ [m] }

end

/-- A read that ended as a fault is refused, and the poison that its line's buffer owed is in the array. -/
def State.readFailed (s : State) (b : BufferNo) (e : EntryNo) (l : Line) (v : WayNo) (c : Agent) (label : Label) : State :=
  (((s.setPort c ((s.port c).replied label (.refuse label l .memoryFault))).putSet (setOf l)
    ((s.aset (setOf l)).installed v (tagOf l) Rec.poisoned)).setBuffer b WbBuffer.free).setEntry e (Entry.free (s.entry e).use)

theorem State.readFailed_parts (s : State) (b : BufferNo) (e : EntryNo) (l : Line) (v : WayNo) (c : Agent) (label : Label) :
    (s.readFailed b e l v c label).sets =
      (s.putSet (setOf l) ((s.aset (setOf l)).installed v (tagOf l) Rec.poisoned)).sets ∧
    (s.readFailed b e l v c label).marks = s.marks ∧
    (s.readFailed b e l v c label).entries = (s.setEntry e (Entry.free (s.entry e).use)).entries ∧
    s.readFailed b e l v c label = { (s.setPort c ((s.port c).replied label (.refuse label l .memoryFault))).setBuffer b
      WbBuffer.free with sets := (s.readFailed b e l v c label).sets, entries := (s.readFailed b e l v c label).entries } :=
  ⟨rfl, rfl, rfl, rfl⟩

section
variable {s : State} {b : BufferNo} {l : Line} {e : EntryNo} {c : Agent} {label : Label} {first : Beat} {right : Bool} {v : WayNo}

/-- The end of a held read as a fault: it is refused, and its entry's step installs the poison (R57, R111). -/
theorem State.works_readFails (hrun : s.running = true) (howing : s.owingBuffer l = some b) (hdone : (s.buffer b).ackDone = true)
    (harray : s.arrayLawful) (hheads : s.noHeadWaits) (hcalm : s.calm (setOf l))
    (hnone : s.noneAwaiting (setOf l)) (hbusy : s.busy l = some e) (hlook : s.lookup l = none)
    (hfree : s.freeSearch (setOf l) = some v)
    (hentry : s.entry e = { Entry.free (s.entry e).use with
      kind := .req .uncachedRead, origin := some (c, label), line := l, phase := .readingMemory, first := first
      mayWrite := right })
    (hmem : s.memOp e = none) (hwaiters : s.bufferWaiters = []) (hon : (s.port c).state = .online)
    (hwait : (s.port c).waiters = []) (hroom : (s.port c).output.length < 16) (hdry : s.undrained) (hwork : s.work = []) :
    Works 5 (s.due [.readFault e (s.entry e).use]) (s.readFailed b e l v c label) := by
  let p : Port := (s.port c).replied label (.refuse label l .memoryFault)
  let x : Entry := { s.entry e with pinCounted := false, refused := true, reply := .placed }
  let w : State := (s.setPort c p).setEntry e x
  have hphase : (s.entry e).phase = .readingMemory := congrArg Entry.phase hentry
  have hline : (s.entry e).line = l := congrArg Entry.line hentry
  have hreserved : (s.entry e).reserved = none := congrArg Entry.reserved hentry
  have hkind : (s.entry e).kind = .req .uncachedRead := congrArg Entry.kind hentry
  have hbad : (s.due []).readBad e = w.due [.advance e] := by
    rw [State.readBad_placed (s := s.due []) (a := c) (l := label) (by rw [State.due_entry, hphase]; decide)
      (congrArg Entry.origin hentry) (congrArg Entry.orphaned hentry) (congrArg Entry.reply hentry)
      (congrArg Entry.data hentry) hon hwait hroom, State.due_entry, hline]
    rfl
  have hstep : (s.due []).runTask (.readFault e (s.entry e).use) = w.due [.advance e] := by
    rw [State.runTask_running (s := s.due []) hrun]
    dsimp only
    rw [State.due_entry, if_pos (by simp)]
    exact hbad
  have hwe : w.entry e = x := State.setEntry_entry_same (s.setPort c p) e x
  have hfin : (w.entry e).finished := by
    rw [hwe]
    exact { phase := by rw [show x.phase = _ from hphase]; rfl
            pending := Entry.noPending_of (congrArg Entry.pending hentry)
            reply := by simp [x]
            breaking := congrArg Entry.breaking hentry
            owed := congrArg Entry.poisonOwed hentry
            rebuild := congrArg Entry.rebuild hentry
            answered := .inr (.inl rfl)
            dependent := .inl (congrArg Entry.dependent hentry)
            recheck := congrArg Entry.recheck hentry
            deferred := congrArg Entry.deferred hentry }
  have hwcalm : w.calm (setOf l) := State.calm_congr (s := s) (t := w) rfl rfl (State.setPort_state (s := s) (p := p) rfl) hcalm
  have hwfree : w.freeSearch (setOf l) = some v :=
    (State.freeSearch_setEntry (s := s) (t := w) (e := e) (x := x) (setOf l) rfl rfl rfl hreserved hreserved).trans hfree
  have hwbusy : w.busy l = some e := (State.busy_congr (s := s.setEntry e x) rfl l).trans
    (State.busy_setEntry hbusy (by rw [show x.phase = _ from hphase]; decide) hline)
  have hwdry : w.undrained := State.undrained_congr (s := s.setPort c p) rfl
    (State.undrained_setPort hdry (Port.drained_state (by simp [p, Port.replied, hon])))
  have hwheads : w.noHeadWaits := State.noHeadWaits_congr (s := s.setPort c p) rfl
    (State.noHeadWaits_sameHead (s := s) (p := p) hheads rfl)
  have hwnone : w.noneAwaiting (setOf l) := State.noneAwaiting_congr (s := s.setEntry e x) rfl rfl
    (State.noneAwaiting_setEntry hnone (State.not_awaiting hnone (congrArg setOf hline)) x)
  have hworks := State.works_installs (s := w) (b := b) hfin (by rw [hwe, show x.kind = _ from hkind]; decide)
    (by rw [hwe]; exact hreserved) (by rw [hwe]; exact hline) hrun harray hwcalm hlook hwfree hwbusy
    ((State.owingBuffer_congr (s := s) rfl l).trans howing) hdone
    (State.stepPlan_replied (s := w.due []) (by rw [State.due_entry, hwe])
      (by rw [State.due_entry, hwe]; exact congrArg Entry.orphaned hentry)
      (by rw [State.due_entry, hwe]; exact congrArg Entry.saves hentry))
    ((State.memOp_congr (s := s) rfl rfl e).trans hmem) hwheads hwdry hwnone hwaiters hwork
  rw [hwe, State.setEntry_putSet, State.setEntry_setBuffer, State.setEntry_setEntry] at hworks
  exact .step hstep (State.undrained_congr (s := w) rfl hwdry) hworks

/-- A failed write of a buffer, whose busy line has an UNCACHED-READ held behind it. -/
theorem exec_memDone_readFails {i j : MemTagNo} {status : Byte} {left k : Nat} (hrest : s.atRest)
    (hrun : s.running = true) (hstatus : status ≠ 0) (hq : s.claimQueue = [])
    (hop : (s.tag i).op = some { claim := { claimant := .buffer b, write := true, line := l }, issued := true, left := left })
    (hline : (s.buffer b).line = l) (hlate : (s.buffer b).late = false) (hready : (s.port (s.buffer b).agent).ready)
    (howing : s.owingBuffer l = none) (harray : s.arrayLawful) (hheads : s.noHeadWaits) (hcalm : s.calm (setOf l))
    (hnone : s.noneAwaiting (setOf l)) (hbusy : s.busy l = some e) (hlook : s.lookup l = none)
    (hfree : s.freeSearch (setOf l) = some v)
    (hentry : s.entry e = { Entry.free (s.entry e).use with
      kind := .req .uncachedRead, origin := some (c, label), line := l, phase := .readingMemory, first := first
      mayWrite := right })
    (hheld : (s.tag j).op = some { claim := { claimant := .entry e, write := false, line := l }, issued := false, left := k })
    (hpassed : ∀ m o, m ≠ j → (s.tag m).op = some o → o.issued = true ∨ o.claim.line ≠ l)
    (honly : ∀ m o, m ≠ j → (s.tag m).op = some o → o.claim.claimant ≠ .entry e) (hwaiters : s.bufferWaiters = [])
    (hon : (s.port c).state = .online) (hwait : (s.port c).waiters = []) (hroom : (s.port c).output.length < 15) :
    exec (.memDone (BitVec.ofNat 8 i.val) (s.tag i).use status) s =
      .next ((((((s.setPort (s.buffer b).agent { s.port (s.buffer b).agent with
        output := (s.port (s.buffer b).agent).output ++ [.wbAck l] }).setTag i { s.tag i with op := none }).setTag j
          { s.tag j with op := none }).readFailed b e l v c label).report (s.bufferFault b l))) := by
  obtain ⟨huq, hut, hub, hua, hup, hue, hus, hum⟩ := (s.freeTag i).report_parts (s.bufferFault b l)
  have hurun : ((s.freeTag i).report (s.bufferFault b l)).running = true := (State.report_running _ _).trans hrun
  have huwork : ((s.freeTag i).report (s.bufferFault b l)).work = [] := (State.report_work _ _).trans (State.atRest_work hrest)
  have huwait : ((s.freeTag i).report (s.bufferFault b l)).bufferWaiters = [] :=
    (State.report_bufferWaiters _ _).trans hwaiters
  let a : Agent := (s.buffer b).agent
  let p : Port := { s.port a with output := (s.port a).output ++ [.wbAck l] }
  let y : WbBuffer := { s.buffer b with state := .owing }
  let y' : WbBuffer := { s.buffer b with state := .owing, ackDone := true }
  let r : Report := s.bufferFault b l
  obtain ⟨u, hu⟩ : ∃ u, (s.freeTag i).report r = u := ⟨_, rfl⟩
  rw [show (s.freeTag i).report (s.bufferFault b l) = u from hu] at huq hut hub hua hup hue hus hum hurun huwork huwait
  have huport : ∀ d, u.port d = s.port d := fun d => congrArg (fun x : Vector Port 6 => x[d]) hup
  have huentry : u.entry e = s.entry e := congrArg (fun x : Vector Entry 24 => x[e]) hue
  have hutag : ∀ m, u.tag m = (s.freeTag i).tag m := fun m => congrArg (fun x : Vector MemTag 8 => x[m]) hut
  have hij : i ≠ j := fun hij => by rw [hij, hheld] at hop; simp at hop
  have htag : ∀ m, i ≠ m → (s.freeTag i).tag m = s.tag m := fun m hm => State.setTag_tag_ne s _ hm
  have hfreed : ∀ m o, ((s.freeTag i).tag m).op = some o → (s.tag m).op = some o := fun m o ho => by
    by_cases him : i = m
    · subst him
      rw [State.freeTag, State.setTag_tag_same] at ho
      cases ho
    · rwa [htag m him] at ho
  let t : State := (u.setBuffer b y).setTag j { s.tag j with op := none }
  let z : State := (t.setBuffer b y').setPort a p
  have hutagj : u.tag j = s.tag j := (hutag j).trans (htag j hij)
  have hfault : memTags.foldl (State.faultHeld l) (u.setBuffer b y) = t.due [.readFault e (s.entry e).use] := by
    rw [State.faultHeld_read (s := u.setBuffer b y) (by rw [State.setBuffer_tag, hutagj]; exact hheld) fun m o hm ho =>
        hpassed m o hm (hfreed m o (by rwa [State.setBuffer_tag, hutag] at ho)), State.setBuffer_entry, huentry, State.push_eq_due,
      State.freeTag, State.setBuffer_tag, hutagj]
    simp [t, huwork]
  have hzc : (z.port c).state = .online ∧ (z.port c).waiters = [] ∧ (z.port c).output.length < 16 := by
    rw [show z.port c = if a = c then p else u.port c from State.setPort_port (t.setBuffer b y') a c p, huport]
    split
    · next hac =>
      rw [← hac] at hon hwait hroom
      refine ⟨hon, hwait, ?_⟩
      simp only [p, List.length_append, List.length_singleton]
      omega
    · exact ⟨hon, hwait, by omega⟩
  obtain ⟨hzon, hzwait, hzroom⟩ := hzc
  have hzs : z.sets = s.sets := by simp [z, t, State.freeTag, hus]
  have hzm : z.marks = s.marks := by simp [z, t, State.freeTag, hum]
  have hzn : z.entries = s.entries := by simp [z, t, State.freeTag, hue]
  have hzw : z.awaiting = s.awaiting := by simp [z, t, State.freeTag, hua]
  have hzcalm : z.calm (setOf l) := State.calm_congr hzs hzm (fun d => by
    rw [State.setPort_state (s := t.setBuffer b y') (a := a) (p := p) (by simp [t, p, a, huport])]
    simp [t, huport]) hcalm
  have hzowing : z.owingBuffer l = some b :=
    (State.owingBuffer_congr (s := (u.setTag j { s.tag j with op := none }).setBuffer b y') (t := z) (by simp [z, t]) l).trans
      (State.owingBuffer_setBuffer (s := u.setTag j { s.tag j with op := none })
        ((State.owingBuffer_congr (by simp [hub, State.freeTag]) l).trans howing) rfl hline)
  have hzbuf : z.buffer b = y' := State.setBuffer_buffer_same t b y'
  have hzmem : z.memOp e = none := (State.memOp_congr (s := u.freeTag j) (t := z) rfl (by simp [z, t, State.freeTag, hutagj]) e).trans
    (State.memOp_freeTag (huq.trans hq) fun m o hm ho => honly m o hm (hfreed m o (by rwa [hutag] at ho)))
  have hdry : s.undrained := State.atRest_undrained hrest
  have hzdry : z.undrained := State.undrained_setPort (s := t.setBuffer b y')
    (State.undrained_congr (s := s) (t := t.setBuffer b y') (by simp [t, hup, State.freeTag]) hdry)
    (Port.drained_output (hdry a) _)
  have hzheads : z.noHeadWaits := State.noHeadWaits_sameHead (s := t.setBuffer b y') (p := p)
    (State.noHeadWaits_congr (s := s) (by simp [t, hup, State.freeTag]) hheads) (by simp [t, p, huport])
  have hzfree : z.freeSearch (setOf l) = some v :=
    (State.freeSearch_congr hzs hzm (State.isReserved_congr hzn _)).trans hfree
  have hzbusy : z.busy l = some e := (State.busy_congr hzn l).trans hbusy
  have hzlook : z.lookup l = none := (State.lookup_congr hzs hzm l).trans hlook
  have hznone : z.noneAwaiting (setOf l) := State.noneAwaiting_congr hzw hzn hnone
  have hzentry : z.entry e = s.entry e := by simp [z, t, huentry]
  have hworks := State.works_readFails (s := z) (b := b) (first := first) (right := right) hurun hzowing (by rw [hzbuf])
    (State.arrayLawful_congr hzs hzm harray) hzheads hzcalm hznone hzbusy hzlook hzfree (by rw [hzentry]; exact hentry)
    hzmem (by simp [z, t, huwait]) hzon hzwait hzroom hzdry (by simp [z, t, huwork])
  rw [hzentry] at hworks
  have hzport : z.port c = (s.setPort a p).port c := by simp [z, t, huport, State.setPort_port]
  have hzdone : z.readFailed b e l v c label =
      ((((s.setPort a p).setTag i { s.tag i with op := none }).setTag j { s.tag j with op := none }).readFailed b e l v c
        label).report r := by
    unfold State.readFailed
    rw [hzport, hzentry, State.aset_congr hzs]
    simp [z, t, ← hu, State.freeTag, State.report_setPort, State.report_setTag, State.report_putSet, State.report_setEntry,
      State.report_setBuffer, State.setPort_port]
  have hdone := exec_memDone_owing hrest hrun hstatus hq hop hline hlate hready (t := t.due [.readFault e (s.entry e).use])
    (w := z.readFailed b e l v c label) hbusy hu ⟨huq, hue, hub, hup⟩ hfault rfl rfl
    (State.setBuffer_buffer_same u b y) hworks
  exact hdone.trans (congrArg Host.Outcome.next hzdone)

end

end Sys2Proof.Machine
end

section
/-! SUPPORT. A failed write of an UNCACHED-WRITE's entry: it is refused, and its line is poisoned (R112, R148). -/

namespace Sys2Proof.Machine

/-- What a failed write reports of the entry that made it. -/
def State.entryFault (s : State) (c : Agent) (e : EntryNo) (l : Line) : Report :=
  { kind := .memoryWriteFault, sub := none, agent := some c, line := some l, set := some (setOf l)
    way := s.lookup l, entry := some (entryByte e), time := s.unitTime }

/-- A request answered with a refusal. -/
def Entry.answered (x : Entry) : Entry := { x with pinCounted := false, refused := true, reply := .placed }

section
variable {s : State} {e : EntryNo} {c : Agent} {label : Label} {l : Line}

/-- The entry of a failed write is refused where it still owes its reply, and the line is poisoned. -/
theorem State.writeBad_refuses (hrun : s.running = true) (hcalm : s.calm (setOf l)) (hlook : s.lookup l = none)
    (howing : s.owingBuffer l = none)
    (hentry : s.entry e = { s.entry e with
      kind := .req .uncachedWrite, origin := some (c, label), line := l, phase := .writingMemory
      pending := Vector.replicate 6 none, data := .merged, deferred := [], reserved := none, recheck := false
      orphaned := false, reply := .none, poisonOwed := false, rebuild := false, breaking := false, saves := false })
    (hon : (s.port c).state = .online) (hwait : (s.port c).waiters = []) (hroom : (s.port c).output.length < 16) :
    s.writeBad e = (((s.setPort c ((s.port c).replied label (.refuse label l .memoryFault))).setEntry e
      (s.entry e).answered).poisonLine l).push (.advance e) := by
  have hline : (s.entry e).line = l := congrArg Entry.line hentry
  have hphase : (s.entry e).phase = .writingMemory := congrArg Entry.phase hentry
  let p : Port := (s.port c).replied label (.refuse label l .memoryFault)
  let w : State := (s.setPort c p).setEntry e (s.entry e).answered
  have hwe : w.entry e = (s.entry e).answered := State.setEntry_entry_same (s.setPort c p) e _
  have hwl : (w.entry e).line = l := by rw [hwe]; exact hline
  have hrefuse : s.faultReply e = w := by
    unfold State.faultReply
    rw [show (s.entry e).kind = .req .uncachedWrite from congrArg Entry.kind hentry]
    dsimp only
    rw [State.refuse_placed (a := c) (l := label) (by rw [hphase]; decide) (congrArg Entry.origin hentry)
      (congrArg Entry.orphaned hentry) (congrArg Entry.reply hentry) hon hwait hroom, hline]
    rfl
  have hwcalm : w.calm (setOf (w.entry e).line) := by
    rw [hwl]
    exact State.calm_congr (s := s) (t := w) rfl rfl (State.setPort_state (s := s) (p := p) rfl) hcalm
  have hwlook : w.lookup l = none := hlook
  have hpaid : w.modEntry e (fun x => { x with poisonOwed := false }) = w :=
    State.modEntry_fixed (by
      rw [hwe]
      exact congrArg (fun b => { (s.entry e).answered with poisonOwed := b }) (congrArg Entry.poisonOwed hentry).symm)
  have hkept : w.giveUpWay e = w := by
    unfold State.giveUpWay
    rw [hwe, show (s.entry e).answered.reserved = none from congrArg Entry.reserved hentry]
  have hunheld : w.holdersOf l = 0 := by
    unfold State.holdersOf
    rw [State.lineRec_of_absent hwlook]
  have hpoison : w.makePoison e = (w.poisonLine l).push (.advance e) := by
    unfold State.makePoison
    dsimp only
    rw [hpaid, State.claimEntry_calm hwcalm, if_neg (by simp [show w.running = true from hrun]), hwl, hkept, ite_self]
  unfold State.writeBad
  rw [hline, State.settleLineDebt_none howing,
    if_neg (by rw [show (s.entry e).rebuild = false from congrArg Entry.rebuild hentry]; decide), hrefuse,
    State.claimEntry_calm hwcalm]
  dsimp only
  rw [if_neg (by simp [show w.running = true from hrun]), hwl, hunheld, if_neg (by decide), hpoison]

/-- The refused entry's step ends it. -/
theorem State.works_answered {x : Entry} {k : Option Rec} (hse : s.entry e = { x.answered with copy := k })
    (hx : x = { x with
      kind := .req .uncachedWrite, origin := some (c, label), line := l, phase := .writingMemory
      pending := Vector.replicate 6 none, data := .merged, deferred := [], reserved := none, recheck := false
      orphaned := false, reply := .none, poisonOwed := false, rebuild := false, breaking := false, saves := false })
    (hrun : s.running = true) (hmem : s.memOp e = none) (howing : s.owingBuffer l = none) (hnone : s.noneAwaiting (setOf l))
    (hheads : s.noHeadWaits) (hdry : s.undrained) (hwork : s.work = []) :
    Works 3 (s.due [.advance e]) (s.setEntry e (Entry.free x.use)) := by
  have hphase : x.phase = .writingMemory := congrArg Entry.phase hx
  have hline : (s.entry e).line = l := by rw [hse]; exact congrArg Entry.line hx
  have hkind : x.kind = .req .uncachedWrite := congrArg Entry.kind hx
  have hfin : (s.entry e).finished := by
    rw [hse]
    exact { phase := by rw [show Entry.phase { x.answered with copy := k } = _ from hphase]; rfl
            pending := Entry.noPending_of (congrArg Entry.pending hx)
            reply := by simp [Entry.answered]
            breaking := congrArg Entry.breaking hx
            owed := congrArg Entry.poisonOwed hx
            rebuild := congrArg Entry.rebuild hx
            answered := .inr (.inl rfl)
            dependent := .inr (by rw [show Entry.kind { x.answered with copy := k } = _ from hkind]; decide)
            recheck := congrArg Entry.recheck hx
            deferred := congrArg Entry.deferred hx }
  have hworks := State.works_frees (s := s) (l := []) hfin
    (fun j => State.stepPlan_replied (s := s.due j) (by rw [State.due_entry, hse]; rfl)
      (by rw [State.due_entry, hse]; exact congrArg Entry.orphaned hx)
      (by rw [State.due_entry, hse]; exact congrArg Entry.saves hx))
    hmem hrun (by rw [hline]; exact howing) (by rw [hline]; exact hnone) hheads hdry (by simp)
  rw [hse, State.due_self (s := s.setEntry e _) (l := []) hwork] at hworks
  exact hworks

end

end Sys2Proof.Machine
end

section
/-! SUPPORT. A MEM-DONE that fails the write of an UNCACHED-WRITE (R112, R148). -/

namespace Sys2Proof.Machine

section
variable {s : State} {i : MemTagNo} {status : Byte} {left : Nat} {e : EntryNo} {c : Agent} {label : Label} {l : Line}

/-- A failed write of an entry: the report, and what the entry does. -/
theorem exec_memDone_entry {u t w : State} {n : Nat} (hrest : s.atRest) (hrun : s.running = true) (hstatus : status ≠ 0)
    (hop : (s.tag i).op = some { claim := { claimant := .entry e, write := true, line := l }, issued := true, left := left })
    (horigin : (s.entry e).origin = some (c, label)) (hu : (s.freeTag i).report (s.entryFault c e l) = u)
    (hbad : u.writeBad e = t) (hq : t.claimQueue = []) (hdry : t.undrained) (hworks : Works n t w)
    (hn : n ≤ Config.workBound := by decide) : exec (.memDone (BitVec.ofNat 8 i.val) (s.tag i).use status) s = .next w := by
  have hend : ((s.freeTag i).reportMemory .memoryWriteFault { claimant := .entry e, write := true, line := l }
      (s.lookup l)).endWrite (.entry e) false = t := by
    unfold State.reportMemory State.originAgent
    dsimp only
    rw [show (s.freeTag i).entry e = s.entry e from rfl, horigin]
    exact (congrArg (fun x : State => x.writeBad e) hu).trans hbad
  exact exec_memDone_fails hrest hrun hstatus hop rfl rfl hend hq hworks hdry hn

/-- The entry of an UNCACHED-WRITE whose write has failed, refused and with its line's poison dealt with, completes. -/
theorem State.works_refused {p : State} {k : Option Rec} (hrest : s.atRest) (hheads : s.noHeadWaits)
    (hnone : s.noneAwaiting (setOf l)) (howing : s.owingBuffer l = none) (hq : s.claimQueue = [])
    (honly : ∀ m o, m ≠ i → (s.tag m).op = some o → o.claim.claimant ≠ .entry e)
    (hentry : s.entry e = { s.entry e with
      kind := .req .uncachedWrite, origin := some (c, label), line := l, phase := .writingMemory
      pending := Vector.replicate 6 none, data := .merged, deferred := [], reserved := none, recheck := false
      orphaned := false, reply := .none, poisonOwed := false, rebuild := false, breaking := false, saves := false })
    (hon : (s.port c).state = .online) (hpq : p.claimQueue = s.claimQueue) (hpt : p.tags = (s.freeTag i).tags)
    (hpb : p.buffers = s.buffers) (hpa : p.awaiting = s.awaiting)
    (hpp : p.ports = (s.setPort c ((s.port c).replied label (.refuse label l .memoryFault))).ports)
    (hpe : p.entries = (s.setEntry e { (s.entry e).answered with copy := k }).entries) (hprun : p.running = true)
    (hpwork : p.work = []) : Works 3 (p.due [.advance e]) (p.setEntry e (Entry.free (s.entry e).use)) := by
  have hline : (s.entry e).line = l := congrArg Entry.line hentry
  have hse : p.entry e = { (s.entry e).answered with copy := k } :=
    (congrArg (fun x : Vector Entry 24 => x[e]) hpe).trans (State.setEntry_entry_same s e _)
  have hmem : p.memOp e = none := (State.memOp_congr (s := s.freeTag i) hpq hpt e).trans (State.memOp_freeTag hq honly)
  let q : Port := (s.port c).replied label (.refuse label l .memoryFault)
  let y : Entry := { (s.entry e).answered with copy := k }
  have hdry : p.undrained := State.undrained_congr (s := s.setPort c q) hpp
    (State.undrained_setPort (State.atRest_undrained hrest) (Port.drained_state (by simp [q, Port.replied, hon])))
  have hpheads : p.noHeadWaits := State.noHeadWaits_congr (s := s.setPort c q) hpp (State.noHeadWaits_sameHead hheads rfl)
  have hpnone : p.noneAwaiting (setOf l) := State.noneAwaiting_congr (s := s.setEntry e y) hpa hpe
    (State.noneAwaiting_setEntry hnone (State.not_awaiting hnone (congrArg setOf hline)) _)
  exact State.works_answered hse hentry hprun hmem ((State.owingBuffer_congr hpb l).trans howing) hpnone hpheads hdry hpwork

/-- The array and the entries of a failed write's refused entry. -/
theorem State.answered_parts {u z : State} {x : Entry} {p : Port} {r : Report} (hu : (s.freeTag i).report r = u)
    (hz : (u.setPort c p).setEntry e x = z) : z.sets = s.sets ∧ z.marks = s.marks ∧
      z.entries = (s.setEntry e x).entries ∧ z.unitTime = s.unitTime ∧ z.entry e = x := by
  obtain ⟨-, -, -, -, -, hue, hus, hum⟩ := (s.freeTag i).report_parts r
  have hutime := (s.freeTag i).report_unitTime r
  rw [hu] at hue hus hum hutime
  rw [← hz]
  refine ⟨hus, hum, ?_, hutime, State.setEntry_entry_same _ e x⟩
  show u.entries.set e x = s.entries.set e x
  rw [hue]
  rfl

section
variable (hrest : s.atRest) (hrun : s.running = true) (hstatus : status ≠ 0) (hq : s.claimQueue = [])
  (hop : (s.tag i).op = some { claim := { claimant := .entry e, write := true, line := l }, issued := true, left := left })
  (howing : s.owingBuffer l = none) (harray : s.arrayLawful) (hheads : s.noHeadWaits) (hcalm : s.calm (setOf l))
  (hnone : s.noneAwaiting (setOf l)) (hbusy : s.busy l = some e) (hlook : s.lookup l = none)
  (honly : ∀ m o, m ≠ i → (s.tag m).op = some o → o.claim.claimant ≠ .entry e)
  (hentry : s.entry e = { s.entry e with
    kind := .req .uncachedWrite, origin := some (c, label), line := l, phase := .writingMemory
    pending := Vector.replicate 6 none, data := .merged, deferred := [], reserved := none, recheck := false
    orphaned := false, reply := .none, poisonOwed := false, rebuild := false, breaking := false, saves := false })
  (hon : (s.port c).state = .online) (hwait : (s.port c).waiters = []) (hroom : (s.port c).output.length < 16)
include hrest hrun hstatus hq hop howing hheads hcalm hnone hlook honly hentry hon hwait hroom

/-- A failed write of an UNCACHED-WRITE: its refusal, and the line's poison, in whatever way that ends. -/
theorem exec_memDone_refuses {u z p : State} {k : Option Rec} (hu : (s.freeTag i).report (s.entryFault c e l) = u)
    (hz : (u.setPort c ((s.port c).replied label (.refuse label l .memoryFault))).setEntry e (s.entry e).answered = z)
    (hp : z.poisonLine l = p) (hpq : p.claimQueue = z.claimQueue) (hpt : p.tags = z.tags) (hpb : p.buffers = z.buffers)
    (hpa : p.awaiting = z.awaiting) (hpp : p.ports = z.ports)
    (hpe : p.entries = (z.setEntry e { (s.entry e).answered with copy := k }).entries) (hprun : p.running = z.running)
    (hpwork : p.work = z.work) : exec (.memDone (BitVec.ofNat 8 i.val) (s.tag i).use status) s =
      .next (p.setEntry e (Entry.free (s.entry e).use)) := by
  obtain ⟨huq, hut, hub, hua, hup, hue, hus, hum⟩ := (s.freeTag i).report_parts (s.entryFault c e l)
  have hurun : u.running = true := hu ▸ (State.report_running _ _).trans hrun
  have huwork : u.work = [] := hu ▸ (State.report_work _ _).trans (State.atRest_work hrest)
  rw [hu] at huq hut hub hua hup hue hus hum
  have huport : ∀ d, u.port d = s.port d := fun d => congrArg (fun x : Vector Port 6 => x[d]) hup
  have huentry : u.entry e = s.entry e := congrArg (fun x : Vector Entry 24 => x[e]) hue
  have hbad := State.writeBad_refuses (s := u) (e := e) (c := c) (label := label) hurun
    (State.calm_congr hus hum (fun d => congrArg Port.state (huport d)) hcalm) ((State.lookup_congr hus hum l).trans hlook)
    ((State.owingBuffer_congr hub l).trans howing) (by rw [huentry]; exact hentry) (by rw [huport]; exact hon)
    (by rw [huport]; exact hwait) (by rw [huport]; exact hroom)
  rw [huentry, huport, hz, hp, State.push_eq_due, hpwork] at hbad
  have hzports : z.ports = (s.setPort c ((s.port c).replied label (.refuse label l .memoryFault))).ports := by
    rw [← hz]
    show u.ports.set c _ = s.ports.set c _
    rw [hup]
    rfl
  have hzentries : (z.setEntry e { (s.entry e).answered with copy := k }).entries =
      (s.setEntry e { (s.entry e).answered with copy := k }).entries := by
    rw [← hz, State.setEntry_setEntry]
    show u.entries.set e _ = s.entries.set e _
    rw [hue]
    rfl
  have hzq : z.claimQueue = s.claimQueue := by rw [← hz]; exact huq
  have hzt : z.tags = (s.freeTag i).tags := by rw [← hz]; exact hut
  have hzb : z.buffers = s.buffers := by rw [← hz]; exact hub
  have hza : z.awaiting = s.awaiting := by rw [← hz]; exact hua
  have hzwork : z.work = [] := by rw [← hz]; exact huwork
  have hzrun : z.running = true := by rw [← hz]; exact hurun
  have hworks := State.works_refused (p := p) hrest hheads hnone howing hq honly hentry hon (hpq.trans hzq) (hpt.trans hzt)
    (hpb.trans hzb) (hpa.trans hza) (hpp.trans hzports) (hpe.trans hzentries) (hprun.trans hzrun) (hpwork.trans hzwork)
  have hdry : (p.due [.advance e]).undrained := State.undrained_congr (s := p) rfl (State.undrained_congr
    (s := s.setPort c ((s.port c).replied label (.refuse label l .memoryFault))) (hpp.trans hzports)
    (State.undrained_setPort (State.atRest_undrained hrest) (Port.drained_state (by simp [Port.replied, hon]))))
  rw [hzwork] at hbad
  exact exec_memDone_entry hrest hrun hstatus hop (congrArg Entry.origin hentry) hu hbad ((hpq.trans hzq).trans hq) hdry hworks

include harray hbusy in
/-- The line's poison is installed. -/
theorem exec_memDone_poisons {v : WayNo} (hfree : s.freeSearch (setOf l) = some v) :
    exec (.memDone (BitVec.ofNat 8 i.val) (s.tag i).use status) s =
      .next (((((s.setPort c ((s.port c).replied label (.refuse label l .memoryFault))).setTag i
        { s.tag i with op := none }).putSet (setOf l) ((s.aset (setOf l)).installed v (tagOf l) Rec.poisoned)).setEntry e
          (Entry.free (s.entry e).use)).report (s.entryFault c e l)) := by
  let x : Entry := (s.entry e).answered
  let q : Port := (s.port c).replied label (.refuse label l .memoryFault)
  obtain ⟨u, hu⟩ : ∃ u, (s.freeTag i).report (s.entryFault c e l) = u := ⟨_, rfl⟩
  obtain ⟨z, hz⟩ : ∃ z, (u.setPort c q).setEntry e x = z := ⟨_, rfl⟩
  obtain ⟨hzs, hzm, hzn, -, hze⟩ := State.answered_parts hu hz
  have hreserved : (s.entry e).reserved = none := congrArg Entry.reserved hentry
  have hphase : (s.entry e).phase = .writingMemory := congrArg Entry.phase hentry
  have hzfree : z.freeSearch (setOf l) = some v :=
    (State.freeSearch_setEntry (x := x) _ hzs hzm hzn hreserved hreserved).trans hfree
  have hzbusy : z.busy l = some e := (State.busy_congr hzn l).trans
    (State.busy_setEntry hbusy (by rw [show x.phase = _ from hphase]; decide) (congrArg Entry.line hentry))
  have hpoison := State.poisonLine_installs (State.arrayLawful_congr hzs hzm harray) ((State.lookup_congr hzs hzm l).trans hlook)
    hzfree hzbusy
  rw [hze, State.aset_congr hzs] at hpoison
  have hdone := exec_memDone_refuses (k := some Rec.poisoned) hrest hrun hstatus hq hop howing hheads hcalm hnone hlook honly hentry
    hon hwait hroom hu hz hpoison rfl rfl rfl rfl rfl rfl rfl rfl
  rw [hdone, ← hz, ← hu]
  refine congrArg Host.Outcome.next ?_
  simp [State.freeTag, State.report_setPort, State.report_setTag, State.report_putSet, State.report_setEntry, x, q]

/-- With no way to be had for it, the line's poison is lost, and that is reported too. -/
theorem exec_memDone_loses (hfree : s.freeSearch (setOf l) = none) :
    exec (.memDone (BitVec.ofNat 8 i.val) (s.tag i).use status) s =
      .next (((((s.setPort c ((s.port c).replied label (.refuse label l .memoryFault))).setTag i
        { s.tag i with op := none }).setEntry e (Entry.free (s.entry e).use)).report (s.entryFault c e l)).report
          { kind := .memoryWriteFault, sub := none, agent := none, line := some l, set := some (setOf l), way := none
            entry := none, time := s.unitTime }) := by
  let x : Entry := (s.entry e).answered
  let q : Port := (s.port c).replied label (.refuse label l .memoryFault)
  obtain ⟨u, hu⟩ : ∃ u, (s.freeTag i).report (s.entryFault c e l) = u := ⟨_, rfl⟩
  obtain ⟨z, hz⟩ : ∃ z, (u.setPort c q).setEntry e x = z := ⟨_, rfl⟩
  obtain ⟨hzs, hzm, hzn, hztime, hze⟩ := State.answered_parts hu hz
  have hreserved : (s.entry e).reserved = none := congrArg Entry.reserved hentry
  have hzfree : z.freeSearch (setOf l) = none :=
    (State.freeSearch_setEntry (x := x) _ hzs hzm hzn hreserved hreserved).trans hfree
  have hpoison := State.poisonLine_lost ((State.lookup_congr hzs hzm l).trans hlook) hzfree
  rw [hztime] at hpoison
  let r : Report := { kind := .memoryWriteFault, sub := none, agent := none, line := some l, set := some (setOf l)
                      way := none, entry := none, time := s.unitTime }
  obtain ⟨hpq, hpt, hpb, hpa, hpp, hpe, -, -⟩ := z.report_parts r
  have hpe' : (z.report r).entries = (z.setEntry e { (s.entry e).answered with copy := x.copy }).entries := by
    rw [show { (s.entry e).answered with copy := x.copy } = x from rfl, State.setEntry_of_eq hze]
    exact hpe
  have hdone := exec_memDone_refuses (k := x.copy) hrest hrun hstatus hq hop howing hheads hcalm hnone hlook honly hentry
    hon hwait hroom hu hz hpoison hpq hpt hpb hpa hpp hpe' (State.report_running _ _) (State.report_work _ _)
  rw [hdone, ← hz, ← hu]
  refine congrArg Host.Outcome.next ?_
  simp [State.freeTag, State.report_setPort, State.report_setTag, State.report_setEntry, x, q]

end

end

end Sys2Proof.Machine
end

section
/-! SUPPORT. A failed write of a READ-SHARED's entry whose line has sharers: they are recalled first (R148, R150). -/

namespace Sys2Proof.Machine

section
variable {s : State} {e : EntryNo} {c : Agent} {label : Label} {l : Line} {w : WayNo} {h : AgentSet}

theorem Entry.unasked_none {x : Entry} (hpending : x.pending = Vector.replicate 6 none) (h : AgentSet) : x.unasked h = h := by
  refine foldl_fixed _ fun a _ => if_neg ?_
  rw [hpending, show (Vector.replicate 6 (none : Option PendingRecall))[a] = none from Vector.getElem_replicate _]
  decide

/-- The recalls of the agents that a set lists, asked of ready ports. -/
theorem State.asks_recallAll {k : RecallKind} (hactive : (s.entry e).phase ≠ .free)
    (hready : ∀ a, AgentSet.has h a = true → (s.port a).ready = true) :
    s.Asks (s.recallAll k e h) e ((AgentSet.list h).map (fun a => (a, k))) := by
  have hfold : s.recallAll k e h = ((AgentSet.list h).map (fun a => (a, k))).foldl (fun s p => s.addRecall p.2 e p.1) s := by
    rw [List.foldl_map]
    rfl
  rw [hfold]
  refine State.asks_recalls hactive ?_ fun a j ha => ?_
  · rw [List.map_map]
    exact (List.map_id _).symm ▸ AgentSet.list_nodup h
  · obtain ⟨b, hb, hba⟩ := List.mem_map.1 ha
    obtain ⟨rfl, -⟩ := Prod.mk.injEq .. ▸ hba
    exact hready b ((AgentSet.mem_list h b).1 hb)

theorem mem_recallPairs {k j : RecallKind} {a : Agent} :
    (a, j) ∈ (AgentSet.list h).map (fun a => (a, k)) ↔ AgentSet.has h a = true ∧ j = k := by
  rw [List.mem_map, ← AgentSet.mem_list]
  constructor
  · rintro ⟨b, hb, hba⟩
    cases hba
    exact ⟨hb, rfl⟩
  · rintro ⟨ha, rfl⟩
    exact ⟨a, ha, rfl⟩

/-- The entry of a failed write whose reply is placed recalls its line's sharers, and owes the poison (R148, R150). -/
theorem State.writeBad_recalls (hrun : s.running = true) (hcalm : s.calm (setOf l)) (howing : s.owingBuffer l = none)
    (hrec : s.lineRec l = some (w, { state := .shared, holders := h, pin := none })) (hne : h ≠ 0)
    (hentry : s.entry e = { s.entry e with
      kind := .req .readShared, origin := some (c, label), line := l, phase := .writingMemory
      pending := Vector.replicate 6 none, orphaned := false, reply := .placed, rebuild := false }) :
    s.writeBad e =
      ((s.setEntry e { s.entry e with poisonOwed := true, faultRecalls := h }).recallAll .invalidate e h).push (.advance e) := by
  have hline : (s.entry e).line = l := congrArg Entry.line hentry
  have hphase : (s.entry e).phase = .writingMemory := congrArg Entry.phase hentry
  have hkept : s.faultReply e = s := by
    unfold State.faultReply
    rw [show (s.entry e).kind = .req .readShared from congrArg Entry.kind hentry]
    dsimp only
    unfold State.replaceReply
    dsimp only
    rw [show (s.entry e).origin = some (c, label) from congrArg Entry.origin hentry,
      show (s.entry e).reply = .placed from congrArg Entry.reply hentry]
    exact ite_self _
  have hholders : s.holdersOf l = h := by
    unfold State.holdersOf
    rw [hrec]
  have hasked : (s.entry e).unasked (s.holdersOf (s.entry e).line) = h := by
    rw [hline, hholders, Entry.unasked_none (congrArg Entry.pending hentry)]
  have hinvalidate : s.invalidateListed e =
      (s.setEntry e { s.entry e with poisonOwed := true, faultRecalls := h }).recallAll .invalidate e h := by
    unfold State.invalidateListed
    dsimp only
    rw [hasked, State.modEntry_active (by rw [hphase]; decide)]
  have hends : s.writeBad e = (s.invalidateListed e).push (.advance e) := by
    unfold State.writeBad
    rw [hline, State.settleLineDebt_none howing,
      if_neg (by rw [show (s.entry e).rebuild = false from congrArg Entry.rebuild hentry]; decide), hkept,
      State.claimEntry_calm (by rw [hline]; exact hcalm)]
    dsimp only
    rw [if_neg (by simp [hrun]), hline, hholders, if_pos (by simpa using hne)]
  rw [hends, hinvalidate]

theorem AgentSet.list_ne_nil {h : AgentSet} (hne : h ≠ 0) : AgentSet.list h ≠ [] := by revert h; decide

/-- A report, with ports and entries set after it or before it. -/
theorem State.report_placed (s : State) (r : Report) (p : Vector Port 6) (x : Vector Entry 24) :
    { s.report r with ports := p, entries := x } = ({ s with ports := p, entries := x } : State).report r := by
  unfold State.report
  cases s.capture <;> rfl

/-- The step of an entry that owes the poison and still recalls: it waits in RECALLING. -/
theorem State.advance_owing (hphase : (s.entry e).phase.inFlight = true) (hrebuild : (s.entry e).rebuild = false)
    (howed : (s.entry e).poisonOwed = true) (hpending : (s.entry e).noPending = false) (hmem : s.memOp e = none)
    (horigin : (s.entry e).origin = some (c, label)) {k : ReqKind} (hkind : (s.entry e).kind = .req k) :
    s.advance e = s.setEntry e { s.entry e with phase := .recalling } := by
  have hstep : s.stepPlan e = s := by
    unfold State.stepPlan
    dsimp only
    rw [hkind, horigin]
    exact if_pos howed
  rw [State.advance_inFlight hphase, hrebuild, hpending, hstep, if_neg (by decide), if_neg (by simp),
    State.settlePhase_recalling hphase hmem hpending]

/-- A MEM-DONE that fails the write of a READ-SHARED whose line has sharers. -/
theorem exec_memDone_recalls {i : MemTagNo} {status : Byte} {left : Nat} (hrest : s.atRest) (hrun : s.running = true)
    (hstatus : status ≠ 0) (hq : s.claimQueue = [])
    (hop : (s.tag i).op = some { claim := { claimant := .entry e, write := true, line := l }, issued := true, left := left })
    (howing : s.owingBuffer l = none) (hcalm : s.calm (setOf l))
    (honly : ∀ m o, m ≠ i → (s.tag m).op = some o → o.claim.claimant ≠ .entry e)
    (hrec : s.lineRec l = some (w, { state := .shared, holders := h, pin := none })) (hne : h ≠ 0)
    (hentry : s.entry e = { s.entry e with
      kind := .req .readShared, origin := some (c, label), line := l, phase := .writingMemory
      pending := Vector.replicate 6 none, orphaned := false, reply := .placed, rebuild := false })
    (hready : ∀ x, AgentSet.has h x = true → (s.port x).ready = true) :
    ∃ t, exec (.memDone (BitVec.ofNat 8 i.val) (s.tag i).use status) s = .next t ∧
      (∀ x, AgentSet.has h x = true → t.port x = s.recalled x l .invalidate e (s.entry e).use ∧
        (t.entry e).pending[x] = some { kind := .invalidate, placed := true }) ∧
      (∀ x, AgentSet.has h x = false → t.port x = s.port x ∧ (t.entry e).pending[x] = none) ∧
      t.entry e = { s.entry e with phase := .recalling, poisonOwed := true, faultRecalls := h, pending := (t.entry e).pending } ∧
      (∀ f, f ≠ e → t.entry f = s.entry f) ∧
      t = (({ s with ports := t.ports, entries := t.entries } : State).setTag i { s.tag i with op := none }).report
        (s.entryFault c e l) := by
  let r : Report := s.entryFault c e l
  obtain ⟨huq, hut, hub, hua, hup, hue, hus, hum⟩ := (s.freeTag i).report_parts r
  have huset := (s.freeTag i).report_settings r
  have hurun := (State.report_running (s.freeTag i) r).trans hrun
  have huwork := (State.report_work (s.freeTag i) r).trans (State.atRest_work (s := s) hrest)
  obtain ⟨u, hu⟩ : ∃ u, (s.freeTag i).report r = u := ⟨_, rfl⟩
  rw [hu] at huq hut hub hua hup hue hus hum huset hurun huwork
  have huport : ∀ d, u.port d = s.port d := fun d => congrArg (fun x : Vector Port 6 => x[d]) hup
  have huentry : ∀ f, u.entry f = s.entry f := fun f => congrArg (fun x : Vector Entry 24 => x[f]) hue
  have hphase : (s.entry e).phase = .writingMemory := congrArg Entry.phase hentry
  have hline : (s.entry e).line = l := congrArg Entry.line hentry
  let x : Entry := { s.entry e with poisonOwed := true, faultRecalls := h }
  let v : State := u.setEntry e x
  have hve : v.entry e = x := State.setEntry_entry_same u e x
  have hvport : ∀ d, v.port d = s.port d := huport
  have hbad := State.writeBad_recalls (s := u) (e := e) (c := c) (label := label) (w := w) (h := h) hurun
    (State.calm_congr hus hum (fun d => congrArg Port.state (huport d)) hcalm) ((State.owingBuffer_congr hub l).trans howing)
    ((State.lineRec_congr hus hum l).trans hrec) hne (by rw [huentry]; exact hentry)
  rw [huentry] at hbad
  have hasks := State.asks_recallAll (s := v) (e := e) (k := .invalidate) (h := h) (by rw [hve, show x.phase = _ from hphase]; decide)
    (fun a ha => by rw [hvport]; exact hready a ha)
  obtain ⟨p, hp⟩ : ∃ p, v.recallAll .invalidate e h = p := ⟨_, rfl⟩
  rw [hp] at hasks hbad
  have hpe : p.entry e = { x with pending := (p.entry e).pending } := hasks.entry.trans (by rw [hve])
  have hppending : (p.entry e).noPending = false := hasks.pending (by simpa using AgentSet.list_ne_nil hne)
  have hpmem : p.memOp e = none := (hasks.memOp e).trans
    ((State.memOp_congr (s := s.freeTag i) (t := v) huq hut e).trans (State.memOp_freeTag hq honly))
  have hpwork : p.work = [] := hasks.work.trans huwork
  have hprun : p.running = true := hasks.running.trans hurun
  have hpdry : p.undrained :=
    hasks.undrained (State.undrained_congr (s := s) (t := v) hup (State.atRest_undrained hrest))
  let t : State := p.setEntry e { p.entry e with phase := .recalling }
  have hte : t.entry e = { p.entry e with phase := .recalling } := State.setEntry_entry_same p e _
  have hstep : (p.due []).runTask (.advance e) = t.due [] := by
    rw [State.runTask_running (s := p.due []) hprun]
    refine State.advance_owing (s := p.due []) (c := c) (label := label) (k := .readShared) ?_ ?_ ?_ hppending
      ((State.memOp_congr rfl rfl e).trans hpmem) ?_ ?_
    all_goals rw [State.due_entry, hpe]
    · exact congrArg Phase.inFlight hphase
    · exact congrArg Entry.rebuild hentry
    · exact congrArg Entry.origin hentry
    · exact congrArg Entry.kind hentry
  have htdry : t.undrained := State.undrained_congr (s := p) rfl hpdry
  have hworks : Works 1 (p.due [.advance e]) t := .step hstep htdry (.ended hpwork)
  rw [State.push_eq_due, hpwork] at hbad
  have hdone := exec_memDone_entry hrest hrun hstatus hop (congrArg Entry.origin hentry) hu hbad
    (hasks.claimQueue.trans (huq.trans hq)) (State.undrained_congr (s := p) rfl hpdry) hworks
  have hrecalled : ∀ a, v.recalled a (v.entry e).line .invalidate e (v.entry e).use =
      s.recalled a l .invalidate e (s.entry e).use := fun a => by
    unfold State.recalled
    rw [hvport, hve, show v.settings = s.settings from huset, show x.line = l from hline]
  refine ⟨t, hdone, fun a ha => ?_, fun a ha => ?_, ?_, fun f hf => ?_, ?_⟩
  · have hmem := mem_recallPairs.2 ⟨ha, (rfl : RecallKind.invalidate = _)⟩
    rw [hte]
    exact ⟨(hasks.port_asked a _ hmem).trans (hrecalled a), hasks.pending_asked a _ hmem⟩
  · have hout : ∀ j, (a, j) ∉ (AgentSet.list h).map (fun b => (b, RecallKind.invalidate)) := fun j hj => by
      rw [(mem_recallPairs.1 hj).1] at ha
      cases ha
    rw [hte]
    refine ⟨(hasks.port_other a hout).trans (hvport a), (hasks.pending_other a hout).trans ?_⟩
    rw [hve, show x.pending = Vector.replicate 6 none from congrArg Entry.pending hentry]
    exact Vector.getElem_replicate _
  · rw [hte]
    exact congrArg (fun y : Entry => { y with phase := .recalling }) hpe
  · rw [State.setEntry_entry_ne p _ fun hef => hf hef.symm, hasks.others f hf, State.setEntry_entry_ne u x fun hef => hf hef.symm]
    exact huentry f
  · have ht : t = { v with ports := t.ports, entries := t.entries } :=
      congrArg (fun q : State => { q with entries := t.entries }) hasks.rest
    rw [show ({ s with ports := t.ports, entries := t.entries } : State).setTag i { s.tag i with op := none } =
      { s.freeTag i with ports := t.ports, entries := t.entries } from rfl, ← State.report_placed, hu]
    exact ht

end

end Sys2Proof.Machine
end

section
/-! SUPPORT. The last recall of an entry that owes its line's poison: the record is poisoned in place (R148, R150). -/

namespace Sys2Proof.Machine

section
variable {s : State} {e : EntryNo} {l : Line} {w : WayNo} {h : AgentSet}

/-- The reply of a recall pending at an entry is for that entry (R92). -/
theorem State.matchReply_pending {a : Agent} {p : PendingRecall} (hactive : (s.entry e).phase ≠ .free)
    (hpending : (s.entry e).pending[a] = some p) (hplaced : p.placed = true) :
    s.matchReply a (entryByte e) (s.entry e).use = some e := by
  have hval : (entryByte e).toNat = e.val := by
    rw [entryByte, BitVec.toNat_ofNat]
    exact Nat.mod_eq_of_lt (by omega)
  refine find?_of_only (mem_entryNos e) ?_ fun f hf => ?_
  · rw [hval, hpending]
    simp [hactive, hplaced]
  · simp only [hval, Bool.and_eq_true, beq_iff_eq] at hf
    exact Fin.ext hf.1.1.1

/-- The end without data of a recall that a write fault asked for: nothing but the entry knows it (R150). -/
theorem State.applyReply_owed {b : Agent} {p : PendingRecall} {held : Bool} (hactive : (s.entry e).phase ≠ .free)
    (hpending : (s.entry e).pending[b] = some p) (howed : (s.entry e).poisonOwed = true)
    (hasked : AgentSet.has (s.entry e).faultRecalls b = true) : s.applyReply e b (.ack held) =
      (s.setEntry e { s.entry e with pending := (s.entry e).pending.set b none }).push (.advance e) := by
  unfold State.applyReply
  rw [hpending]
  dsimp only
  rw [State.modEntry_active hactive, howed, hasked]
  rfl

/-- A record poisoned in place: its holders' counts fall (R150). -/
theorem State.poisonLine_edits (harray : s.arrayLawful) (hbusy : s.busy l = some e)
    (hrec : s.lineRec l = some (w, { state := .shared, holders := h, pin := none }))
    (hstate : ∀ x, AgentSet.has h x = true → (s.port x).state ≠ .draining) :
    (∀ c, (s.poisonLine l).port c =
      { s.port c with holding := (s.port c).holding - (if AgentSet.has h c then 1 else 0) }) ∧
    (s.poisonLine l).sets = (s.putSet (setOf l) ((s.aset (setOf l)).edited w Rec.poisoned false)).sets ∧
    (s.poisonLine l).entries = (s.setEntry e { s.entry e with copy := some Rec.poisoned }).entries ∧
    s.poisonLine l = { s with
      sets := (s.poisonLine l).sets, ports := (s.poisonLine l).ports, entries := (s.poisonLine l).entries } := by
  let y := (s.aset (setOf l)).edited w Rec.poisoned false
  let u := (s.putSet (setOf l) y).setEntry e { s.entry e with copy := some Rec.poisoned }
  have hedit : s.editState l w Rec.poisoned false = u := by
    have hbusy' : (s.putSet (setOf l) y).busy l = some e := (State.busy_congr (s := s) rfl l).trans hbusy
    rw [State.editState_eq harray, State.changeBusy_some hbusy']
    rfl
  have hpoison : s.poisonLine l = (AgentSet.list h).foldl State.subHold u := by
    unfold State.poisonLine
    rw [hrec]
    dsimp only
    unfold State.poisonRec
    rw [if_neg (by simp), hedit]
  obtain ⟨hports, hrest⟩ := State.subHolds_ports (s := u) (AgentSet.list_nodup h)
    fun c hc => hstate c ((AgentSet.mem_list h c).1 hc)
  rw [hpoison]
  generalize (AgentSet.list h).foldl State.subHold u = t at hports hrest
  refine ⟨fun c => ?_, by rw [hrest]; rfl, by rw [hrest]; rfl, by rw [hrest]; rfl⟩
  rw [hports c, show u.port c = s.port c from rfl]
  simp only [AgentSet.mem_list]

/-- The step of an entry that owes its line's poison and has no recall pending (R150). -/
theorem State.advance_poisons (hphase : (s.entry e).phase.inFlight = true) (hrebuild : (s.entry e).rebuild = false)
    (howed : (s.entry e).poisonOwed = true) (hpending : (s.entry e).noPending = true) (hline : (s.entry e).line = l)
    (hrun : s.running = true) (hcalm : s.calm (setOf l)) {r : Rec} (hrec : s.lineRec l = some (w, r)) :
    s.advance e = ((s.setEntry e { s.entry e with poisonOwed := false }).poisonLine l).push (.advance e) := by
  let x : Entry := { s.entry e with poisonOwed := false }
  let u : State := s.setEntry e x
  have hul : (u.entry e).line = l := (congrArg Entry.line (State.setEntry_entry_same s e x)).trans hline
  have hulive : (u.lineRec l).isNone = false := by
    rw [show u.lineRec l = s.lineRec l from rfl, hrec]
    rfl
  rw [State.advance_inFlight hphase, hrebuild, howed, hpending, if_neg (by decide), if_pos (by decide)]
  unfold State.makePoison
  dsimp only
  rw [State.modEntry_active (Phase.inFlight_active hphase), State.claimEntry_calm (by rw [hul]; exact hcalm),
    if_neg (by rw [State.setEntry_running, hrun]; decide), hul, hulive, if_neg (by decide)]

theorem State.setPort_head {a : Agent} {p : Port} (hp : p.head = (s.port a).head) (c : Agent) :
    ((s.setPort a p).port c).head = (s.port c).head := by
  rw [State.setPort_port]
  split
  · next hac => rw [hp, hac]
  · rfl

/-- The last acknowledgement of the recalls that a write fault asked for. -/
theorem exec_recallAck_poisons {b : Agent} {held : Bool} (hrest : s.atRest) (hlawful : s.recordsLawful) (hheads : s.noHeadWaits)
    (hcalm : s.calm (setOf l)) (hnone : s.noneAwaiting (setOf l)) (hbusy : s.busy l = some e) (hmem : s.memOp e = none)
    (howing : s.owingBuffer l = none) (htakes : s.takesHead b (.recallAck (entryByte e) (s.entry e).use held))
    (hrec : s.lineRec l = some (w, { state := .shared, holders := h, pin := none }))
    (hentry : s.entry e = { s.entry e with
      kind := .req .readShared, line := l, phase := .recalling, recheck := false, orphaned := false, deferred := []
      pending := (Vector.replicate 6 none).set b (some { kind := .invalidate, placed := true }), reserved := none
      reply := .placed, poisonOwed := true, rebuild := false, breaking := false, saves := false })
    (hasked : AgentSet.has (s.entry e).faultRecalls b = true) (hon : (s.port b).state = .online)
    (hholders : ∀ x, AgentSet.has h x = true → (s.port x).state = .online) :
    let asked := { s.port b with responses := (s.port b).responses.tail }
    ∃ t, exec (.responseHandlerRecallReply b) s = .next t ∧
      t.sets = (s.putSet (setOf l) ((s.aset (setOf l)).edited w Rec.poisoned false)).sets ∧
      t.entries = (s.setEntry e (Entry.free (s.entry e).use)).entries ∧
      (∀ x, t.port x = { (if x = b then asked else s.port x) with
        holding := (s.port x).holding - (if AgentSet.has h x then 1 else 0) }) ∧
      t = { s with sets := t.sets, ports := t.ports, entries := t.entries } := by
  intro asked
  have harray := hlawful.1
  obtain ⟨hrun, -⟩ := State.takesHead_running htakes
  have hphase : (s.entry e).phase = .recalling := congrArg Entry.phase hentry
  have hline : (s.entry e).line = l := congrArg Entry.line hentry
  have hactive : (s.entry e).phase ≠ .free := by rw [hphase]; decide
  have hpending : (s.entry e).pending[b] = some { kind := .invalidate, placed := true } := by
    rw [show (s.entry e).pending = _ from congrArg Entry.pending hentry]
    exact Vector.getElem_set_self _
  let x : Entry := { s.entry e with pending := (s.entry e).pending.set b none }
  let y : Entry := { x with poisonOwed := false }
  let z : State := (s.setEntry e x).setPort b asked
  let v : State := z.setEntry e y
  have hf : s.handle b .reply = z.due [.advance e, .admission] := by
    have hport : ((s.setEntry e x).push (.advance e)).port b = s.port b := rfl
    rw [State.handle_recallAck htakes (State.matchReply_pending hactive hpending rfl),
      State.applyReply_owed hactive hpending (congrArg Entry.poisonOwed hentry) hasked,
      State.takeResponse_head (by rw [hport, hon]; decide), hport, State.push_eq_due, State.push_eq_due,
      show (s.setEntry e x).work = [] from State.atRest_work (s := s) hrest]
    rfl
  have hze : z.entry e = x := State.setEntry_entry_same s e x
  have hve : v.entry e = y := State.setEntry_entry_same z e y
  have hnopending : x.noPending = true := by
    refine Entry.noPending_of (x := x) ?_
    show (s.entry e).pending.set b none = _
    rw [show (s.entry e).pending = (Vector.replicate 6 none).set b (some { kind := .invalidate, placed := true }) from
      congrArg Entry.pending hentry, Vector.set_set]
    exact Vector.ext fun i hi => by simp
  have hzport : ∀ c, z.port c = if c = b then asked else s.port c := fun c => by
    rw [State.setPort_port]
    simp only [eq_comm]
    rfl
  have hzstate : ∀ c, (z.port c).state = (s.port c).state := State.setPort_state (s := s.setEntry e x) rfl
  have hzcalm : z.calm (setOf l) := State.calm_congr (s := s) (t := z) rfl rfl hzstate hcalm
  have hfly : x.phase.inFlight = true := congrArg Phase.inFlight hphase
  have hadvance := State.advance_poisons (s := z.due [.admission]) (e := e) (l := l) (w := w)
    (by rw [State.due_entry, hze]; exact hfly) (by rw [State.due_entry, hze]; exact congrArg Entry.rebuild hentry)
    (by rw [State.due_entry, hze]; exact congrArg Entry.poisonOwed hentry) (by rw [State.due_entry, hze]; exact hnopending)
    (by rw [State.due_entry, hze]; exact hline) hrun hzcalm hrec
  rw [State.due_entry, hze] at hadvance
  have hvbusy : (v.due [.admission]).busy l = some e := State.busy_setEntry (s := z.due [.admission])
    (State.busy_setEntry hbusy hactive hline) hactive hline
  obtain ⟨hqport, hqs, hqn, hqrest⟩ := State.poisonLine_edits (s := v.due [.admission]) harray hvbusy hrec fun c hc => by
    rw [State.due_port, show v.port c = z.port c from rfl, hzstate, hholders c hc]
    decide
  obtain ⟨q, hq⟩ : ∃ q, (v.due [.admission]).poisonLine l = q := ⟨_, rfl⟩
  rw [hq] at hqport hqs hqn hqrest
  rw [State.due_entry, hve] at hqn
  let y' : Entry := { y with copy := some Rec.poisoned }
  have hqn' : q.entries = (s.setEntry e y').entries := hqn.trans (by
    show ((s.entries.set e x).set e y).set e y' = s.entries.set e y'
    rw [Vector.set_set, Vector.set_set])
  have hqe : q.entry e = y' := (congrArg (fun n : Vector Entry 24 => n[e]) hqn').trans (State.setEntry_entry_same s e y')
  obtain ⟨hqwork, hqunit, hqq, hqt, hqb, hqa⟩ : q.work = [.admission] ∧ q.unitState = s.unitState ∧
      q.claimQueue = s.claimQueue ∧ q.tags = s.tags ∧ q.buffers = s.buffers ∧ q.awaiting = s.awaiting := by
    rw [hqrest]
    simp [v, z]
  have hqstate : ∀ c, (q.port c).state = (s.port c).state := fun c => by rw [hqport]; exact hzstate c
  have hqhead : ∀ c, (q.port c).head = (s.port c).head := fun c => by
    rw [hqport]
    exact State.setPort_head (s := s.setEntry e x) (a := b) (p := asked) rfl c
  have hqhold : ∀ c, q.port c = { (if c = b then asked else s.port c) with
      holding := (s.port c).holding - (if AgentSet.has h c then 1 else 0) } := fun c => by
    rw [hqport, State.due_port, show v.port c = z.port c from rfl, hzport]
    split
    · next hcb => rw [hcb]
    · rfl
  have hqdry : q.undrained := fun c => by
    by_cases honline : (s.port c).state = .online
    · exact Port.drained_state (by rw [hqstate, honline]; decide)
    · have hcb : c ≠ b := fun hcb => honline (hcb ▸ hon)
      have hout : AgentSet.has h c = false := Bool.eq_false_iff.2 fun hc => honline (hholders c hc)
      rw [hqhold, if_neg hcb, hout]
      exact State.atRest_undrained hrest c
  have hqheads : q.noHeadWaits := State.noHeadWaits_iff.2 fun c => by
    rw [Port.headWaits, hqhead]
    exact State.noHeadWaits_iff.1 hheads c
  have hqrun : q.running = true := by
    unfold State.running
    rw [hqunit]
    exact hrun
  have hql : (q.entry e).line = l := by rw [hqe]; exact hline
  have hqmem : q.memOp e = none := (State.memOp_congr hqq hqt e).trans hmem
  have hqowing : q.owingBuffer l = none := (State.owingBuffer_congr hqb l).trans howing
  have hqnone : q.noneAwaiting (setOf l) :=
    State.noneAwaiting_congr (s := s.setEntry e y') hqa hqn'
      (State.noneAwaiting_setEntry hnone (State.not_awaiting hnone (congrArg setOf hline)) y')
  have hfin : (q.entry e).finished := by
    rw [hqe]
    exact { phase := hfly
            pending := hnopending
            reply := by rw [show y'.reply = .placed from congrArg Entry.reply hentry]; decide
            breaking := congrArg Entry.breaking hentry
            owed := rfl
            rebuild := congrArg Entry.rebuild hentry
            answered := .inr (.inl (congrArg Entry.reply hentry))
            dependent := .inr (by rw [show y'.kind = .req .readShared from congrArg Entry.kind hentry]; decide)
            recheck := congrArg Entry.recheck hentry
            deferred := congrArg Entry.deferred hentry }
  have hfrees := State.works_frees (s := q) (l := []) hfin
    (fun j => State.stepPlan_replied (s := q.due j) (by rw [State.due_entry, hqe]; exact congrArg Entry.reply hentry)
      (by rw [State.due_entry, hqe]; exact congrArg Entry.orphaned hentry)
      (by rw [State.due_entry, hqe]; exact congrArg Entry.saves hentry))
    hqmem hqrun (by rw [hql]; exact hqowing) (by rw [hql]; exact hqnone) hqheads hqdry (by simp)
  rw [hqe] at hfrees
  have hstep : (z.due [.admission]).runTask (.advance e) = q.due [.admission, .advance e] := by
    rw [State.runTask_running (s := z.due [.admission]) hrun]
    dsimp only
    rw [hadvance, show (z.due [.admission]).setEntry e { x with poisonOwed := false } = v.due [.admission] from rfl, hq,
      State.push_eq_due, hqwork]
    rfl
  have hqdry' : (q.due [.admission, .advance e]).undrained := State.undrained_congr (s := q) rfl hqdry
  have hzdry : (z.due [.advance e, .admission]).undrained := State.undrained_congr (s := z) rfl
    (State.undrained_setPort (s := s.setEntry e x) (State.atRest_undrained hrest)
      (Port.drained_state (by rw [show asked.state = .online from hon]; decide)))
  have hworks : Works 5 (z.due [.advance e, .admission]) ((q.setEntry e (Entry.free y'.use)).due []) :=
    .step hstep hqdry' (.pass (s := q.due [.admission, .advance e]) rfl (State.idles_admission hqheads) (by simp) hqdry hfrees)
  let t : State := (q.setEntry e (Entry.free y'.use)).due []
  rw [exec_responseHandlerRecallReply]
  refine ⟨t, Works.event (State.atRest_resetPin hrest) (by rw [hf]; exact hworks) (by rw [hf]; exact hzdry), ?_, ?_, hqhold, ?_⟩
  · show q.sets = _
    exact hqs
  · show (q.setEntry e (Entry.free y'.use)).entries = _
    show q.entries.set e _ = s.entries.set e _
    rw [hqn']
    show (s.entries.set e y').set e _ = s.entries.set e _
    rw [Vector.set_set]
  · have hcarried : { v.due [.admission] with sets := q.sets, ports := q.ports, entries := q.entries } =
        { s.due [.admission] with sets := q.sets, ports := q.ports, entries := q.entries } := by simp [v, z]
    have ht : t = { s.due [] with sets := t.sets, ports := t.ports, entries := t.entries } :=
      congrArg (fun p : State => { p with entries := t.entries, work := [] }) (hqrest.trans hcarried)
    rw [ht, State.due_self (State.atRest_work hrest)]

end

end Sys2Proof.Machine
end

section
/-! Failed memory writes, settled. -/

namespace Sys2Proof.Machine

/-- Settles O33: the failed write of a buffer and of an entry, with and without a way for the poison and with sharers to
recall; then the last of those recalls. -/
theorem writeFaultsOweOrPoison : Obligations.WriteFaultsOweOrPoison := by
  refine ⟨fun i status l left by_ s hrest hrun hstatus hq howing hop => ?_,
    fun b held e l w h s hrest hlawful hheads hcalm hnone hbusy hmem howing htakes hrec hentry hasked hon hholders => ?_⟩
  · intro n failed fault freed refused others poisoned quiet only
    refine ⟨fun b hby hwriting hline hlate hready => ?_,
      fun e c label hby hquiet hbusy hlook honly hentry hon hwait hroom => ?_,
      fun e c label w h hby hquiet hbusy honly hrec hentry hready => ?_⟩
    · subst hby
      intro a acked
      refine ⟨fun f hbusy hheld => exec_memDone_owes hrest hrun hstatus hq hop hline hlate hready hbusy hheld,
        fun e j v c label first right k hquiet hbusy hlook hfree hentry hheld hpassed honly hwaiters hon hwait hroom => ?_⟩
      obtain ⟨hlawful, hheads, hcalm, hnone⟩ := hquiet
      have hdone := exec_memDone_readFails hrest hrun hstatus hq hop hline hlate hready howing hlawful.1 hheads hcalm hnone hbusy
        hlook hfree hentry hheld hpassed honly hwaiters hon hwait hroom
      let p : Port := { s.port a with output := (s.port a).output ++ [.wbAck l] }
      let u : State := ((s.setPort a p).setTag i { s.tag i with op := none }).setTag j { s.tag j with op := none }
      obtain ⟨-, -, -, -, -, hentries, hsets, hmarks⟩ := (u.readFailed b e l v c label).report_parts (s.bufferFault b l)
      obtain ⟨husets, humarks, huentries, hurest⟩ := u.readFailed_parts b e l v c label
      have hinstalled : (u.readFailed b e l v c label).sets =
          (s.putSet (setOf l) ((s.aset (setOf l)).installed v (tagOf l) Rec.poisoned)).sets := by
        rw [husets, State.putSet_sets, State.putSet_sets]
        simp [u]
      have hfreed : (u.readFailed b e l v c label).entries = (s.setEntry e (Entry.free (s.entry e).use)).entries := by
        rw [huentries, show u.entry e = s.entry e by simp [u]]
        exact congrArg (fun x : Vector Entry 24 => x.set e (Entry.free (s.entry e).use)) (show u.entries = s.entries by simp [u])
      refine ⟨_, hdone, State.poisonInstalled hlawful.1 hlook hfree (hsets.trans hinstalled)
        (hmarks.trans (humarks.trans (by simp [u]))) (hentries.trans hfreed), ?_⟩
      rw [hsets, hentries]
      refine congrArg (fun x : State => x.report (s.bufferFault b l)) (hurest.trans ?_)
      rfl
    · subst hby
      obtain ⟨hlawful, hheads, hcalm, hnone⟩ := hquiet
      refine ⟨fun v hfree => ?_, fun hfree => ?_⟩
      · have hdone := exec_memDone_poisons hrest hrun hstatus hq hop howing hlawful.1 hheads hcalm hnone hbusy hlook honly hentry hon
          hwait hroom hfree
        obtain ⟨-, -, -, -, -, hentries, hsets, hmarks⟩ := State.report_parts ((((s.setPort c
          ((s.port c).replied label (.refuse label l .memoryFault))).setTag i { s.tag i with op := none }).putSet (setOf l)
            ((s.aset (setOf l)).installed v (tagOf l) Rec.poisoned)).setEntry e (Entry.free (s.entry e).use)) (s.entryFault c e l)
        refine ⟨_, hdone, State.poisonInstalled hlawful.1 hlook hfree hsets hmarks hentries, ?_⟩
        rw [hsets, hentries]
        rfl
      · exact exec_memDone_loses hrest hrun hstatus hq hop howing hheads hcalm hnone hlook honly hentry hon hwait hroom hfree
    · subst hby
      obtain ⟨hlawful, hheads, hcalm, hnone⟩ := hquiet
      obtain ⟨-, hne⟩ := Rec.shared_of (State.lineRec_lawful hlawful.1 hrec) rfl
      exact exec_memDone_recalls hrest hrun hstatus hq hop howing hcalm honly hrec hne hentry hready
  · intro asked
    obtain ⟨hlook, -⟩ := State.lineRec_some hrec
    obtain ⟨t, hdone, hsets, hentries, hports, hsame⟩ := exec_recallAck_poisons hrest hlawful hheads hcalm hnone hbusy hmem howing
      htakes hrec hentry hasked hon hholders
    have harray := hlawful.1
    have hmarks : t.marks = s.marks := by rw [hsame]
    have haset := (State.aset_congr hsets (setOf l)).trans (State.putSet_aset_same harray (setOf l) _)
    have hentry' : ∀ f, t.entry f = (s.setEntry e (Entry.free (s.entry e).use)).entry f := fun f =>
      congrArg (fun x : Vector Entry 24 => x[f]) hentries
    refine ⟨t, hdone, (State.lineRec_congr hsets hmarks l).trans (State.lineRec_edited harray hlook _ _), ?_, fun v hv => ?_,
      fun k hk => (State.aset_congr hsets k).trans (State.putSet_aset_ne harray _ _ hk), hports,
      (hentry' e).trans (State.setEntry_entry_same s e _),
      fun f hf => (hentry' f).trans (State.setEntry_entry_ne s _ fun hef => hf hef.symm), hsame⟩
    · rw [haset]
      rfl
    · rw [haset, ASet.edited_ways_ne _ _ _ hv]

end Sys2Proof.Machine
end

section
/-! SUPPORT. The array after a rebuild: the lost record freed or poisoned, its marks ended (R177 to R180). -/

namespace Sys2Proof.Machine

/-! ### A freed way on a lawful array -/

theorem ASet.freed_ways_same (x : ASet) (w : WayNo) :
    (x.freed w).ways[w] = { x.ways[w] with tag1 := Coded.fresh none, tag2 := Coded.fresh none } :=
  (ways_set _ w w _).trans (if_pos rfl)

theorem ASet.freed_order (x : ASet) (w : WayNo) : (x.freed w).order.value = x.order.value.filter (fun v => v != w) := rfl

theorem ASet.freed_tag_same (x : ASet) (w : WayNo) : (x.freed w).ways[w].tag1.value = none := by
  rw [ASet.freed_ways_same]
  rfl

theorem ASet.lawful_freed {x : ASet} (h : x.lawful) (w : WayNo) : (x.freed w).lawful := by
  obtain ⟨hways, honce, hnodup, hlisted⟩ := h
  have htag : ∀ v : WayNo, (x.freed w).ways[v].tag1.value = if v = w then none else x.ways[v].tag1.value := fun v => by
    split
    · next hvw => rw [hvw, ASet.freed_tag_same]
    · next hvw => rw [ASet.freed_ways_ne x hvw]
  refine ⟨fun v => ?_, fun u v t hu hv => ?_, ?_, fun v => ?_⟩
  · by_cases hvw : v = w
    · rw [hvw, ASet.freed_ways_same]
      exact ⟨rfl, fun h => absurd h (by simp [Coded.fresh])⟩
    · rw [ASet.freed_ways_ne x hvw]
      exact hways v
  · rw [htag] at hu hv
    split at hu
    · cases hu
    · split at hv
      · cases hv
      · exact honce u v t hu hv
  · rw [ASet.freed_order]
    exact hnodup.filter _
  · rw [ASet.freed_order, List.mem_filter, htag, hlisted]
    by_cases hvw : v = w <;> simp [hvw]

theorem State.arrayLawful_freed {s : State} (h : s.arrayLawful) (n : SetNo) (w : WayNo) :
    (s.putSet n ((s.aset n).freed w)).arrayLawful :=
  State.arrayLawful_putSet h (ASet.lawful_freed (h.1 n) w) fun v hv => by
    by_cases hvw : v = w
    · rw [hvw, ASet.freed_tag_same]
    · rw [ASet.freed_ways_ne _ hvw]
      exact h.2.1 n v hv

/-! ### The rebuilt array -/

/-- The marks of a way whose rebuild has ended: a disable that was due is made (R180). -/
def Marks.rebuilt (m : Marks) : Marks := { strike := m.strike, disable := m.due, lost := false, due := false }

/-- The alert of a way disabled at the end of its rebuild. -/
def State.wayDisabled (s : State) (due : Bool) : State :=
  { s with alertPending := if due then s.alertPending ||| (1#12 <<< 9) else s.alertPending }

/-- The array with the lost record gone and its way's marks ended. -/
def State.wayCleared (s : State) (l : Line) (w : WayNo) : State :=
  (s.putSet (setOf l) ((s.aset (setOf l)).freed w)).putMark (setOf l) w (s.mark (setOf l) w).rebuilt

/-- The array with the line's poison installed in a way. -/
def State.poisonPut (s : State) (l : Line) (u : WayNo) : State :=
  s.putSet (setOf l) ((s.aset (setOf l)).installed u (tagOf l) Rec.poisoned)

/-- The array after a rebuild that found the line unchanged, or did not (R179, R180). -/
def State.rebuiltArray (s : State) (l : Line) (w : WayNo) (good : Bool) : State :=
  if good then s.wayCleared l w
  else if (s.mark (setOf l) w).due then (s.freeSearch (setOf l)).elim (s.wayCleared l w) ((s.wayCleared l w).poisonPut l)
  else (s.putSet (setOf l) ((s.aset (setOf l)).edited w Rec.poisoned false)).putMark (setOf l) w (s.mark (setOf l) w).rebuilt

section
variable {s : State} {l : Line} {w : WayNo} (h : s.arrayLawful) (hlook : s.lookup l = some w)
include h

theorem State.wayCleared_lawful : (s.wayCleared l w).arrayLawful :=
  State.arrayLawful_putMark (State.arrayLawful_freed h _ w) fun _ => by
    rw [State.putSet_aset_same h, ASet.freed_tag_same]

theorem State.wayCleared_aset_same : (s.wayCleared l w).aset (setOf l) = (s.aset (setOf l)).freed w :=
  State.putSet_aset_same h (setOf l) _

theorem State.wayCleared_aset_ne {k : SetNo} (hk : k ≠ setOf l) : (s.wayCleared l w).aset k = s.aset k :=
  State.putSet_aset_ne h (setOf l) _ hk

theorem State.wayCleared_mark (k : SetNo) (v : WayNo) : (s.wayCleared l w).mark k v =
    if setOf l = k ∧ w = v then (s.mark (setOf l) w).rebuilt else s.mark k v :=
  State.putMark_mark (s := s.putSet (setOf l) ((s.aset (setOf l)).freed w)) h.2.2.2 (setOf l) k w v _

/-- What the array has for the ways of the set whose record is gone. -/
theorem State.wayCleared_wayTag (v : WayNo) : (s.wayCleared l w).wayTag (setOf l) v =
    if v = w then none else s.wayTag (setOf l) v := by
  rw [State.wayTag_lawful (State.wayCleared_lawful h), State.wayTag_lawful h, State.wayCleared_aset_same h]
  split
  · next hvw => rw [hvw, ASet.freed_tag_same]
  · next hvw => rw [ASet.freed_ways_ne _ hvw]

include hlook

/-- With its record gone the line is absent. -/
theorem State.wayCleared_lookup : (s.wayCleared l w).lookup l = none := State.lookup_none_of fun v => by
  rw [State.wayCleared_wayTag h]
  split
  · simp
  · next hvw => exact fun hv => hvw (State.wayTag_unique h hv (State.lookup_inUse hlook))

end

/-! ### What the rebuilt array has -/

section
variable {s : State} {l : Line} {w : WayNo}

theorem State.rebuiltArray_good : s.rebuiltArray l w true = s.wayCleared l w := if_pos rfl

theorem State.rebuiltArray_kept (hdue : (s.mark (setOf l) w).due = false) : s.rebuiltArray l w false =
    (s.putSet (setOf l) ((s.aset (setOf l)).edited w Rec.poisoned false)).putMark (setOf l) w (s.mark (setOf l) w).rebuilt := by
  unfold State.rebuiltArray
  rw [if_neg (by decide), if_neg (by rw [hdue]; decide)]

theorem State.rebuiltArray_moved {u : WayNo} (hdue : (s.mark (setOf l) w).due = true) (hfree : s.freeSearch (setOf l) = some u) :
    s.rebuiltArray l w false = (s.wayCleared l w).poisonPut l u := by
  unfold State.rebuiltArray
  rw [if_neg (by decide), if_pos hdue, hfree]
  rfl

theorem State.rebuiltArray_rest (good : Bool) : s.rebuiltArray l w good =
    { s with sets := (s.rebuiltArray l w good).sets, marks := (s.rebuiltArray l w good).marks } := by
  unfold State.rebuiltArray
  split
  · rfl
  · split
    · cases s.freeSearch (setOf l) <;> rfl
    · rfl

theorem State.rebuiltArray_marks (good : Bool) : (s.rebuiltArray l w good).marks =
    (s.putMark (setOf l) w (s.mark (setOf l) w).rebuilt).marks := by
  unfold State.rebuiltArray
  split
  · rfl
  · split
    · cases s.freeSearch (setOf l) <;> rfl
    · rfl

theorem State.rebuiltArray_aset_ne (h : s.arrayLawful) (good : Bool) {k : SetNo} (hk : k ≠ setOf l) :
    (s.rebuiltArray l w good).aset k = s.aset k := by
  unfold State.rebuiltArray
  split
  · exact State.wayCleared_aset_ne h hk
  · split
    · cases s.freeSearch (setOf l) with
      | none => exact State.wayCleared_aset_ne h hk
      | some u =>
        exact (State.putSet_aset_ne (State.wayCleared_lawful h) (setOf l) _ hk).trans (State.wayCleared_aset_ne h hk)
    · exact State.putSet_aset_ne h (setOf l) _ hk

theorem State.rebuiltArray_mark (h : s.arrayLawful) (good : Bool) (k : SetNo) (v : WayNo) : (s.rebuiltArray l w good).mark k v =
    if setOf l = k ∧ w = v then (s.mark (setOf l) w).rebuilt else s.mark k v :=
  (State.mark_congr (State.rebuiltArray_marks good) k v).trans (State.putMark_mark h.2.2.2 (setOf l) k w v _)

/-- The way that the search names for a poison has no record. -/
theorem State.freeSearch_unused {n : SetNo} {u : WayNo} (h : s.freeSearch n = some u) : s.wayTag n u = none :=
  (State.available_iff.1 (State.freeSearch_iff.1 h).1).2.1

section
variable (h : s.arrayLawful) (hlook : s.lookup l = some w)
include h hlook

/-- A line found unchanged is absent, and the set's other ways and their order stay (R179). -/
theorem State.rebuiltArray_absent : (s.rebuiltArray l w true).lookup l = none ∧
    (∀ v, v ≠ w → ((s.rebuiltArray l w true).aset (setOf l)).ways[v] = (s.aset (setOf l)).ways[v]) ∧
    ((s.rebuiltArray l w true).aset (setOf l)).order.value = (s.aset (setOf l)).order.value.filter (fun v => v != w) := by
  rw [State.rebuiltArray_good]
  refine ⟨State.wayCleared_lookup h hlook, fun v hv => ?_, ?_⟩
  · rw [State.wayCleared_aset_same h, ASet.freed_ways_ne _ hv]
  · rw [State.wayCleared_aset_same h, ASet.freed_order]

/-- A line with no data is poisoned in its place where that way stays enabled (R180). -/
theorem State.rebuiltArray_inPlace (hdue : (s.mark (setOf l) w).due = false) :
    ((s.rebuiltArray l w false).aset (setOf l)).order = (s.aset (setOf l)).order ∧
    (s.rebuiltArray l w false).lineRec l = some (w, { state := .poisoned, holders := 0, pin := none }) ∧
    (∀ v, v ≠ w → ((s.rebuiltArray l w false).aset (setOf l)).ways[v] = (s.aset (setOf l)).ways[v]) := by
  rw [State.rebuiltArray_kept hdue]
  let y : ASet := (s.aset (setOf l)).edited w Rec.poisoned false
  let p : State := s.putSet (setOf l) y
  have haset : (p.putMark (setOf l) w (s.mark (setOf l) w).rebuilt).aset (setOf l) = y := State.putSet_aset_same h (setOf l) y
  have hen : s.enabled (setOf l) w = true := State.enabled_inUse (by rw [State.lookup_inUse hlook]; rfl)
  have hmark : ∀ v, ((p.putMark (setOf l) w (s.mark (setOf l) w).rebuilt).mark (setOf l) v).disable =
      (p.mark (setOf l) v).disable := fun v => by
    rw [State.putMark_mark (s := p) h.2.2.2]
    split
    · next hwv =>
      obtain ⟨-, rfl⟩ := hwv
      have hdis : (s.mark (setOf l) w).disable = false := by simpa [State.enabled] using hen
      rw [show (p.mark (setOf l) w).disable = (s.mark (setOf l) w).disable from rfl, hdis]
      exact hdue
    · rfl
  have htag : ∀ v, (p.putMark (setOf l) w (s.mark (setOf l) w).rebuilt).wayTag (setOf l) v = p.wayTag (setOf l) v := fun v => by
    unfold State.wayTag State.enabled
    rw [hmark]
    rfl
  have hlookup : (p.putMark (setOf l) w (s.mark (setOf l) w).rebuilt).lookup l = some w := by
    unfold State.lookup
    simp only [htag]
    exact (State.lookup_edited h l w Rec.poisoned false).trans hlook
  refine ⟨by rw [haset]; rfl, State.lineRec_of hlookup (State.recAt_edited h _ w Rec.poisoned false), fun v hv => ?_⟩
  rw [haset, ASet.edited_ways_ne _ _ _ hv]

/-- A line with no data is poisoned elsewhere where its way is to be disabled (R180). -/
theorem State.rebuiltArray_elsewhere {u : WayNo} (hdue : (s.mark (setOf l) w).due = true)
    (hfree : s.freeSearch (setOf l) = some u) :
    (s.rebuiltArray l w false).lineRec l = some (u, { state := .poisoned, holders := 0, pin := none }) ∧
    ((s.rebuiltArray l w false).aset (setOf l)).order.value = u :: (s.aset (setOf l)).order.value.filter (fun v => v != w) ∧
    (∀ v, v ≠ w → v ≠ u → ((s.rebuiltArray l w false).aset (setOf l)).ways[v] = (s.aset (setOf l)).ways[v]) := by
  rw [State.rebuiltArray_moved hdue hfree]
  have hcleared := State.wayCleared_lawful (l := l) (w := w) h
  have hunused := State.freeSearch_unused hfree
  have huw : u ≠ w := fun huw => by rw [huw, State.lookup_inUse hlook] at hunused; cases hunused
  have hen : (s.wayCleared l w).enabled (setOf l) u = true := by
    have havail := (State.available_iff.1 (State.freeSearch_iff.1 hfree).1).1
    unfold State.enabled
    rw [State.wayCleared_mark h, if_neg fun hwu => huw hwu.2.symm, havail]
    rfl
  have hout : u ∉ (s.aset (setOf l)).order.value := by
    rw [(h.1 (setOf l)).2.2.2 u, ← State.wayTag_lawful h, hunused]
    decide
  have haset : ((s.wayCleared l w).poisonPut l u).aset (setOf l) =
      ((s.aset (setOf l)).freed w).installed u (tagOf l) Rec.poisoned := by
    rw [State.poisonPut, State.putSet_aset_same hcleared, State.wayCleared_aset_same h]
  refine ⟨State.lineRec_installed hcleared (State.wayCleared_lookup h hlook) hen _, ?_, fun v hvw hvu => ?_⟩
  · rw [haset]
    show u :: ((s.aset (setOf l)).order.value.filter (fun v => v != w)).filter (fun v => v != u) = _
    rw [List.filter_eq_self.2 fun v hv => ?_]
    rw [bne_iff_ne]
    exact fun hvu => hout (hvu ▸ (List.mem_filter.1 hv).1)
  · rw [haset, ASet.installed_ways_ne _ _ _ hvu, ASet.freed_ways_ne _ hvw]

end

end

end Sys2Proof.Machine
end

section
/-! SUPPORT. The end of a rebuild: the record, the entry, and the work that follows (R179, R180). -/

namespace Sys2Proof.Machine

/-- The ends of a way's marks, where the way is enabled and a due disable comes only with a freed record (R180). -/
theorem State.endMarks_eq {s : State} {n : SetNo} {w : WayNo} {freed : Bool} (hen : (s.mark n w).disable = false)
    (hfreed : (s.mark n w).due = true → freed = true) : s.endMarks n w freed =
      (s.putMark n w (s.mark n w).rebuilt).wayDisabled (s.mark n w).due := by
  unfold State.endMarks State.wayDisabled Marks.rebuilt
  dsimp only
  generalize s.mark n w = m at hen hfreed ⊢
  obtain ⟨strike, disable, lost, due⟩ := m
  obtain rfl : disable = false := hen
  cases due with
  | true =>
    rw [hfreed rfl]
    rfl
  | false => rfl

/-- A way's reservation, where an entry that does not bear on it changes (R127). -/
theorem State.isReserved_other {s : State} {e : EntryNo} {x : Entry} {n : SetNo} {v : WayNo}
    (hold : (s.entry e).reserved ≠ some v) (hnew : x.reserved ≠ some v) : (s.setEntry e x).isReserved n v = s.isReserved n v := by
  unfold State.isReserved
  rw [Bool.eq_iff_iff]
  simp only [List.any_eq_true]
  refine exists_congr fun f => and_congr_right fun _ => ?_
  rw [State.setEntry_entry]
  split
  · next hef =>
    subst hef
    simp [hold, hnew]
  · rfl

section
variable {s : State} {e : EntryNo} {l : Line} {w : WayNo}

/-- The search after the lost record is gone finds the way it found before (R127). -/
theorem State.wayCleared_freeSearch {t : State} {x : Entry} (h : s.arrayLawful) (hlook : s.lookup l = some w)
    (hres : (s.entry e).reserved = some w) (hx : x.reserved = none) (hdue : (s.mark (setOf l) w).due = true)
    (hsets : t.sets = (s.wayCleared l w).sets) (hmarks : t.marks = (s.wayCleared l w).marks)
    (hentries : t.entries = (s.setEntry e x).entries) : t.freeSearch (setOf l) = s.freeSearch (setOf l) := by
  unfold State.freeSearch
  refine List.find?_congr fun v _ => ?_
  by_cases hvw : v = w
  · have hused : s.wayTag (setOf l) v ≠ none := by rw [hvw, State.lookup_inUse hlook]; simp
    have hdis : t.enabled (setOf l) v = false := by
      unfold State.enabled
      rw [State.mark_congr hmarks, State.wayCleared_mark h, if_pos ⟨rfl, hvw.symm⟩,
        show (s.mark (setOf l) w).rebuilt.disable = _ from hdue]
      rfl
    have hold : s.available (setOf l) v = false := by
      unfold State.available
      rw [Option.isNone_eq_false_iff.2 (Option.isSome_iff_ne_none.2 hused)]
      simp
    rw [hold]
    unfold State.available
    rw [hdis]
    rfl
  · have hreserved : t.isReserved (setOf l) v = s.isReserved (setOf l) v :=
      (State.isReserved_congr hentries _ v).trans (State.isReserved_other
        (by rw [hres]; exact fun hwv => hvw (Option.some.inj hwv).symm) (by rw [hx]; simp))
    unfold State.available State.enabled
    rw [hreserved, State.mark_congr hmarks, State.wayCleared_mark h, if_neg fun hc => hvw hc.2.symm,
      State.wayTag_congr hsets hmarks, State.wayCleared_wayTag h, if_neg hvw]

/-- The entry's record copy and reservation at the end of its rebuild. -/
def Entry.rebuilt (x : Entry) (c : Option Rec) (r : Option WayNo) : Entry := { x with copy := c, reserved := r }

theorem State.changeBusy_rebuilt (hbusy : s.busy l = some e) {t : State} (ht : t.entries = s.entries) (f : Entry → Entry) :
    t.changeBusy l f = t.setEntry e (f (s.entry e)) := by
  rw [State.changeBusy_some ((State.busy_congr ht l).trans hbusy)]
  exact congrArg (fun x => t.setEntry e (f x)) (congrArg (fun v : Vector Entry 24 => v[e]) ht)

section
variable (h : s.arrayLawful) (hlook : s.lookup l = some w) (hbusy : s.busy l = some e)
include h hlook hbusy

omit hlook in
/-- The lost record freed, with its marks ended (R179). -/
theorem State.freeWay_rebuilt (hen : (s.mark (setOf l) w).disable = false) : ∃ r,
    (s.freeWay l w).endMarks (setOf l) w true = (((s.wayCleared l w).setEntry e ((s.entry e).rebuilt none r)).wayDisabled
      (s.mark (setOf l) w).due).due (s.work ++ [.wake (setOf l)]) := by
  let p : State := s.putSet (setOf l) ((s.aset (setOf l)).freed w)
  let x : Entry := (s.entry e).rebuilt none (if (s.entry e).keepsFreed then some w else (s.entry e).reserved)
  let u : State := (p.setEntry e x).push (.wake (setOf l))
  have hfreed : s.freeWay l w = u := by
    rw [State.freeWay_eq h, State.changeBusy_rebuilt (t := p) hbusy rfl]
    rfl
  have hmark : u.mark (setOf l) w = s.mark (setOf l) w := rfl
  refine ⟨if (s.entry e).keepsFreed then some w else (s.entry e).reserved, ?_⟩
  rw [hfreed, State.endMarks_eq (s := u) (by rw [hmark]; exact hen) fun _ => rfl, hmark]
  rfl

/-- The record of a line found unchanged is freed (R179). -/
theorem State.rebuildRecord_good (hline : (s.entry e).line = l) : ∃ c r,
    s.rebuildRecord e true = (((s.rebuiltArray l w true).setEntry e ((s.entry e).rebuilt c r)).wayDisabled
      (s.mark (setOf l) w).due).due (s.work ++ [.wake (setOf l)]) := by
  have hen : (s.mark (setOf l) w).disable = false := by
    simpa [State.enabled] using State.enabled_inUse (s := s) (n := setOf l) (w := w) (by rw [State.lookup_inUse hlook]; rfl)
  obtain ⟨r, hfreed⟩ := State.freeWay_rebuilt h hbusy hen
  refine ⟨none, r, ?_⟩
  unfold State.rebuildRecord
  dsimp only
  rw [hline, hlook]
  dsimp only
  rw [if_pos rfl, hfreed, State.rebuiltArray_good]

/-- The record of a line with no data is poisoned in its place (R180). -/
theorem State.rebuildRecord_inPlace (hline : (s.entry e).line = l) (hdue : (s.mark (setOf l) w).due = false) : ∃ c r,
    s.rebuildRecord e false = (((s.rebuiltArray l w false).setEntry e ((s.entry e).rebuilt c r)).wayDisabled
      (s.mark (setOf l) w).due).due (s.work ++ []) := by
  have hen : (s.mark (setOf l) w).disable = false := by
    simpa [State.enabled] using State.enabled_inUse (s := s) (n := setOf l) (w := w) (by rw [State.lookup_inUse hlook]; rfl)
  obtain ⟨hactive, -⟩ := State.busy_some hbusy
  let p : State := s.putSet (setOf l) ((s.aset (setOf l)).edited w Rec.poisoned false)
  let x : Entry := (s.entry e).rebuilt (some Rec.poisoned) (s.entry e).reserved
  let u : State := p.setEntry e x
  have hedit : s.editState l w Rec.poisoned false = u := by
    rw [State.editState_eq h, State.changeBusy_rebuilt (t := p) hbusy rfl]
    rfl
  have hmark : u.mark (setOf l) w = s.mark (setOf l) w := rfl
  refine ⟨some Rec.poisoned, none, ?_⟩
  unfold State.rebuildRecord
  dsimp only
  rw [hline, hlook]
  dsimp only
  rw [if_neg (by decide), hdue, if_neg (by decide), hedit,
    State.endMarks_eq (s := u) (by rw [hmark]; exact hen) (by rw [hmark, hdue]; decide), hmark, hdue, State.rebuiltArray_kept hdue,
    List.append_nil]
  let v : State := (u.putMark (setOf l) w (s.mark (setOf l) w).rebuilt).wayDisabled false
  have hve : v.entry e = x := State.setEntry_entry_same p e x
  rw [State.modEntry_active (s := v) (by rw [hve]; exact hactive), hve]
  show ((((p.setEntry e x).setEntry e { x with reserved := none }).putMark (setOf l) w (s.mark (setOf l) w).rebuilt).wayDisabled
    false).due s.work = _
  rw [State.setEntry_setEntry]
  rfl

/-- The record of a line with no data is poisoned in another way, its own being due for disable (R180). -/
theorem State.rebuildRecord_elsewhere {u : WayNo} (hline : (s.entry e).line = l) (hdue : (s.mark (setOf l) w).due = true)
    (hres : (s.entry e).reserved = some w) (hfree : s.freeSearch (setOf l) = some u) : ∃ c r,
    s.rebuildRecord e false = (((s.rebuiltArray l w false).setEntry e ((s.entry e).rebuilt c r)).wayDisabled
      (s.mark (setOf l) w).due).due (s.work ++ [.wake (setOf l)]) := by
  have hen : (s.mark (setOf l) w).disable = false := by
    simpa [State.enabled] using State.enabled_inUse (s := s) (n := setOf l) (w := w) (by rw [State.lookup_inUse hlook]; rfl)
  obtain ⟨hactive, -⟩ := State.busy_some hbusy
  obtain ⟨r, hfreed⟩ := State.freeWay_rebuilt h hbusy hen
  refine ⟨some Rec.poisoned, none, ?_⟩
  let x : Entry := (s.entry e).rebuilt none r
  let y : Entry := { x with reserved := none }
  let k : List Task := s.work ++ [.wake (setOf l)]
  let v : State := (((s.wayCleared l w).setEntry e x).wayDisabled true).due k
  let q : State := (((s.wayCleared l w).setEntry e y).wayDisabled true).due k
  have hve : v.entry e = x := State.setEntry_entry_same (s.wayCleared l w) e x
  have hqe : q.entry e = y := State.setEntry_entry_same (s.wayCleared l w) e y
  have hgiven : v.modEntry e (fun x => { x with reserved := none }) = q := by
    rw [State.modEntry_active (by rw [hve]; exact hactive), hve]
    show ((((s.wayCleared l w).setEntry e x).setEntry e y).wayDisabled true).due k = q
    rw [State.setEntry_setEntry]
  have hqfree : q.freeSearch (setOf l) = some u :=
    (State.wayCleared_freeSearch (t := q) (x := y) h hlook hres rfl hdue rfl rfl rfl).trans hfree
  have hqbusy : q.busy l = some e := (State.busy_congr (s := s.setEntry e y) (t := q) rfl l).trans
    (State.busy_setEntry hbusy hactive hline)
  have hpoison := State.poisonLine_installs (s := q) (State.wayCleared_lawful (l := l) (w := w) h)
    (State.wayCleared_lookup h hlook) hqfree hqbusy
  unfold State.rebuildRecord
  dsimp only
  rw [hline, hlook]
  dsimp only
  rw [if_neg (by decide), hdue, if_pos rfl, hfreed, hdue]
  show (v.modEntry e (fun x => { x with reserved := none })).poisonLine l = _
  rw [hgiven, hpoison, hqe, State.rebuiltArray_moved hdue hfree]
  show (((((s.wayCleared l w).poisonPut l u).setEntry e y).setEntry e { y with copy := some Rec.poisoned }).wayDisabled true).due k = _
  rw [State.setEntry_setEntry]
  rfl

/-- The line's record and its way's marks at the end of a rebuild (R179, R180). -/
theorem State.rebuildRecord_eq {good : Bool} (hline : (s.entry e).line = l) (hres : (s.entry e).reserved = some w)
    (hpossible : good = true ∨ (s.mark (setOf l) w).due = false ∨ (s.freeSearch (setOf l)).isSome = true) : ∃ c r k,
    (k = [] ∨ k = [Task.wake (setOf l)]) ∧
    s.rebuildRecord e good = (((s.rebuiltArray l w good).setEntry e ((s.entry e).rebuilt c r)).wayDisabled
      (s.mark (setOf l) w).due).due (s.work ++ k) := by
  cases good with
  | true =>
    obtain ⟨c, r, hgood⟩ := State.rebuildRecord_good h hlook hbusy hline
    exact ⟨c, r, _, .inr rfl, hgood⟩
  | false =>
    cases hdue : (s.mark (setOf l) w).due with
    | false =>
      obtain ⟨c, r, hkept⟩ := State.rebuildRecord_inPlace h hlook hbusy hline hdue
      exact ⟨c, r, _, .inl rfl, by rw [hkept, hdue]⟩
    | true =>
      obtain ⟨u, hfree⟩ : ∃ u, s.freeSearch (setOf l) = some u :=
        Option.isSome_iff_exists.1 ((hpossible.resolve_left (by decide)).resolve_left (by rw [hdue]; decide))
      obtain ⟨c, r, hmoved⟩ := State.rebuildRecord_elsewhere h hlook hbusy hline hdue hres hfree
      exact ⟨c, r, _, .inr rfl, by rw [hmoved, hdue]⟩

end

end

end Sys2Proof.Machine
end

section
/-! SUPPORT. The end of a rebuild carried through to its completion (R178 to R180). -/

namespace Sys2Proof.Machine

/-- An entry that rebuilds a lost record for no agent (R177). -/
structure Entry.rebuilds (x : Entry) (w : WayNo) : Prop where
  kind : x.kind = .rebuild
  origin : x.origin = none
  mask : x.mask = 0
  deferred : x.deferred = []
  reserved : x.reserved = some w
  recheck : x.recheck = false
  reply : x.reply = .none
  owed : x.poisonOwed = false
  rebuild : x.rebuild = true
  breaking : x.breaking = false

theorem Entry.rebuilds_of {x : Entry} {w : WayNo} (h : x = { x with
    kind := .rebuild, origin := none, mask := 0, deferred := [], reserved := some w, recheck := false, reply := .none
    poisonOwed := false, rebuild := true, breaking := false }) : x.rebuilds w :=
  ⟨congrArg Entry.kind h, congrArg Entry.origin h, congrArg Entry.mask h, congrArg Entry.deferred h, congrArg Entry.reserved h,
    congrArg Entry.recheck h, congrArg Entry.reply h, congrArg Entry.poisonOwed h, congrArg Entry.rebuild h,
    congrArg Entry.breaking h⟩

/-- The agents whose held copies a rebuild has already found to be gone (R178). -/
def Entry.failedNotes (x : Entry) : List Agent := agents.filter (fun a => x.notes[a] == .failed)

theorem Entry.mem_failedNotes {x : Entry} {a : Agent} : a ∈ x.failedNotes ↔ x.notes[a] = .failed := by
  unfold Entry.failedNotes
  rw [List.mem_filter, beq_iff_eq]
  exact and_iff_right (Keeps.mem_agents a)

theorem Entry.failedNotes_nodup (x : Entry) : x.failedNotes.Nodup := List.Nodup.filter _ (by decide)

/-- The entry of a rebuild that has ended, on the way to its completion. -/
def Entry.rebuiltDone (x : Entry) (c : Option Rec) (r : Option WayNo) : Entry :=
  { x.rebuilt c r with rebuild := false, wrote := false, data := .none, phase := .recalling }

theorem Entry.finished_rebuiltDone {x : Entry} {w : WayNo} (h : x.rebuilds w) (hpending : x.noPending = true) (c : Option Rec)
    (r : Option WayNo) : (x.rebuiltDone c r).finished where
  phase := rfl
  pending := hpending
  reply := by rw [show (x.rebuiltDone c r).reply = .none from h.reply]; decide
  breaking := h.breaking
  owed := h.owed
  rebuild := rfl
  answered := .inl (by rw [show (x.rebuiltDone c r).kind = .rebuild from h.kind]; rfl)
  dependent := .inr (by rw [show (x.rebuiltDone c r).kind = .rebuild from h.kind]; decide)
  recheck := h.recheck
  deferred := h.deferred

section
variable {s : State} {e : EntryNo} {l : Line} {w : WayNo}

/-- What a rebuild's end leaves of the state: the record, the marks, the entry and the counts of the failed agents. -/
structure State.RebuildEnds (s t : State) (e : EntryNo) (l : Line) (w : WayNo) (good : Bool) : Prop where
  sets : t.sets = (s.rebuiltArray l w good).sets
  marks : t.marks = (s.rebuiltArray l w good).marks
  entries : t.entries = (s.setEntry e (Entry.free (s.entry e).use)).entries
  ports : ∀ a, t.port a = { s.port a with holding := (s.port a).holding - (if (s.entry e).notes[a] = .failed then 1 else 0) }
  rest : t = { s with
    sets := t.sets, marks := t.marks, entries := t.entries, ports := t.ports, work := []
    alertPending := if (s.mark (setOf l) w).due then s.alertPending ||| (1#12 <<< 9) else s.alertPending }

/-- The rebuilt array depends on the array, its marks and the search for a way. -/
theorem State.rebuiltArray_congr {t : State} (hsets : t.sets = s.sets) (hmarks : t.marks = s.marks)
    (hfree : t.freeSearch (setOf l) = s.freeSearch (setOf l)) (good : Bool) :
    (t.rebuiltArray l w good).sets = (s.rebuiltArray l w good).sets ∧
    (t.rebuiltArray l w good).marks = (s.rebuiltArray l w good).marks := by
  have hmark := State.mark_congr hmarks (setOf l) w
  have haset := State.aset_congr hsets (setOf l)
  have hcleared : (t.wayCleared l w).sets = (s.wayCleared l w).sets ∧ (t.wayCleared l w).marks = (s.wayCleared l w).marks := by
    unfold State.wayCleared State.putSet State.putMark
    dsimp only
    rw [hsets, hmarks, hmark, haset]
    exact ⟨rfl, rfl⟩
  unfold State.rebuiltArray
  rw [hmark, hfree]
  split
  · exact hcleared
  · split
    · cases s.freeSearch (setOf l) with
      | none => exact hcleared
      | some u =>
        refine ⟨?_, hcleared.2⟩
        show ((t.wayCleared l w).poisonPut l u).sets = ((s.wayCleared l w).poisonPut l u).sets
        unfold State.poisonPut State.putSet
        dsimp only
        rw [hcleared.1, State.aset_congr hcleared.1]
    · unfold State.putSet State.putMark
      dsimp only
      rw [hsets, hmarks, haset]
      exact ⟨rfl, rfl⟩

section
variable (harray : s.arrayLawful) (hlook : s.lookup l = some w) (hlost : s.isLost (setOf l) w = true)
  (hsound : s.tagsSound (setOf l)) (hbusy : s.busy l = some e) (hrun : s.running = true) (hx : (s.entry e).rebuilds w)
  (hnotes : ∀ a : Agent, (s.entry e).notes[a] = .failed → (s.port a).state ≠ .draining)
  {good : Bool} (hpossible : good = true ∨ (s.mark (setOf l) w).due = false ∨ (s.freeSearch (setOf l)).isSome = true)
include harray hlook hlost hsound hbusy hrun hx hnotes hpossible

/-- The end of a rebuild, up to the step in which its entry completes (R179, R180). -/
theorem State.rebuildEnd_eq (k : List Task) : ∃ (v : State) (c : Option Rec) (r : Option WayNo) (kk : List Task),
    (kk = [] ∨ kk = [Task.wake (setOf l)]) ∧
    (∀ a, v.port a = { s.port a with holding := (s.port a).holding - (if (s.entry e).notes[a] = .failed then 1 else 0) }) ∧
    v = { s.due k with ports := v.ports } ∧
    (s.due k).rebuildEnd e good = (((v.rebuiltArray l w good).setEntry e ((s.entry e).rebuiltDone c r)).wayDisabled
      (s.mark (setOf l) w).due).due (k ++ (kk ++ [.advance e])) := by
  obtain ⟨hactive, hline⟩ := State.busy_some hbusy
  obtain ⟨hports, hcounted⟩ := State.subHolds_ports (s := s.due k) (s.entry e).failedNotes_nodup
    fun c hc => hnotes c (Entry.mem_failedNotes.1 hc)
  obtain ⟨v, hv⟩ : ∃ v, (s.entry e).failedNotes.foldl State.subHold (s.due k) = v := ⟨_, rfl⟩
  rw [hv] at hports hcounted
  let z : State := { s.due k with ports := v.ports }
  have hvz : v = z := hcounted
  obtain ⟨c, r, kk, hkk, hrecord⟩ := State.rebuildRecord_eq (s := z) (good := good)
    (State.arrayLawful_congr rfl rfl harray) ((State.lookup_congr rfl rfl l).trans hlook)
    ((State.busy_congr rfl l).trans hbusy) hline hx.reserved (hpossible.imp_right (Or.imp_right fun hfree => by
      rw [State.freeSearch_congr (s := s) (t := z) rfl rfl fun u => rfl]
      exact hfree))
  rw [show z.mark (setOf l) w = s.mark (setOf l) w from rfl] at hrecord
  obtain ⟨q, hq⟩ : ∃ q, z.rebuiltArray l w good = q := ⟨_, rfl⟩
  rw [hq] at hrecord
  let x : Entry := (s.entry e).rebuilt c r
  let y : Entry := (s.entry e).rebuiltDone c r
  let due := (s.mark (setOf l) w).due
  let p : State := (q.setEntry e y).wayDisabled due
  let j : State := ((q.setEntry e x).wayDisabled due).due (k ++ kk)
  have hje : j.entry e = x := State.setEntry_entry_same q e x
  have hpe : p.entry e = y := State.setEntry_entry_same q e y
  have hgiven : j.modEntry e (fun x => { x with rebuild := false, wrote := false, data := .none, phase := .recalling }) =
      p.due (k ++ kk) := by
    rw [State.modEntry_active (by rw [hje]; exact hactive), hje]
    show (((q.setEntry e x).setEntry e y).wayDisabled due).due (k ++ kk) = _
    rw [State.setEntry_setEntry]
  refine ⟨v, c, r, kk, hkk, fun a => (hports a).trans (by simp only [Entry.mem_failedNotes]; rfl), hcounted, ?_⟩
  rw [hvz, hq]
  unfold State.rebuildEnd
  dsimp only
  rw [show ((s.due k).entry e).line = l from hline, State.claimLine_lost (s := s.due k) hsound hlook hlost,
    if_neg (by simp [hrun]),
    show (agents.filter fun a => ((s.due k).entry e).notes[a] == Note.failed) = (s.entry e).failedNotes from rfl, hv, hvz, hrecord]
  refine (congrArg (State.afterRebuild · e good) hgiven).trans ?_
  unfold State.afterRebuild
  dsimp only
  rw [show ((p.due (k ++ kk)).entry e).kind = .rebuild from (congrArg Entry.kind hpe).trans hx.kind]
  dsimp only
  rw [State.push_eq_due, show (p.due (k ++ kk)).work = k ++ kk from rfl, List.append_assoc]
  rfl

section
variable (hdry : s.undrained) (hheads : s.noHeadWaits) (howing : s.owingBuffer l = none) (hnone : s.noneAwaiting (setOf l))
  (hmem : s.memOp e = none) (hpending : (s.entry e).noPending = true)
include hdry hheads howing hnone hmem hpending

/-- A rebuild ends and its entry completes (R179, R180). -/
theorem State.works_rebuilt {k : List Task} (hk : ∀ j ∈ k, j = .admission) :
    ((s.due k).rebuildEnd e good).undrained ∧ ((s.due k).rebuildEnd e good).claimQueue = s.claimQueue ∧
    ∃ t n, n ≤ 4 ∧ Works (k.length + n) ((s.due k).rebuildEnd e good) t ∧ s.RebuildEnds t e l w good := by
  obtain ⟨v, c, r, kk, hkk, hports, hv, hend⟩ := State.rebuildEnd_eq harray hlook hlost hsound hbusy hrun hx hnotes hpossible k
  obtain ⟨-, hline⟩ := State.busy_some hbusy
  have hvsets : v.sets = s.sets := (congrArg State.sets hv :)
  have hvmarks : v.marks = s.marks := (congrArg State.marks hv :)
  have hventries : v.entries = s.entries := (congrArg State.entries hv :)
  obtain ⟨hqsets, hqmarks⟩ := State.rebuiltArray_congr (w := w) hvsets hvmarks
    (State.freeSearch_congr hvsets hvmarks (State.isReserved_congr hventries (setOf l))) good
  obtain ⟨q, hq⟩ : ∃ q, v.rebuiltArray l w good = q := ⟨_, rfl⟩
  obtain ⟨A, B, hqrest⟩ : ∃ A B, q = { s.due k with ports := v.ports, sets := A, marks := B } :=
    ⟨_, _, (hq.symm.trans (State.rebuiltArray_rest good)).trans (congrArg (fun u : State =>
      { u with sets := (v.rebuiltArray l w good).sets, marks := (v.rebuiltArray l w good).marks }) hv)⟩
  rw [hq] at hend hqsets hqmarks
  let y : Entry := (s.entry e).rebuiltDone c r
  let due := (s.mark (setOf l) w).due
  let p : State := (q.setEntry e y).wayDisabled due
  have hpe : p.entry e = y := State.setEntry_entry_same q e y
  have hpline : (p.entry e).line = l := (congrArg Entry.line hpe).trans hline
  have hpuse : (p.entry e).use = (s.entry e).use := (congrArg Entry.use hpe :)
  have hqentries : q.entries = s.entries := (congrArg State.entries hqrest :)
  have hqawaiting : q.awaiting = s.awaiting := (congrArg State.awaiting hqrest :)
  have hpport : ∀ a, p.port a =
      { s.port a with holding := (s.port a).holding - (if (s.entry e).notes[a] = .failed then 1 else 0) } :=
    fun a => (congrArg (fun n : Vector Port 6 => n[a]) (congrArg State.ports hqrest :)).trans (hports a)
  have hpheads : p.noHeadWaits := State.noHeadWaits_iff.2 fun a => by
    rw [hpport]
    exact State.noHeadWaits_iff.1 hheads a
  have hpdry : p.undrained := fun a => by
    rw [hpport]
    split
    · next hfailed => simp [Port.drained, hnotes a hfailed]
    · exact hdry a
  have hpnone : p.noneAwaiting (setOf l) := State.noneAwaiting_congr (s := s.setEntry e y) (t := p) hqawaiting
    (congrArg (fun n : Vector Entry 24 => n.set e y) hqentries)
    (State.noneAwaiting_setEntry hnone (State.not_awaiting hnone (congrArg setOf hline)) y)
  have hinternal : ∀ i, (p.due i).stepPlan e = p.due i := fun i => State.stepPlan_internal (by
    rw [State.due_entry, hpe, show y.kind = .rebuild from hx.kind]
    rfl)
  have hfrees := State.works_frees (s := p) (e := e) (l := []) (by rw [hpe]; exact Entry.finished_rebuiltDone hx hpending c r)
    hinternal ((State.memOp_congr (congrArg State.claimQueue hqrest :) (congrArg State.tags hqrest :) e).trans hmem)
    ((congrArg State.running hqrest :).trans hrun)
    (by rw [hpline]; exact (State.owingBuffer_congr (congrArg State.buffers hqrest :) l).trans howing)
    (by rw [hpline]; exact hpnone) hpheads hpdry (by simp)
  rw [hpuse] at hfrees
  let t : State := (p.setEntry e (Entry.free (s.entry e).use)).due []
  obtain ⟨n, hn, hworks⟩ : ∃ n, n ≤ 4 ∧ Works n (p.due (kk ++ [.advance e])) t := by
    rcases hkk with rfl | rfl
    · exact ⟨3, by decide, hfrees⟩
    · exact ⟨4, by decide, .pass rfl hpnone (by simp) hpdry hfrees⟩
  rw [hend]
  refine ⟨State.undrained_congr (s := p) rfl hpdry, (congrArg State.claimQueue hqrest :), t, n, hn,
    Works.passAdmissions hpheads hpdry hk hworks, hqsets, hqmarks, ?_, hpport, ?_⟩
  · show ((q.setEntry e y).setEntry e (Entry.free (s.entry e).use)).entries = _
    rw [State.setEntry_setEntry]
    exact congrArg (fun n : Vector Entry 24 => n.set e (Entry.free (s.entry e).use)) hqentries
  · show (((q.setEntry e y).wayDisabled due).setEntry e (Entry.free (s.entry e).use)).due [] = { s with
      sets := q.sets, marks := q.marks, entries := ((q.setEntry e y).setEntry e (Entry.free (s.entry e).use)).entries
      ports := q.ports, work := [], alertPending := _ }
    rw [hqrest]
    rfl

end

end

end

end Sys2Proof.Machine
end

section
/-! SUPPORT. What the end of a rebuild means for the line's set (R179, R180). -/

namespace Sys2Proof.Machine

section
variable {s t : State} {e : EntryNo} {l : Line} {w : WayNo} {good : Bool}

/-- The state that a rebuild's end leaves from a state with the same array, counts and search for a way. -/
theorem State.RebuildEnds.of_alike {v : State} (h : v.RebuildEnds t e l w good) (hsets : v.sets = s.sets) (hmarks : v.marks = s.marks)
    (hfree : v.freeSearch (setOf l) = s.freeSearch (setOf l)) : t.sets = (s.rebuiltArray l w good).sets ∧
    t.marks = (s.rebuiltArray l w good).marks := by
  obtain ⟨hs, hm⟩ := State.rebuiltArray_congr (w := w) hsets hmarks hfree good
  exact ⟨h.sets.trans hs, h.marks.trans hm⟩

/-- The outcome of a rebuild in the terms of the specification: the entry free, and the line absent or poisoned. -/
structure State.Rebuilt (s t : State) (e : EntryNo) (l : Line) (w : WayNo) (good : Bool) : Prop where
  entry : t.entry e = Entry.free (s.entry e).use
  others : ∀ f, f ≠ e → t.entry f = s.entry f
  sets : ∀ k, k ≠ setOf l → t.aset k = s.aset k
  marks : ∀ k v, (k, v) ≠ (setOf l, w) → t.mark k v = s.mark k v
  mark : t.mark (setOf l) w = (s.mark (setOf l) w).rebuilt
  absent : good = true → t.lookup l = none ∧ (∀ v, v ≠ w → (t.aset (setOf l)).ways[v] = (s.aset (setOf l)).ways[v]) ∧
    (t.aset (setOf l)).order.value = (s.aset (setOf l)).order.value.filter (fun v => v != w)
  inPlace : good = false → (s.mark (setOf l) w).due = false → (t.aset (setOf l)).order = (s.aset (setOf l)).order ∧
    t.lineRec l = some (w, { state := .poisoned, holders := 0, pin := none }) ∧
    (∀ v, v ≠ w → (t.aset (setOf l)).ways[v] = (s.aset (setOf l)).ways[v])
  elsewhere : ∀ u, good = false → (s.mark (setOf l) w).due = true → s.freeSearch (setOf l) = some u →
    t.lineRec l = some (u, { state := .poisoned, holders := 0, pin := none }) ∧
    (t.aset (setOf l)).order.value = u :: (s.aset (setOf l)).order.value.filter (fun v => v != w) ∧
    (∀ v, v ≠ w → v ≠ u → (t.aset (setOf l)).ways[v] = (s.aset (setOf l)).ways[v])

/-- A state with the rebuilt array has its outcome. -/
theorem State.rebuilt_of (h : s.arrayLawful) (hlook : s.lookup l = some w) (hsets : t.sets = (s.rebuiltArray l w good).sets)
    (hmarks : t.marks = (s.rebuiltArray l w good).marks)
    (hentries : t.entries = (s.setEntry e (Entry.free (s.entry e).use)).entries) : s.Rebuilt t e l w good := by
  have hentry : ∀ f, t.entry f = (s.setEntry e (Entry.free (s.entry e).use)).entry f :=
    fun f => congrArg (fun v : Vector Entry 24 => v[f]) hentries
  have haset := State.aset_congr hsets
  have hmark : ∀ k v, t.mark k v = if setOf l = k ∧ w = v then (s.mark (setOf l) w).rebuilt else s.mark k v :=
    fun k v => (State.mark_congr hmarks k v).trans (State.rebuiltArray_mark h good k v)
  refine ⟨(hentry e).trans (State.setEntry_entry_same s e _), fun f hf => (hentry f).trans (State.setEntry_entry_ne s _ hf.symm),
    fun k hk => (haset k).trans (State.rebuiltArray_aset_ne h good hk), fun k v hkv => ?_, ?_, ?_, ?_, ?_⟩
  · rw [hmark, if_neg fun hc => hkv (by rw [← hc.1, ← hc.2])]
  · rw [hmark, if_pos ⟨rfl, rfl⟩]
  · rintro rfl
    rw [State.lookup_congr hsets hmarks, haset]
    exact State.rebuiltArray_absent h hlook
  · rintro rfl hdue
    rw [State.lineRec_congr hsets hmarks, haset]
    exact State.rebuiltArray_inPlace h hlook hdue
  · rintro u rfl hdue hfree
    rw [State.lineRec_congr hsets hmarks, haset]
    exact State.rebuiltArray_elsewhere h hlook hdue hfree

/-- The search for a way where an entry keeps its line and its reservation. -/
theorem State.freeSearch_kept {x : Entry} (hsets : t.sets = s.sets) (hmarks : t.marks = s.marks)
    (hentries : t.entries = (s.setEntry e x).entries) (hactive : (s.entry e).phase ≠ .free) (hx : x.phase ≠ .free)
    (hline : x.line = (s.entry e).line) (hres : x.reserved = (s.entry e).reserved) (n : SetNo) : t.freeSearch n = s.freeSearch n := by
  refine State.freeSearch_congr hsets hmarks fun v => (State.isReserved_congr hentries n v).trans ?_
  unfold State.isReserved
  rw [Bool.eq_iff_iff]
  simp only [List.any_eq_true]
  refine exists_congr fun f => and_congr_right fun _ => ?_
  rw [State.setEntry_entry]
  split
  · next hef =>
    subst hef
    rw [hline, hres]
    simp [hactive, hx]
  · rfl

end

end Sys2Proof.Machine
end

section
/-! SUPPORT. The answers of a rebuild's broadcast (R178). -/

namespace Sys2Proof.Machine

/-- A rebuild's entry after an agent's answer, which settles the agent's held copy or does not (R178). -/
def Entry.heard (x : Entry) (b : Agent) (held : Bool) : Entry :=
  { x with pending := x.pending.set b none, notes := if held then x.notes.set b .settled else x.notes }

/-- The port of an agent whose held copy is settled, or was before, or is not (R178). -/
def Port.settled (p : Port) (held : Bool) (n : Note) : Port :=
  { p with holding := p.holding - (if held = true ∧ n ≠ .settled then 1 else 0) }

theorem Entry.heard_rebuilds {x : Entry} {w : WayNo} (h : x.rebuilds w) (b : Agent) (held : Bool) : (x.heard b held).rebuilds w :=
  ⟨h.kind, h.origin, h.mask, h.deferred, h.reserved, h.recheck, h.reply, h.owed, h.rebuild, h.breaking⟩

theorem Entry.heard_pending {x : Entry} {b : Agent} {p : Option PendingRecall} (h : x.pending = (Vector.replicate 6 none).set b p)
    (held : Bool) : (x.heard b held).pending = Vector.replicate 6 none := by
  show x.pending.set b none = _
  rw [h, Vector.set_set]
  exact Vector.ext fun i hi => by simp

theorem Entry.heard_notes_same {x : Entry} {b : Agent} (held : Bool) :
    (x.heard b held).notes[b] = if held then .settled else x.notes[b] := by
  show (if held then x.notes.set b .settled else x.notes)[b] = _
  split
  · exact Vector.getElem_set_self _
  · rfl

theorem Entry.heard_notes_ne {x : Entry} {a b : Agent} (held : Bool) (h : b ≠ a) : (x.heard b held).notes[a] = x.notes[a] := by
  show (if held then x.notes.set b .settled else x.notes)[a] = _
  split
  · exact Vector.getElem_set_ne _ _ fun hab => h (Fin.ext hab)
  · rfl

/-- Some agent's held copy is settled after an answer that settles one, or when one was before (R178). -/
theorem Entry.heard_settled (x : Entry) (b : Agent) (held : Bool) :
    agents.any (fun a => (x.heard b held).notes[a] == .settled) = (held || agents.any (fun a => x.notes[a] == .settled)) := by
  cases held with
  | false => rfl
  | true =>
    rw [Bool.true_or, List.any_eq_true]
    exact ⟨b, Keeps.mem_agents b, by rw [Entry.heard_notes_same]; rfl⟩

section
variable {s : State} {e : EntryNo} {w : WayNo} {b : Agent} {p : PendingRecall}

/-- An agent's held copy is settled once (R178). -/
theorem State.settleAgent_eq (hactive : (s.entry e).phase ≠ .free) (hstate : (s.port b).state ≠ .draining) : s.settleAgent e b =
    (s.setEntry e { s.entry e with notes := (s.entry e).notes.set b .settled }).setPort b
      ((s.port b).settled true (s.entry e).notes[b]) := by
  unfold State.settleAgent
  by_cases hnote : (s.entry e).notes[b] = .settled
  · have hnotes : (s.entry e).notes.set b .settled = (s.entry e).notes := by
      conv_lhs => rw [← hnote]
      exact Vector.set_getElem_self _
    have hport : (s.port b).settled true (s.entry e).notes[b] = s.port b := by
      unfold Port.settled
      rw [hnote]
      rfl
    rw [if_pos (by rw [hnote]; rfl), hnotes, hport, State.setEntry_of_eq rfl, State.setPort_self]
  · have hport : (s.port b).settled true (s.entry e).notes[b] = { s.port b with holding := (s.port b).holding - 1 } := by
      unfold Port.settled
      rw [if_pos ⟨rfl, hnote⟩]
    rw [if_neg (by simpa using hnote), State.modEntry_active hactive, State.subHold_eq (s := s.setEntry e _) hstate, hport]
    rfl

section
variable (hactive : (s.entry e).phase ≠ .free) (hpending : (s.entry e).pending[b] = some p) (hx : (s.entry e).rebuilds w)
  (hstate : (s.port b).state ≠ .draining)
include hactive hpending hx

/-- What an answer is to an entry in a rebuild (R178). -/
theorem State.applyReply_rebuild (r : RecallEnd) : s.applyReply e b r =
    (((s.setEntry e { s.entry e with pending := (s.entry e).pending.set b none }).reportKept e b p.kind r).rebuildReply
      e b r).push (.advance e) := by
  unfold State.applyReply
  rw [hpending]
  dsimp only
  rw [State.modEntry_active hactive, if_neg (by rw [hx.owed]; simp), if_pos hx.rebuild]

include hstate

/-- An agent's acknowledgement in a rebuild (R178). -/
theorem State.applyReply_rebuildAck (held : Bool) : s.applyReply e b (.ack held) =
    ((s.setEntry e ((s.entry e).heard b held)).setPort b ((s.port b).settled held (s.entry e).notes[b])).push (.advance e) := by
  let x : Entry := { s.entry e with pending := (s.entry e).pending.set b none }
  have hxe : (s.setEntry e x).entry e = x := State.setEntry_entry_same s e x
  have hreply : (s.setEntry e x).rebuildReply e b (.ack held) =
      (s.setEntry e ((s.entry e).heard b held)).setPort b ((s.port b).settled held (s.entry e).notes[b]) := by
    unfold State.rebuildReply
    dsimp only
    cases held with
    | true =>
      rw [if_pos rfl, State.settleAgent_eq (s := s.setEntry e x) (by rw [hxe]; exact hactive) hstate, hxe, State.setEntry_setEntry]
      rfl
    | false => exact ((s.setEntry e x).setPort_self b).symm
  exact (State.applyReply_rebuild hactive hpending hx _).trans (congrArg (State.push · (.advance e)) hreply)

/-- An agent's data in a rebuild (R178). -/
theorem State.applyReply_rebuildData (d : LineData) (hmem : s.memOp e ≠ some true) : s.applyReply e b (.data d false) =
    ((s.setEntry e { (s.entry e).heard b true with buffer := d, data := .fromHolder }).setPort b
      ((s.port b).settled true (s.entry e).notes[b])).push (.advance e) := by
  let x : Entry := { s.entry e with pending := (s.entry e).pending.set b none }
  let y : Entry := { x with buffer := d, data := .fromHolder }
  have hxe : (s.setEntry e x).entry e = x := State.setEntry_entry_same s e x
  have hye : (s.setEntry e y).entry e = y := State.setEntry_entry_same s e y
  have hreply : (s.setEntry e x).rebuildReply e b (.data d false) =
      (s.setEntry e { (s.entry e).heard b true with buffer := d, data := .fromHolder }).setPort b
        ((s.port b).settled true (s.entry e).notes[b]) := by
    unfold State.rebuildReply
    dsimp only
    rw [State.enterData_plain (s := s.setEntry e x) (by rw [hxe]; exact hactive) ((State.memOp_congr rfl rfl e).trans_ne hmem)
      (by rw [hxe, show x.kind = .rebuild from hx.kind]; decide) (by rw [hxe]; exact hx.mask), hxe, State.setEntry_setEntry,
      State.settleAgent_eq (s := s.setEntry e y) (by rw [hye]; exact hactive) hstate, hye, State.setEntry_setEntry]
    rfl
  exact (State.applyReply_rebuild hactive hpending hx _).trans (congrArg (State.push · (.advance e)) hreply)

end

end

end Sys2Proof.Machine
end

section
/-! SUPPORT. The last answer of a rebuild's broadcast, as events (R178, R179). -/

namespace Sys2Proof.Machine

section
variable {s : State} {e : EntryNo}

/-- The step of a rebuild with no answer outstanding and no data (R179). -/
theorem State.advance_rebuildEnds (hphase : (s.entry e).phase.inFlight = true) (hrebuild : (s.entry e).rebuild = true)
    (hpending : (s.entry e).noPending = true) (hmem : s.memOp e = none) (hdata : (s.entry e).data = .none) :
    s.advance e = s.rebuildEnd e (agents.any (fun a => (s.entry e).notes[a] == .settled)) := by
  rw [State.advance_inFlight hphase, if_pos hrebuild]
  unfold State.advanceRebuild
  dsimp only
  rw [if_pos (by rw [hpending, hmem]; rfl), if_neg (by rw [hdata]; decide)]

/-- The step of a rebuild with no answer outstanding and a holder's data, which goes to memory (R179). -/
theorem State.advance_rebuildWrites {l : Line} {i : MemTagNo} (hphase : (s.entry e).phase.inFlight = true)
    (hrebuild : (s.entry e).rebuild = true) (hpending : (s.entry e).noPending = true) (hmem : s.memOp e = none)
    (hdata : (s.entry e).data = .fromHolder) (hline : (s.entry e).line = l) (hwrote : (s.entry e).wrote = false)
    (hready : s.tagReady l i) : s.advance e =
      (s.sent (.write i ((s.tag i).use + 1) l (s.entry e).buffer) i { claimant := .entry e, write := true, line := l }).setEntry e
        { s.entry e with wrote := true, phase := .writingMemory } := by
  let x : Entry := { s.entry e with wrote := true }
  have hxe : (s.setEntry e x).entry e = x := State.setEntry_entry_same s e x
  rw [State.advance_inFlight hphase, if_pos hrebuild]
  unfold State.advanceRebuild
  dsimp only
  rw [if_pos (by rw [hpending, hmem]; rfl), if_pos (by rw [hdata]; decide),
    State.claimWrite_ready (Phase.inFlight_active hphase) hline hwrote hready,
    State.settlePhase_writing (by rw [State.sent_entry, hxe]; exact hphase)
      (State.sent_memOp (s.setEntry e x) _ _ _ ((State.memOp_congr (s := s) rfl rfl e).trans hmem) rfl),
    State.sent_entry, hxe, State.sent_setEntry, State.setEntry_setEntry]
  rfl

section
variable {b : Agent} {l : Line} {w : WayNo}
  (hrest : s.atRest) (hheads : s.noHeadWaits) (hsound : s.tagsSound (setOf l)) (hlook : s.lookup l = some w)
  (hlost : s.isLost (setOf l) w = true) (hlawful : s.recordsLawful) (hbusy : s.busy l = some e)
  (howing : s.owingBuffer l = none) (hnone : s.noneAwaiting (setOf l)) (hx : (s.entry e).rebuilds w)
  (hnotes : ∀ a : Agent, (s.entry e).notes[a] = .failed → (s.port a).state ≠ .draining)
  (hphase : (s.entry e).phase = .recalling) (hdata : (s.entry e).data = .none) (hwrote : (s.entry e).wrote = false)
  (hmem : s.memOp e = none)
  (hpending : (s.entry e).pending = (Vector.replicate 6 none).set b (some { kind := .return, placed := true }))
  (hnote : (s.entry e).notes[b] ≠ .failed) (hon : (s.port b).state = .online)
include hrest hpending hx hon

omit hrest hx hon in
theorem State.pending_last : (s.entry e).pending[b] = some { kind := .return, placed := true } := by
  rw [hpending]
  exact Vector.getElem_set_self _

/-- The last acknowledgement, handled (R178). -/
theorem State.handle_rebuildAck {held : Bool} (hactive : (s.entry e).phase ≠ .free)
    (htakes : s.takesHead b (.recallAck (entryByte e) (s.entry e).use held)) : s.handle b .reply =
      ((s.setEntry e ((s.entry e).heard b held)).setPort b
        { (s.port b).settled held (s.entry e).notes[b] with responses := (s.port b).responses.tail }).due
          [.advance e, .admission] := by
  have hlast := State.pending_last hpending
  have hdraining : (s.port b).state ≠ .draining := by rw [hon]; decide
  let u : State := s.setEntry e ((s.entry e).heard b held)
  have hport : ((u.setPort b ((s.port b).settled held (s.entry e).notes[b])).push (.advance e)).port b =
      (s.port b).settled held (s.entry e).notes[b] := State.setPort_port_same u b _
  rw [State.handle_recallAck htakes (State.matchReply_pending hactive hlast rfl),
    State.applyReply_rebuildAck hactive hlast hx hdraining held, State.takeResponse_head (by rw [hport]; exact hdraining), hport,
    State.push_eq_due, State.push_eq_due]
  show ((u.setPort b _).setPort b _).due (s.work ++ [.advance e] ++ [.admission]) = _
  rw [State.setPort_setPort, State.atRest_work hrest]
  rfl

/-- The last answer, with data, handled (R178). -/
theorem State.handle_rebuildData {d : LineData} (hactive : (s.entry e).phase ≠ .free) (hmem : s.memOp e = none)
    (htakes : s.takesHead b (.recallData (entryByte e) (s.entry e).use d false)) : s.handle b .reply =
      ((s.setEntry e { (s.entry e).heard b true with buffer := d, data := .fromHolder }).setPort b
        { (s.port b).settled true (s.entry e).notes[b] with responses := (s.port b).responses.tail }).due
          [.advance e, .admission] := by
  have hlast := State.pending_last hpending
  have hdraining : (s.port b).state ≠ .draining := by rw [hon]; decide
  let u : State := s.setEntry e { (s.entry e).heard b true with buffer := d, data := .fromHolder }
  have hport : ((u.setPort b ((s.port b).settled true (s.entry e).notes[b])).push (.advance e)).port b =
      (s.port b).settled true (s.entry e).notes[b] := State.setPort_port_same u b _
  rw [State.handle_recallData htakes (State.matchReply_pending hactive hlast rfl),
    State.applyReply_rebuildData hactive hlast hx hdraining d (by rw [hmem]; decide),
    State.takeResponse_head (by rw [hport]; exact hdraining), hport, State.push_eq_due, State.push_eq_due]
  show ((u.setPort b _).setPort b _).due (s.work ++ [.advance e] ++ [.admission]) = _
  rw [State.setPort_setPort, State.atRest_work hrest]
  rfl

end

end

end Sys2Proof.Machine
end

section
/-! SUPPORT. The answers and the write of a rebuild carried through to its end (R178 to R180). -/

namespace Sys2Proof.Machine

section
variable {s : State} {e : EntryNo} {b : Agent} {l : Line} {w : WayNo}

/-- The outcome of a rebuild that ends in a state that differs from the first in the rebuild's own entry. -/
theorem State.RebuildEnds.rebuilt {v t : State} {x : Entry} {good : Bool} (h : v.RebuildEnds t e l w good) (harray : s.arrayLawful)
    (hlook : s.lookup l = some w) (hsets : v.sets = s.sets) (hmarks : v.marks = s.marks)
    (hentries : v.entries = (s.setEntry e x).entries) (hactive : (s.entry e).phase ≠ .free) (hx : x.phase ≠ .free)
    (hline : x.line = (s.entry e).line) (hres : x.reserved = (s.entry e).reserved) (huse : x.use = (s.entry e).use) :
    s.Rebuilt t e l w good := by
  obtain ⟨hs, hm⟩ := h.of_alike hsets hmarks (State.freeSearch_kept hsets hmarks hentries hactive hx hline hres (setOf l))
  refine State.rebuilt_of harray hlook hs hm (h.entries.trans ?_)
  have hv : v.entry e = x := (congrArg (fun n : Vector Entry 24 => n[e]) hentries).trans (State.setEntry_entry_same s e x)
  rw [hv, huse]
  show v.entries.set e _ = _
  rw [hentries]
  exact congrArg State.entries (State.setEntry_setEntry s e x _)

section
variable (hrest : s.atRest) (hheads : s.noHeadWaits) (hsound : s.tagsSound (setOf l)) (hlook : s.lookup l = some w)
  (hlost : s.isLost (setOf l) w = true) (hlawful : s.recordsLawful) (hbusy : s.busy l = some e)
  (howing : s.owingBuffer l = none) (hnone : s.noneAwaiting (setOf l)) (hx : (s.entry e).rebuilds w)
  (hnotes : ∀ a : Agent, (s.entry e).notes[a] = .failed → (s.port a).state ≠ .draining)
  (hphase : (s.entry e).phase = .recalling) (hdata : (s.entry e).data = .none) (hwrote : (s.entry e).wrote = false)
  (hmem : s.memOp e = none)
  (hpending : (s.entry e).pending = (Vector.replicate 6 none).set b (some { kind := .return, placed := true }))
  (hnote : (s.entry e).notes[b] ≠ .failed) (hon : (s.port b).state = .online)
include hrest hheads hsound hlook hlost hlawful hbusy howing hnone hx hnotes hphase hdata hmem hpending hnote hon

/-- The last acknowledgement of a rebuild with no data ends it (R179, R180). -/
theorem exec_recallAck_rebuilds {held : Bool} (htakes : s.takesHead b (.recallAck (entryByte e) (s.entry e).use held))
    (hpossible : (held || agents.any (fun a => (s.entry e).notes[a] == .settled)) = true ∨ (s.mark (setOf l) w).due = false ∨
      (s.freeSearch (setOf l)).isSome = true) : ∃ t, exec (.responseHandlerRecallReply b) s = .next t ∧
      s.Rebuilt t e l w (held || agents.any (fun a => (s.entry e).notes[a] == .settled)) ∧
      t.port b = { (s.port b).settled held (s.entry e).notes[b] with responses := (s.port b).responses.tail } ∧
      (∀ a, a ≠ b → t.port a = { s.port a with
        holding := (s.port a).holding - (if (s.entry e).notes[a] = .failed then 1 else 0) }) ∧
      t = { s with
        sets := t.sets, marks := t.marks, ports := t.ports, entries := t.entries
        alertPending := if (s.mark (setOf l) w).due then s.alertPending ||| (1#12 <<< 9) else s.alertPending } := by
  obtain ⟨hactive, hline⟩ := State.busy_some hbusy
  obtain ⟨hrun, -⟩ := State.takesHead_running htakes
  let x : Entry := (s.entry e).heard b held
  let p : Port := { (s.port b).settled held (s.entry e).notes[b] with responses := (s.port b).responses.tail }
  let z : State := (s.setEntry e x).setPort b p
  let good : Bool := held || agents.any (fun a => (s.entry e).notes[a] == .settled)
  have hf : s.handle b .reply = z.due [.advance e, .admission] := State.handle_rebuildAck hrest hx hpending hon hactive htakes
  have hze : z.entry e = x := State.setEntry_entry_same s e x
  have hxpending : x.noPending = true := Entry.noPending_of (Entry.heard_pending hpending held)
  have hxnote : x.notes[b] ≠ .failed := by
    rw [Entry.heard_notes_same]
    split
    · decide
    · exact hnote
  have hport : ∀ a, a ≠ b → z.port a = s.port a := fun a ha => State.setPort_port_ne (s.setEntry e x) p ha.symm
  have hportb : z.port b = p := State.setPort_port_same (s.setEntry e x) b p
  have hzdry : z.undrained := State.undrained_setPort (s := s.setEntry e x) (State.atRest_undrained hrest)
    (Port.drained_state (by rw [show p.state = .online from hon]; decide))
  have hadvance : (z.due [.admission]).advance e = (z.due [.admission]).rebuildEnd e good := by
    have hends := State.advance_rebuildEnds (s := z.due [.admission]) (e := e)
      (by rw [State.due_entry, hze]; exact congrArg Phase.inFlight hphase)
      (by rw [State.due_entry, hze]; exact hx.rebuild) (by rw [State.due_entry, hze]; exact hxpending)
      ((State.memOp_congr (s := s) rfl rfl e).trans hmem) (by rw [State.due_entry, hze]; exact hdata)
    rw [State.due_entry, hze, Entry.heard_settled] at hends
    exact hends
  have hfree := State.freeSearch_kept (s := s) (t := z) (e := e) (x := x) rfl rfl rfl hactive hactive rfl rfl (setOf l)
  have hzheads : z.noHeadWaits := State.noHeadWaits_iff.2 fun a => by
    rw [Port.headWaits, State.setPort_head (s := s.setEntry e x) (p := p) rfl a]
    exact State.noHeadWaits_iff.1 hheads a
  have hznotes : ∀ a : Agent, (z.entry e).notes[a] = .failed → (z.port a).state ≠ .draining := fun a ha => by
    rw [hze] at ha
    by_cases hab : a = b
    · subst hab
      exact absurd ha hxnote
    · rw [hport a hab]
      exact hnotes a (by rw [← Entry.heard_notes_ne held (Ne.symm hab)]; exact ha)
  obtain ⟨hdry, -, t, n, hn, hworks, hends⟩ := State.works_rebuilt (s := z) (e := e) (l := l) (w := w) (good := good)
    (k := [.admission]) (State.arrayLawful_congr (s := s) rfl rfl hlawful.1) ((State.lookup_congr (s := s) rfl rfl l).trans hlook)
    hlost hsound (State.busy_setEntry hbusy hactive hline) hrun (by rw [hze]; exact Entry.heard_rebuilds hx b held) hznotes
    (by rw [hfree]; exact hpossible) hzdry hzheads howing
    (State.noneAwaiting_setEntry hnone (State.not_awaiting hnone (congrArg setOf hline)) x)
    ((State.memOp_congr (s := s) rfl rfl e).trans hmem) (by rw [hze]; exact hxpending) (by simp)
  have hstep : (z.due [.admission]).runTask (.advance e) = (z.due [.admission]).rebuildEnd e good :=
    (State.runTask_running (s := z.due [.admission]) hrun _).trans hadvance
  rw [exec_responseHandlerRecallReply]
  refine ⟨t, Works.event (State.atRest_resetPin hrest) (by rw [hf]; exact Works.step hstep hdry hworks)
    (by rw [hf]; exact State.undrained_congr (s := z) rfl hzdry) ?_,
    hends.rebuilt hlawful.1 hlook rfl rfl rfl hactive hactive rfl rfl rfl, ?_, fun a ha => ?_, ?_⟩
  · have hbound : 6 ≤ Config.workBound := by decide
    simp only [List.length_singleton]
    omega
  · rw [hends.ports, hportb, hze, if_neg hxnote]
    rfl
  · rw [hends.ports, hport a ha, hze, Entry.heard_notes_ne held ha.symm]
  · have ht : t = { s.due [] with
        sets := t.sets, marks := t.marks, ports := t.ports, entries := t.entries
        alertPending := if (s.mark (setOf l) w).due then s.alertPending ||| (1#12 <<< 9) else s.alertPending } := hends.rest
    rw [State.due_self (State.atRest_work hrest)] at ht
    exact ht

include hwrote

omit hlook hlost hlawful hsound howing hnotes hnote hnone hdata in
/-- The last answer of a rebuild brings data, which goes to memory (R179). -/
theorem exec_recallData_rebuilds {d : LineData} {i : MemTagNo}
    (htakes : s.takesHead b (.recallData (entryByte e) (s.entry e).use d false)) (hready : s.tagReady l i) :
    exec (.responseHandlerRecallReply b) s = .next (((s.sent (.write i ((s.tag i).use + 1) l d) i
      { claimant := .entry e, write := true, line := l }).setEntry e { (s.entry e).heard b true with
        phase := .writingMemory, pending := Vector.replicate 6 none, data := .fromHolder, buffer := d, wrote := true }).setPort b
          { (s.port b).settled true (s.entry e).notes[b] with responses := (s.port b).responses.tail }) := by
  obtain ⟨hactive, hline⟩ := State.busy_some hbusy
  obtain ⟨hrun, -⟩ := State.takesHead_running htakes
  let x : Entry := { (s.entry e).heard b true with buffer := d, data := .fromHolder }
  let y : Entry := { (s.entry e).heard b true with
    phase := .writingMemory, pending := Vector.replicate 6 none, data := .fromHolder, buffer := d, wrote := true }
  have hxy : { x with wrote := true, phase := .writingMemory } = y :=
    congrArg (fun p => { y with pending := p }) (Entry.heard_pending hpending true)
  let p : Port := { (s.port b).settled true (s.entry e).notes[b] with responses := (s.port b).responses.tail }
  let z : State := (s.setEntry e x).setPort b p
  let m : MemMsg := .write i ((s.tag i).use + 1) l d
  let c : MemClaim := { claimant := .entry e, write := true, line := l }
  let t : State := ((s.sent m i c).setEntry e y).setPort b p
  have hf : s.handle b .reply = z.due [.advance e, .admission] := State.handle_rebuildData hrest hx hpending hon hactive hmem htakes
  have hze : z.entry e = x := State.setEntry_entry_same s e x
  have hzdry : z.undrained := State.undrained_setPort (s := s.setEntry e x) (State.atRest_undrained hrest)
    (Port.drained_state (by rw [show p.state = .online from hon]; decide))
  have hadvance := State.advance_rebuildWrites (s := z.due [.admission]) (e := e) (l := l) (i := i)
    (by rw [State.due_entry, hze]; exact congrArg Phase.inFlight hphase) (by rw [State.due_entry, hze]; exact hx.rebuild)
    (by rw [State.due_entry, hze]; exact Entry.noPending_of (Entry.heard_pending hpending true))
    ((State.memOp_congr (s := s) rfl rfl e).trans hmem) (by rw [State.due_entry, hze]) (by rw [State.due_entry, hze]; exact hline)
    (by rw [State.due_entry, hze]; exact hwrote) ((State.tagReady_congr (s := s) rfl rfl rfl l i).trans hready)
  rw [State.due_entry, hze] at hadvance
  have hstep : (z.due [.admission]).runTask (.advance e) = t.due [.admission] := by
    rw [State.runTask_running (s := z.due [.admission]) hrun]
    dsimp only
    rw [hadvance, hxy]
    show ((((s.sent m i c).setEntry e x).setPort b p).setEntry e y).due [.admission] = _
    rw [State.setPort_setEntry, State.setEntry_setEntry]
  have htdry : t.undrained := State.undrained_congr (s := z) rfl hzdry
  have htheads : t.noHeadWaits := State.noHeadWaits_iff.2 fun a => by
    rw [Port.headWaits, State.setPort_head (s := (s.sent m i c).setEntry e y) (p := p) rfl a]
    exact State.noHeadWaits_iff.1 hheads a
  rw [exec_responseHandlerRecallReply]
  have hend : t.due [] = t := State.due_self (State.atRest_work (s := s) hrest)
  have hrests : Works 1 (t.due [.admission]) (t.due []) :=
    .pass rfl (State.idles_admission htheads) (by simp) htdry (.none rfl)
  have hworks : Works 2 (z.due [.advance e, .admission]) (t.due []) :=
    .step hstep (State.undrained_congr (s := t) rfl htdry) hrests
  rw [hend] at hworks
  exact Works.event (State.atRest_resetPin hrest) (by rw [hf]; exact hworks)
    (by rw [hf]; exact State.undrained_congr (s := z) rfl hzdry)

end

end

end Sys2Proof.Machine
end

section
/-! SUPPORT. The write of a rebuild, done or failed, as an event (R148, R179, R180). -/

namespace Sys2Proof.Machine

/-- A report and the alert of a disabled way do not depend on each other's order. -/
theorem State.report_wayDisabled (s : State) (r : Report) (due : Bool) :
    (s.wayDisabled due).report r = (s.report r).wayDisabled due := by
  cases due with
  | false => rfl
  | true =>
    cases hcap : s.capture with
    | none =>
      rw [State.report_none hcap, State.report_none (s := s.wayDisabled true) hcap]
      show ({ s with capture := some r, alertPending := s.alertPending ||| (1#12 <<< 9) ||| 2#12 } : State) =
        { s with capture := some r, alertPending := s.alertPending ||| 2#12 ||| (1#12 <<< 9) }
      rw [BitVec.or_assoc, BitVec.or_comm (1#12 <<< 9), BitVec.or_assoc]
    | some q =>
      rw [State.report_some hcap, State.report_some (s := s.wayDisabled true) hcap]
      rfl

section
variable {s : State} {e : EntryNo} {i : MemTagNo} {left : Nat} {status : Byte} {l : Line} {w : WayNo}
  (hrest : s.atRest) (hrun : s.running = true) (hheads : s.noHeadWaits) (hsound : s.tagsSound (setOf l))
  (hlook : s.lookup l = some w) (hlost : s.isLost (setOf l) w = true) (hlawful : s.recordsLawful) (hbusy : s.busy l = some e)
  (howing : s.owingBuffer l = none) (hnone : s.noneAwaiting (setOf l)) (hx : (s.entry e).rebuilds w)
  (hnotes : ∀ a : Agent, (s.entry e).notes[a] = .failed → (s.port a).state ≠ .draining)
  (hpending : (s.entry e).pending = Vector.replicate 6 none)
  (hop : (s.tag i).op = some { claim := { claimant := .entry e, write := true, line := l }, issued := true, left := left })
  (honly : ∀ j o, j ≠ i → (s.tag j).op = some o → o.claim.claimant ≠ .entry e) (hq : s.claimQueue = [])

/-- The report of a rebuild's failed write (R148). -/
def State.rebuildFault (s : State) (e : EntryNo) (l : Line) (w : WayNo) : Report :=
  { kind := .memoryWriteFault, sub := none, agent := none, line := some l, set := some (setOf l), way := some w
    entry := some (entryByte e), time := s.unitTime }

include hrest hrun hheads hsound hlook hlost hlawful hbusy howing hnone hx hnotes hpending honly hq

/-- The end of a rebuild whose write has come to its end, where the write's report may have changed the state. -/
theorem State.works_rebuildWritten (c : Option Report) (v : BitVec 12) (k : Counters) {good : Bool}
    (hpossible : good = true ∨ (s.mark (setOf l) w).due = false ∨ (s.freeSearch (setOf l)).isSome = true) :
    (((s.freeTag i).reported c v k).rebuildEnd e good).undrained ∧
    (((s.freeTag i).reported c v k).rebuildEnd e good).claimQueue = [] ∧
    ∃ t n, n ≤ 4 ∧ Works n (((s.freeTag i).reported c v k).rebuildEnd e good) t ∧
      ((s.freeTag i).reported c v k).RebuildEnds t e l w good := by
  let u : State := (s.freeTag i).reported c v k
  have hmem : u.memOp e = none := (State.memOp_congr (s := s.freeTag i) rfl rfl e).trans (State.memOp_freeTag hq honly)
  have hends := State.works_rebuilt (s := u) (e := e) (l := l) (w := w) (good := good) (k := [])
    (State.arrayLawful_congr (s := s) rfl rfl hlawful.1) ((State.lookup_congr (s := s) rfl rfl l).trans hlook) hlost hsound
    ((State.busy_congr (s := s) rfl l).trans hbusy) hrun hx hnotes
    (by rw [State.freeSearch_congr (s := s) (t := u) rfl rfl fun _ => rfl]; exact hpossible)
    (State.undrained_congr (s := s) rfl (State.atRest_undrained hrest)) (State.noHeadWaits_congr (s := s) rfl hheads) howing hnone
    hmem (Entry.noPending_of hpending) (by simp)
  rw [State.due_self (s := u) (State.atRest_work hrest)] at hends
  obtain ⟨hdry, hqueue, t, n, hn, hworks, hended⟩ := hends
  exact ⟨hdry, hqueue.trans hq, t, n, hn, by simpa using hworks, hended⟩

include hop

/-- A rebuild's write done: the line is clean in memory, and its record is freed (R179). -/
theorem exec_memDone_rebuildGood : ∃ t, exec (.memDone (BitVec.ofNat 8 i.val) (s.tag i).use 0) s = .next t ∧
    (s.freeTag i).RebuildEnds t e l w true := by
  obtain ⟨hdry, hqueue, t, n, hn, hworks, hends⟩ := State.works_rebuildWritten hrest hrun hheads hsound hlook hlost hlawful hbusy
    howing hnone hx hnotes hpending honly hq s.capture s.alertPending s.counters (.inl rfl)
  have hline : (s.entry e).line = l := (State.busy_some hbusy).2
  have htaken : (s.freeTag i).memDoneTaken { claimant := .entry e, write := true, line := l } 0 =
      (s.freeTag i).rebuildEnd e true := by
    unfold State.memDoneTaken
    rw [if_pos (show ((0 : Byte) == 0) = true by decide)]
    show (s.freeTag i).writeGood e = _
    unfold State.writeGood
    dsimp only
    rw [State.settleLineDebt_none (s := s.freeTag i) (by rw [show ((s.freeTag i).entry e).line = l from hline]; exact howing),
      if_pos (show ((s.freeTag i).entry e).rebuild = true from hx.rebuild)]
  have hf := State.memDoneArrives_taken hrun hop rfl rfl 0 (by rw [htaken]; exact hqueue)
  rw [htaken] at hf
  rw [exec_memDone]
  exact ⟨t, Works.event (State.atRest_resetPin hrest) (by rw [hf]; exact hworks) (by rw [hf]; exact hdry)
    (le_trans hn (by decide)), hends⟩

/-- A rebuild's write failed: the fault is reported, and the line is poisoned (R148, R180). -/
theorem exec_memDone_rebuildBad (hstatus : status ≠ 0)
    (hpossible : (s.mark (setOf l) w).due = false ∨ (s.freeSearch (setOf l)).isSome = true) :
    ∃ t, exec (.memDone (BitVec.ofNat 8 i.val) (s.tag i).use status) s = .next t ∧
      ((s.freeTag i).report (s.rebuildFault e l w)).RebuildEnds t e l w false := by
  obtain ⟨c, v, k, halike⟩ := (s.freeTag i).report_alike (s.rebuildFault e l w)
  have hreport := halike (s.freeTag i) rfl rfl rfl
  obtain ⟨hdry, hqueue, t, n, hn, hworks, hends⟩ := State.works_rebuildWritten hrest hrun hheads hsound hlook hlost hlawful hbusy
    howing hnone hx hnotes hpending honly hq c v k (.inr hpossible)
  rw [← hreport] at hdry hqueue hworks hends
  have hline : (s.entry e).line = l := (State.busy_some hbusy).2
  have hbad : (((s.freeTag i).reported c v k).writeBad e) = ((s.freeTag i).reported c v k).rebuildEnd e false := by
    unfold State.writeBad
    dsimp only
    rw [State.settleLineDebt_none (s := (s.freeTag i).reported c v k)
      (by rw [show (((s.freeTag i).reported c v k).entry e).line = l from hline]; exact howing),
      if_pos (show (((s.freeTag i).reported c v k).entry e).rebuild = true from hx.rebuild)]
  have hend : ((s.freeTag i).reportMemory .memoryWriteFault { claimant := .entry e, write := true, line := l }
      (s.lookup l)).endWrite (.entry e) false = ((s.freeTag i).report (s.rebuildFault e l w)).rebuildEnd e false := by
    have horigin : (s.freeTag i).originAgent e = none := by
      unfold State.originAgent
      exact congrArg (Option.map Prod.fst) hx.origin
    unfold State.reportMemory
    dsimp only
    rw [horigin, hlook]
    show ((s.freeTag i).report (s.rebuildFault e l w)).writeBad e = _
    rw [hreport, hbad]
  exact ⟨t, exec_memDone_fails hrest hrun hstatus hop rfl rfl hend hqueue hworks hdry (le_trans hn (by decide)), hends⟩

omit hrest hrun hheads hsound hlook hlost hlawful hbusy howing hnone hx hnotes hpending hop honly hq in
/-- The state after a rebuild's write, with its report apart. -/
theorem State.RebuildEnds.written {t : State} {c : Option Report} {v : BitVec 12} {k : Counters} {good : Bool}
    (h : ((s.freeTag i).reported c v k).RebuildEnds t e l w good) (hwork : s.work = []) : t.tags = (s.freeTag i).tags ∧
    t = (({ s with sets := t.sets, marks := t.marks, ports := t.ports, entries := t.entries, tags := t.tags } : State).reported
      c v k).wayDisabled (s.mark (setOf l) w).due := by
  have htags : t.tags = (s.freeTag i).tags := (congrArg State.tags h.rest :)
  have ht : t = (({ s.due [] with
      sets := t.sets, marks := t.marks, ports := t.ports, entries := t.entries, tags := t.tags } : State).reported
        c v k).wayDisabled (s.mark (setOf l) w).due := h.rest.trans (by rw [htags]; rfl)
  rw [State.due_self hwork] at ht
  exact ⟨htags, ht⟩

/-- A rebuild's write comes to its end, done or failed (R148, R179, R180). -/
theorem exec_memDone_rebuilds (hpossible : (status == 0) = true ∨ (s.mark (setOf l) w).due = false ∨
      (s.freeSearch (setOf l)).isSome = true) :
    ∃ t, exec (.memDone (BitVec.ofNat 8 i.val) (s.tag i).use status) s = .next t ∧ s.Rebuilt t e l w (status == 0) ∧
      (∀ a, t.port a = { s.port a with holding := (s.port a).holding - (if (s.entry e).notes[a] = .failed then 1 else 0) }) ∧
      t.tag i = { s.tag i with op := none } ∧ (∀ j, j ≠ i → t.tag j = s.tag j) ∧
      let done : State := { s with
        sets := t.sets, marks := t.marks, ports := t.ports, entries := t.entries, tags := t.tags
        alertPending := if (s.mark (setOf l) w).due then s.alertPending ||| (1#12 <<< 9) else s.alertPending }
      t = if status = 0 then done else done.report (s.rebuildFault e l w) := by
  obtain ⟨hactive, -⟩ := State.busy_some hbusy
  have hself : s.entries = (s.setEntry e (s.entry e)).entries := by rw [State.setEntry_self]
  have htag : (s.freeTag i).tag i = { s.tag i with op := none } := State.setTag_tag_same s i _
  have htags : ∀ j, j ≠ i → (s.freeTag i).tag j = s.tag j := fun j hj => State.setTag_tag_ne s _ hj.symm
  by_cases hstatus : status = 0
  · subst hstatus
    obtain ⟨t, hexec, hends⟩ := exec_memDone_rebuildGood hrest hrun hheads hsound hlook hlost hlawful hbusy howing hnone hx hnotes
      hpending hop honly hq
    obtain ⟨ht, hdone⟩ := State.RebuildEnds.written (c := s.capture) (v := s.alertPending) (k := s.counters) hends
      (State.atRest_work hrest)
    have htt : ∀ j, t.tag j = (s.freeTag i).tag j := fun j => congrArg (fun n : Vector MemTag 8 => n[j]) ht
    refine ⟨t, hexec, hends.rebuilt hlawful.1 hlook rfl rfl hself hactive hactive rfl rfl rfl, hends.ports, (htt i).trans htag,
      fun j hj => (htt j).trans (htags j hj), ?_⟩
    intro done
    rw [if_pos rfl]
    exact hdone
  · obtain ⟨t, hexec, hends⟩ := exec_memDone_rebuildBad hrest hrun hheads hsound hlook hlost hlawful hbusy howing hnone hx hnotes
      hpending hop honly hq hstatus (hpossible.resolve_left (by simpa using hstatus))
    obtain ⟨c, v, k, halike⟩ := s.report_alike (s.rebuildFault e l w)
    rw [halike (s.freeTag i) rfl rfl rfl] at hends
    obtain ⟨ht, hdone⟩ := hends.written (State.atRest_work hrest)
    have htt : ∀ j, t.tag j = (s.freeTag i).tag j := fun j => congrArg (fun n : Vector MemTag 8 => n[j]) ht
    have hgood : (status == 0) = false := by simpa using hstatus
    rw [hgood]
    refine ⟨t, hexec, hends.rebuilt hlawful.1 hlook rfl rfl hself hactive hactive rfl rfl rfl, hends.ports, (htt i).trans htag,
      fun j hj => (htt j).trans (htags j hj), ?_⟩
    let D : State := { s with sets := t.sets, marks := t.marks, ports := t.ports, entries := t.entries, tags := t.tags }
    have hD : (D.wayDisabled (s.mark (setOf l) w).due).report (s.rebuildFault e l w) =
        (D.reported c v k).wayDisabled (s.mark (setOf l) w).due := by
      rw [State.report_wayDisabled, halike D rfl rfl rfl]
    intro done
    rw [if_neg hstatus]
    exact hdone.trans hD.symm

end

end Sys2Proof.Machine
end

section
/-! SUPPORT. The grant of a rebuild claim: the broadcast to every attached agent (R177, R178). -/

namespace Sys2Proof.Machine

section
variable {s : State} {e : EntryNo} {l : Line} {w : WayNo}

/-- The agents that a rebuild asks, each with the recall that it is sent (R178). -/
def State.rebuildAsks (s : State) : List (Agent × RecallKind) :=
  (agents.filter (fun a => (s.port a).attached)).map (fun a => (a, .return))

theorem State.mem_rebuildAsks {a : Agent} {k : RecallKind} :
    (a, k) ∈ s.rebuildAsks ↔ (s.port a).attached = true ∧ k = .return := by
  unfold State.rebuildAsks
  simp only [List.mem_map, List.mem_filter, Prod.mk.injEq]
  constructor
  · rintro ⟨c, ⟨-, hatt⟩, rfl, rfl⟩
    exact ⟨hatt, rfl⟩
  · rintro ⟨hatt, rfl⟩
    exact ⟨a, ⟨Keeps.mem_agents a, hatt⟩, rfl, rfl⟩

theorem State.rebuildAsks_nodup (s : State) : (s.rebuildAsks.map Prod.fst).Nodup := by
  unfold State.rebuildAsks
  rw [List.map_map, show (Prod.fst ∘ fun a : Agent => (a, RecallKind.return)) = id from rfl, List.map_id]
  exact List.Nodup.filter _ (by decide)

theorem State.broadcastNotes_get (s : State) (a : Agent) :
    s.broadcastNotes[a] = if (s.port a).state = .failed then .failed else .neither := by
  unfold State.broadcastNotes
  simp

/-- The entry that a rebuild claim is granted, before its broadcast. -/
def Entry.rebuildGranted (u : UseNo) (l : Line) : Entry := { Entry.free u with kind := .rebuild, line := l, phase := .starting }

/-- The entry of a rebuild as its broadcast begins (R177). -/
def Entry.broadcasting (u : UseNo) (l : Line) (w : WayNo) (n : Vector Note 6) : Entry :=
  { Entry.rebuildGranted u l with phase := .recalling, rebuild := true, reserved := some w, notes := n }

/-- The opening work of a rebuild's entry: the broadcast (R177, R178). -/
theorem State.start_rebuild {u : UseNo} (hrun : s.running = true) (hentry : s.entry e = Entry.rebuildGranted u l)
    (hsound : s.tagsSound (setOf l)) (hlook : s.lookup l = some w) (hlost : s.isLost (setOf l) w = true)
    (hready : ∀ a, (s.port a).attached = true → (s.port a).ready) :
    ∃ t, (s.setEntry e (Entry.broadcasting u l w s.broadcastNotes)).Asks t e s.rebuildAsks ∧ s.start e = t.push (.advance e) := by
  let y : Entry := Entry.broadcasting u l w s.broadcastNotes
  have hye : (s.setEntry e y).entry e = y := State.setEntry_entry_same s e y
  let t : State := s.rebuildAsks.foldl (fun s p => s.addRecall p.2 e p.1) (s.setEntry e y)
  have hline : (s.entry e).line = l := congrArg Entry.line hentry
  have hactive : (s.entry e).phase ≠ .free := by rw [hentry]; exact Phase.noConfusion
  have hasks : (s.setEntry e y).Asks t e s.rebuildAsks :=
    State.asks_recalls (by rw [hye]; exact Phase.noConfusion) s.rebuildAsks_nodup fun c k hc => hready c (State.mem_rebuildAsks.1 hc).1
  have hstarted : s.startRebuild e = t := by
    unfold State.startRebuild
    dsimp only
    rw [hline, hlook, State.modEntry_active hactive, hentry]
    show (agents.filter fun a => (s.port a).attached).foldl (State.addRecall .return e) (s.setEntry e y) =
      s.rebuildAsks.foldl (fun s p => s.addRecall p.2 e p.1) (s.setEntry e y)
    rw [State.rebuildAsks, List.foldl_map]
  have hopened : s.lookupStep e = t := by
    unfold State.lookupStep
    dsimp only
    rw [State.claimEntry_lost (by rw [hline]; exact hsound) (by rw [hline]; exact hlook) (by rw [hline]; exact hlost),
      if_neg (by simp [hrun]), hline, State.lineLost_of hlook hlost, if_pos rfl, hstarted]
  refine ⟨t, hasks, ?_⟩
  unfold State.start
  dsimp only
  rw [if_neg (by simp [show (s.entry e).phase = .starting from congrArg Entry.phase hentry]),
    show (s.entry e).kind = .rebuild from congrArg Entry.kind hentry]
  dsimp only
  rw [hopened, if_neg (by rw [hasks.running, State.setEntry_running, hrun]; decide),
    if_neg (by rw [hasks.phase, hye]; exact Bool.false_ne_true)]

/-- The step of a rebuild whose broadcast is not all answered. -/
theorem State.advance_broadcasting (hphase : (s.entry e).phase = .recalling) (hrebuild : (s.entry e).rebuild = true)
    (hpending : (s.entry e).noPending = false) (hmem : s.memOp e = none) : s.advance e = s := by
  have hfly : (s.entry e).phase.inFlight = true := by rw [hphase]; rfl
  rw [State.advance_inFlight hfly, if_pos hrebuild]
  unfold State.advanceRebuild
  dsimp only
  rw [if_neg (by rw [hpending]; simp), State.settlePhase_recalling hfly hmem hpending, State.setEntry_of_eq]
  rw [← hphase]

/-- Recalls placed in a state with work set apart. -/
theorem State.Asks.atRest {t : State} {k : List Task} {ps : List (Agent × RecallKind)} (h : (s.due k).Asks t e ps)
    (hwork : s.work = []) : s.Asks (t.due []) e ps where
  port_asked := h.port_asked
  port_other := h.port_other
  pending_asked := h.pending_asked
  pending_other := h.pending_other
  entry := h.entry
  others := h.others
  rest := by
    have ht : t.due [] = { s.due [] with ports := t.ports, entries := t.entries } := congrArg (fun q : State => q.due []) h.rest
    rw [State.due_self hwork] at ht
    exact ht

/-- The row of a rebuild claim for an idle line (R177, R178). -/
theorem exec_internalPoolGrant_rebuild {c : RebuildClaim} {rest : List RebuildClaim} (hrest : s.atRest) (hrun : s.running = true)
    (hheads : s.noHeadWaits) (hsound : s.tagsSound (setOf l)) (hlook : s.lookup l = some w)
    (hlost : s.isLost (setOf l) w = true) (hclaims : s.rebuildClaims = c :: rest) (hline : c.line = l)
    (hfree : s.freeEntry internalPool = some e) (hidle : s.busy l = none) (hmem : s.memOp e = none)
    (hsome : ∃ a, (s.port a).attached = true) (hready : ∀ a, (s.port a).attached = true → (s.port a).ready) :
    ∃ t, exec .internalPoolGrant s = .next t ∧
      (({ s with rebuildClaims := rest } : State).setEntry e
        (Entry.broadcasting ((s.entry e).use + 1) l w s.broadcastNotes)).Asks t e s.rebuildAsks := by
  let v : State := { s with rebuildClaims := rest }
  let x : Entry := Entry.rebuildGranted ((s.entry e).use + 1) l
  let y : Entry := Entry.broadcasting ((s.entry e).use + 1) l w s.broadcastNotes
  let z : State := v.setEntry e x
  have hze : z.entry e = x := State.setEntry_entry_same v e x
  have hye : (v.setEntry e y).entry e = y := State.setEntry_entry_same v e y
  have hf : s.grantInternal = z.due [.start e, .admission] := by
    rw [State.grantInternal_rebuild hrun hclaims hfree, State.grantRebuild, hline,
      if_neg (by rw [show ({ s with rebuildClaims := rest } : State).busy l = none from hidle]; decide), State.allocInternal,
      State.push_eq_due, State.push_eq_due]
    show z.due (s.work ++ [.start e] ++ [.admission]) = _
    rw [State.atRest_work hrest]
    rfl
  obtain ⟨t, hasks, hstart⟩ := State.start_rebuild (s := z.due [.admission]) (u := (s.entry e).use + 1) (l := l) (w := w) hrun hze
    hsound ((State.lookup_congr (s := s) rfl rfl l).trans hlook) hlost hready
  rw [show (z.due [.admission]).setEntry e (Entry.broadcasting ((s.entry e).use + 1) l w (z.due [.admission]).broadcastNotes) =
    ((v.setEntry e x).setEntry e y).due [.admission] from rfl, State.setEntry_setEntry] at hasks
  have hrested := hasks.atRest (State.atRest_work (s := s) hrest)
  have hasked : s.rebuildAsks ≠ [] := by
    obtain ⟨a, ha⟩ := hsome
    exact List.ne_nil_of_mem (State.mem_rebuildAsks.2 ⟨ha, rfl⟩)
  let q : State := t.due []
  have hqdry : q.undrained := hrested.undrained (State.undrained_congr (s := s) rfl (State.atRest_undrained hrest))
  have hqheads : q.noHeadWaits := hrested.noHeadWaits (State.noHeadWaits_congr (s := s) rfl hheads)
  have hqentry := hrested.entry
  rw [hye] at hqentry
  have hadvance : q.advance e = q := State.advance_broadcasting (by rw [hrested.phase, hye]; rfl) (by rw [hqentry]; rfl)
    (hrested.pending hasked) ((hrested.memOp e).trans ((State.memOp_congr (s := s) rfl rfl e).trans hmem))
  have hstep : (z.due [.admission]).runTask (.start e) = q.due [.admission, .advance e] := by
    rw [State.runTask_running (s := z.due [.admission]) hrun]
    dsimp only
    rw [hstart, State.push_eq_due, hasks.work]
    rfl
  have hlast : Works 1 (q.due [.advance e]) q := .last rfl
    ((State.runTask_running (s := q) (hrested.running.trans hrun) _).trans hadvance) hqdry rfl
  have hworks : Works 3 (z.due [.start e, .admission]) q := .step hstep (State.undrained_congr (s := q) rfl hqdry)
    (.pass (s := q.due [.admission, .advance e]) rfl (State.idles_admission hqheads) (by simp) hqdry hlast)
  rw [exec_internalPoolGrant]
  exact ⟨q, Works.event (State.atRest_resetPin hrest) (by rw [hf]; exact hworks)
    (by rw [hf]; exact State.undrained_congr (s := s) rfl (State.atRest_undrained hrest)), hrested⟩

end

end Sys2Proof.Machine
end

section
/-! The rebuild of a lost record, settled (R177 to R180). -/

namespace Sys2Proof.Machine

/-- Settles O39: the broadcast of a granted rebuild, its last answers, and the end of its memory write. -/
theorem rebuildsBroadcastAndEnd : Obligations.RebuildsBroadcastAndEnd := by
  intro e l w s hrest hrun hheads hsound hlook hlost n x
  refine ⟨fun c rest hclaims hline hfree hidle hmem hsome hready => ?_, ?_⟩
  · obtain ⟨t, hexec, hasks⟩ := exec_internalPoolGrant_rebuild hrest hrun hheads hsound hlook hlost hclaims hline hfree hidle hmem
      hsome hready
    let v : State := { s with rebuildClaims := rest }
    let y : Entry := Entry.broadcasting (x.use + 1) l w s.broadcastNotes
    have hye : (v.setEntry e y).entry e = y := State.setEntry_entry_same v e y
    have hte := hasks.entry
    rw [hye] at hte
    have hnotes : (t.entry e).notes = s.broadcastNotes := congrArg Entry.notes hte
    refine ⟨t, hexec, fun a ha => ⟨?_, hasks.pending_asked a .return (State.mem_rebuildAsks.2 ⟨ha, rfl⟩)⟩, fun a ha => ?_,
      fun a => ?_, ?_,
      fun f hf => (hasks.others f hf).trans (State.setEntry_entry_ne v y hf.symm), hasks.rest⟩
    · have hport := hasks.port_asked a .return (State.mem_rebuildAsks.2 ⟨ha, rfl⟩)
      rw [hye] at hport
      exact hport
    · have hout : ∀ k, (a, k) ∉ s.rebuildAsks := fun k hk => by
        rw [(State.mem_rebuildAsks.1 hk).1] at ha
        cases ha
      have hpending := hasks.pending_other a hout
      rw [hye] at hpending
      exact ⟨hasks.port_other a hout, hpending.trans (by simp [y, Entry.broadcasting, Entry.rebuildGranted, Entry.free])⟩
    · rw [hnotes]
      exact State.broadcastNotes_get s a
    · rw [hnotes]
      exact hte
  · intro hlawful hbusy howing hnone hentry hnotes due possible noted ended disabled
    have hx := Entry.rebuilds_of hentry
    refine ⟨?_, ?_⟩
    · intro b hphase hdata hwrote hmem hpending hnote hon settled asked
      refine ⟨?_, fun d i htakes hready => ?_⟩
      · intro held htakes good hpossible
        obtain ⟨t, hexec, hends, hport, hothers, ht⟩ := exec_recallAck_rebuilds hrest hheads hsound hlook hlost hlawful hbusy
          howing hnone hx hnotes hphase hdata hmem hpending hnote hon htakes hpossible
        exact ⟨t, hexec, ⟨hends.entry, hends.others, hends.sets, hends.marks, hends.mark, hends.absent, hends.inPlace,
          hends.elsewhere⟩, hport, hothers, ht⟩
      · exact exec_recallData_rebuilds hrest hheads hbusy hx hphase hwrote hmem hpending hon htakes hready
    · intro i left status hphase hpending hop honly hq hpossible
      obtain ⟨t, hexec, hends, hports, htag, htags, hdone⟩ := exec_memDone_rebuilds hrest hrun hheads hsound hlook hlost hlawful
        hbusy howing hnone hx hnotes hpending hop honly hq hpossible
      exact ⟨t, hexec, ⟨hends.entry, hends.others, hends.sets, hends.marks, hends.mark, hends.absent, hends.inPlace,
        hends.elsewhere⟩, hports, htag, htags, hdone⟩

end Sys2Proof.Machine
end
